-- ==== Sys2Proof/Word.lean ====
section
/-! DEFINITION. The widths the manual numbers things by (R2, R3). -/

namespace Sys2Proof

/-- A byte. -/
abbrev Byte := BitVec 8

/-- A word is 32 bits (R3). -/
abbrev Word := BitVec 32

/-- A 64-bit register value, seed or bus address. -/
abbrev DWord := BitVec 64

/-- A sparse table keyed by number, sorted by key (contexts, arrays, stacks ...). -/
abbrev Table (α : Type) := List (Nat × α)

end Sys2Proof
end

