-- ==== Sys2Proof/Syntax.lean ====
section
/-! DEFINITION. The commands of the block: one constructor of Instr for each row of the opcode table,
with the operand types they carry (descriptors, tile instructions, error places), and the content of a
plan container that the manual describes without a byte layout (R106). -/

namespace Sys2Proof

/-- A descriptor: sixteen words (R301). -/
structure Desc where
  w0 : Word
  w1 : Word
  w2 : Word
  w3 : Word
  w4 : Word
  w5 : Word
  w6 : Word
  w7 : Word
  w8 : Word
  w9 : Word
  w10 : Word
  w11 : Word
  w12 : Word
  w13 : Word
  w14 : Word
  w15 : Word
  deriving DecidableEq, Repr, Inhabited

/-- A port of the device by its role (R287). -/
inductive Port where
  | steward
  | tenant
  deriving DecidableEq, Repr, Inhabited

/-- The operation codes of a PRU request (R73, R86). -/
inductive PruOp where
  | sqrt
  | recip
  | rsqrt
  | pivot
  deriving DecidableEq, Repr, Inhabited

/-- One tile instruction with the fields of the table Instruction Fields (R86). Fields the table
marks −1 hold the true count here. -/
inductive Tile where
  | cfgMode (fs fm : Nat) (strict : Bool) (rnd acc : Nat) (sgnS sgnM : Bool)
  | cfgAddr (areg origin : Nat) (stride : Int) (wrap : Nat)
  | cfgPos (preg base rowlen : Nat) (adv : Int)
  | cfgFxq (qa qb qpIn qpOut : Nat)
  | cfgStream (stream : Nat)
  | lds (areg buf : Nat) (orient : Bool) (nrows nelem : Nat)
  | strm (areg buf nvec : Nat) (offer : Bool) (take : Nat)
  | maccZero
  | maccStore (areg : Nat)
  | maccKeep
  | drn (areg fmt : Nat) (stoch carried : Bool) (preg : Nat) (sh : Nat)
  | drnNow (areg fmt : Nat) (stoch carried : Bool) (preg : Nat) (sh : Nat)
  | gram (a b : Nat) (same : Bool) (nstep : Nat) (masken : Bool) (fdiv preg : Nat)
  | twinOffer (areg nrows nelem fmt : Nat)
  | twinTake (areg nrows nelem fmt : Nat)
  | histWrite (areg : Nat) (clr : Bool)
  | histMerge (stg : Nat) (clr : Bool)
  | bchkWrite (areg bitoff bstride : Nat)
  | bchkLoad (areg bitoff bstride : Nat)
  | pru (op : PruOp) (fmt src dst n : Nat) (sync : Bool)
  | loop (lctr count target : Nat)
  | tokw (tok n : Nat) (keep : Bool)
  | toks (tok n : Nat)
  | rng (areg preg nrow nelem : Nat)
  | mark (trc : Bool) (id : Word)
  | samp (tag : Nat)
  | haltEnd (waitt : Bool) (tok : Nat)
  | haltNext (seg : Nat) (waitt : Bool) (tok : Nat)
  | haltNextYield (seg : Nat) (waitt : Bool) (tok : Nat)
  deriving DecidableEq, Repr, Inhabited

/-- Where an uncorrectable or corrected word lies (R402, R404). -/
inductive ErrorPlace where
  /-- array store, program store or cell register of a die array -/
  | array (a addr : Nat)
  /-- sector-store slice, 16s + k -/
  | slice (n addr : Nat)
  /-- HBM page; `reader` is the context that issued the read, if any -/
  | page (stack page : Nat) (reader : Option Nat)
  /-- shadow page of a transaction; `prepare` while row 2 runs -/
  | shadow (stack page : Nat) (prepare : Bool)
  /-- receive buffer of the collective engine, of the collective with this index in flight -/
  | collective (idx : Nat)
  /-- data in flight that is moved for a context, on the ring or interposer (R402); the stack and page it was read from,
  where it was -/
  | flight (ctx : Nat) (source : Option (Nat × Nat))
  /-- a transfer received with EP set for a context (R403) -/
  | poisoned (port : Port) (ctx : Nat)
  /-- sample buffer of a sector, and the record the word lies in -/
  | sample (sector record : Nat)
  /-- sluice ring of a port, and the record the word lies in, where it is named -/
  | sluice (port : Port) (record : Option Nat)
  /-- a read through BAR2 -/
  | bar2 (port : Port) (stack page : Nat)
  /-- firmware image, in its duplicate or not; `both` copies failed or not -/
  | firmware (dup both : Bool)
  /-- page map of a stack's version map agent, with the page the word lies in -/
  | pageMap (stack page : Nat)
  | versionTable
  | contextTable
  /-- structure table: the problems with entries in the failed words, as context and problem number -/
  | structureTable (problems : List (Nat × Nat))
  | management
  deriving DecidableEq, Repr, Inhabited

/-- Where a corrected word was read (R401, R284). -/
inductive CorrectPlace where
  | sram
  /-- on a path of the die, or of a stack's data where the stack is named -/
  | path (stack : Option Nat)
  | stack (s : Nat)
  deriving DecidableEq, Repr, Inhabited

/-- Rails the device monitors (R436), and any other rail. -/
inductive Rail where
  | vcore
  | vsram
  | vcoreS0
  deriving DecidableEq, Repr, Inhabited

/-- What a regulator or the monitor reports (R436). -/
inductive RailStatus where
  | undervoltage
  | off
  | otherFault
  deriving DecidableEq, Repr, Inhabited

/-- What a peer's posted write carries (R335, R336). -/
inductive PeerPayload where
  /-- data of a collective: its key, the parameters its first data carries, and the sender's operand bytes -/
  | data (key : Word) (sub fmt root : Nat) (count : Nat) (bytes : List Byte)
  /-- returned credit, in bytes consumed -/
  | credit (bytes : Nat)
  deriving DecidableEq, Repr, Inhabited

/-- A JTAG operation through a stack's IEEE 1500 wrapper (R281). -/
inductive Op1500 where
  | read (reg : Nat)
  | write (reg : Nat) (data : Nat)
  deriving DecidableEq, Repr, Inhabited

/-- A resource of the weir loop found interfered with in a window, and the traffic seen there (R329). -/
structure Interference where
  /-- 0–11 stack, 16 + port, 32 collective engine (R330) -/
  resource : Nat
  /-- the contexts and weirs whose traffic used the resource in the window -/
  users : List (Nat × Nat)
  /-- priority of the P0 or P1 contexts that waited more than 2 % of the window there, the higher one; none if none did -/
  waiter : Option Nat
  deriving DecidableEq, Repr, Inhabited

/-! ### Content of a plan container (R106). The bytes that hold it are laid out by Bylan. -/

/-- Placement attribute of a region (R270). -/
inductive Placement where
  | near
  | spread
  | pinned (s : Nat)
  deriving DecidableEq, Repr, Inhabited

/-- A tensor with CARRIED scaling: its rows, blocks in a row, initial exponent, and the region of its bitmap (R227, R231). -/
structure CarriedDecl where
  wide : Bool
  rows : Nat
  nb : Nat
  exponent : Nat
  bitmap : Nat
  deriving DecidableEq, Repr, Inhabited

/-- A region of the region table (R106, R270, R124). -/
structure RegionDecl where
  num : Nat
  place : Placement
  size : Nat
  versioned : Bool
  carried : Option CarriedDecl
  /-- bytes from row to row when its rows are the samples of a micro-batch, else 0 (R124) -/
  sampleRow : Nat
  /-- places of the region, one for each micro-batch slot, when its tensor belongs to the slots; else 1 (R112, R227; log entry 91) -/
  slots : Nat
  deriving DecidableEq, Repr, Inhabited

/-- A weight object (R118, R182 table Training State, R206). Regions are numbers of the region table. -/
structure ObjectDecl where
  num : Nat
  frozen : Bool
  /-- elements of a row (inputs) and rows (outputs): a row runs along the reduction axis (R38, R170) -/
  cols : Nat
  rows : Nat
  /-- master format: true pair-32, false binary32 -/
  pairMaster : Bool
  hasM : Bool
  hasV : Bool
  /-- working copy format, coded as R85: 4, 5, 8, or 0 for INT4 frozen -/
  wcFmt : Nat
  master : Nat
  mReg : Nat
  vReg : Nat
  wc : Nat
  /-- block status bitmap of a TB8 working copy (R39) -/
  wcMap : Nat
  grad : Nat
  gradMap : Nat
  err : Nat
  staging : Nat
  stagingMap : Nat
  /-- selection stream and the stream of the preconditioned drain (R135, R170) -/
  selStream : Nat
  outStream : Nat
  /-- written by an AUX plan -/
  writes : Bool
  /-- how it is divided over its shard cut: 0 whole, 1 H mode, 2 L mode, with the cut and the scratch of L mode (R342, R343) -/
  shard : Nat
  shardCut : Nat
  scratch : Nat
  /-- rows of its tensors in other than block formats begin at multiples of this many bytes (log entry 58) -/
  align : Nat
  deriving DecidableEq, Repr, Inhabited

/-- A statistic of an object (R131, R132): side 0 A, 1 G. -/
structure StatDecl where
  obj : Nat
  side : Nat
  dim : Nat
  blockSize : Nat
  region : Nat
  /-- compiled sampling fraction f -/
  fraction : Nat
  /-- sector group that runs its GRAM stages -/
  group : Nat
  /-- root memory region -/
  roots : Nat
  /-- cut over which the statistic is shared (R345) -/
  shared : Option Nat
  deriving DecidableEq, Repr, Inhabited

/-- A sampled view (R136): the source tensor region, its row bytes, and the capacity. -/
structure ViewDecl where
  num : Nat
  obj : Nat
  side : Nat
  source : Nat
  fmt : Nat
  cols : Nat
  pitch : Nat
  capacity : Nat
  deriving DecidableEq, Repr, Inhabited

/-- One operand of an element stage: region, format, lane register, whether it has a value for each element (0), for
each row (1) or for each column (2), and where its rows begin when it is in no block format. -/
structure LaneOperand where
  region : Nat
  fmt : Nat
  reg : Nat
  along : Nat
  align : Nat
  /-- block status bitmap of a tensor in a block format (R39) -/
  bitmap : Nat
  deriving DecidableEq, Repr, Inhabited

/-- What a stage does (R109). -/
inductive StageKind where
  /-- tile programs on the partition's pairs -/
  | array
  /-- a granary microprogram over rows × cols elements (R110) -/
  | element (prog : List Word) (inputs : List LaneOperand) (output : LaneOperand) (rows cols : Nat)
  /-- expansion of an INT4 frozen object into TB8 scratch (R120) -/
  | expand (obj scratch bitmap : Nat)
  deriving DecidableEq, Repr, Inhabited

/-- A stage of a plan (R109): the tensors (regions) it reads and writes, the working copies it reads,
the sampled views it reads, the statistics it accumulates, the objects whose dW it drains, its layer. -/
structure StageDecl where
  num : Nat
  kind : StageKind
  reads : List Nat
  writes : List Nat
  weights : List Nat
  views : List Nat
  grams : List (Nat × Nat)
  dws : List Nat
  layer : Nat
  deriving DecidableEq, Repr, Inhabited

/-- A fill entry (R99). -/
structure FillEntry where
  dir : Nat
  waitTok : Nat
  sigTok : Nat
  waitEn : Bool
  sigEn : Bool
  line : Nat
  rows : Nat
  rowBytes : Nat
  stride : Nat
  region : Nat
  offset : Nat
  mstride : Nat
  repeats : Nat
  deriving DecidableEq, Repr, Inhabited

/-- The refresh scratch of a sector group (R166): its region, which begins with the snapshot area; the bytes at which the
working area of eight pair-32 matrices and the result area begin; and the bytes of each of the four result places. -/
structure ScratchDecl where
  group : Nat
  region : Nat
  work : Nat
  result : Nat
  place : Nat
  deriving DecidableEq, Repr, Inhabited

/-- One program section (R106): a logical array's directory of segments (byte in the container, length in words), its entry
segment for each stage, and the fill lists of the array, each entry as its eight words (R99). -/
structure ProgramDecl where
  logical : Nat
  segments : List (Nat × Nat)
  entries : List (Option Nat)
  fillsIn : List (List Word)
  fillsOut : List (List Word)
  deriving DecidableEq, Repr, Inhabited

/-- Binary points of a problem class and its row scales (R249, R250). -/
structure ClassDecl where
  num : Nat
  qx : Nat
  qz : Nat
  qj : Nat
  qw : Nat
  qh : Nat
  ql : Nat
  qy : Nat
  scales : List Int
  deriving DecidableEq, Repr, Inhabited

/-- The program, routing and range sections of a plan (R106) with what other chapters say they hold. -/
structure PlanBody where
  programs : List ProgramDecl
  /-- replay programs for S1 mode (R229), one per logical array; empty when the plan has none -/
  replays : List ProgramDecl
  /-- sector group of each logical pair -/
  groups : List Nat
  tokens : List Nat
  regions : List RegionDecl
  objects : List ObjectDecl
  stats : List StatDecl
  views : List ViewDecl
  stages : List StageDecl
  classes : List ClassDecl
  /-- compiled micro-batch size M (R124) -/
  m : Nat
  /-- statistics region, granary record region, histogram log region and depth, solver state region -/
  statsRegion : Nat
  recordRegion : Nat
  histLog : Nat
  histDepth : Nat
  solverRegion : Nat
  /-- refresh scratch of each sector group (R166) -/
  scratches : List ScratchDecl
  /-- location of each stage histogram: stage, region, byte offset (R94, R106) -/
  hists : List (Nat × Nat × Nat)
  /-- stash of each trained object's product: object and region of X (R112) -/
  stashes : List (Nat × Nat)
  /-- reduction index of the first element of the memory rows of each tile (R58) -/
  tiles : List Nat
  /-- tensors outputs of stages for tensor watch: stage, region, rows, elements, format -/
  outputs : List (Nat × Nat × Nat × Nat × Nat)
  deriving DecidableEq, Repr, Inhabited

/-! ### The commands -/

/-- One constructor for each row of spec/opcode_table.json, in the table's order. -/
inductive Instr where
  -- descriptors: the context whose ring holds it, and its words (R293, R301)
  | nop (c : Nat) (d : Desc)
  | copy (c : Nat) (d : Desc)
  | gather (c : Nat) (d : Desc)
  | scatter (c : Nat) (d : Desc)
  | planLoad (c : Nat) (d : Desc)
  | planRun (c : Nat) (d : Desc)
  | statCfgSet (c : Nat) (d : Desc)
  | statCfgReset (c : Nat) (d : Desc)
  | rootRefresh (c : Nat) (d : Desc)
  | precondCfg (c : Nat) (d : Desc)
  | granStepFull (c : Nat) (d : Desc)
  | granStepNorm (c : Nat) (d : Desc)
  | granStepApply (c : Nat) (d : Desc)
  | granStepDiscard (c : Nat) (d : Desc)
  | granProg (c : Nat) (d : Desc)
  | txnBegin (c : Nat) (d : Desc)
  | txnCommit (c : Nat) (d : Desc)
  | txnAbort (c : Nat) (d : Desc)
  | allreduce (c : Nat) (d : Desc)
  | reducescatter (c : Nat) (d : Desc)
  | allgather (c : Nat) (d : Desc)
  | broadcast (c : Nat) (d : Desc)
  | permute (c : Nat) (d : Desc)
  | slvStructLoad (c : Nat) (d : Desc)
  | slvStructFree (c : Nat) (d : Desc)
  | slvDelta (c : Nat) (d : Desc)
  | slvBatch (c : Nat) (d : Desc)
  | waitFrame (c : Nat) (d : Desc)
  | waitToken (c : Nat) (d : Desc)
  | waitSeq (c : Nat) (d : Desc)
  | signal (c : Nat) (d : Desc)
  | mark (c : Nat) (d : Desc)
  | watchOff (c : Nat) (d : Desc)
  | watchStatistics (c : Nat) (d : Desc)
  | watchDigest (c : Nat) (d : Desc)
  | harvest (c : Nat) (d : Desc)
  | regGroup (c : Nat) (d : Desc)
  | ctxDefine (c : Nat) (d : Desc)
  | partSet (c : Nat) (d : Desc)
  | ctxTeardown (c : Nat) (d : Desc)
  | ctxFree (c : Nat) (d : Desc)
  | springEnter (c : Nat) (d : Desc)
  | springExit (c : Nat) (d : Desc)
  -- tile instructions: the die array and the fields of R86
  | cfgMode (a fs fm : Nat) (strict : Bool) (rnd acc : Nat) (sgnS sgnM : Bool)
  | cfgAddr (a areg origin : Nat) (stride : Int) (wrap : Nat)
  | cfgPos (a preg base rowlen : Nat) (adv : Int)
  | cfgFxq (a qa qb qpIn qpOut : Nat)
  | cfgStream (a stream : Nat)
  | lds (a areg buf : Nat) (orient : Bool) (nrows nelem : Nat)
  | strm (a areg buf nvec : Nat) (offer : Bool) (take : Nat)
  | maccZero (a : Nat)
  | maccStore (a areg : Nat)
  | maccKeep (a : Nat)
  | drn (a areg fmt : Nat) (stoch carried : Bool) (preg sh : Nat)
  | drnNow (a areg fmt : Nat) (stoch carried : Bool) (preg sh : Nat)
  | gram (a ra rb : Nat) (same : Bool) (nstep : Nat) (masken : Bool) (fdiv preg : Nat)
  | twinOffer (a areg nrows nelem fmt : Nat)
  | twinTake (a areg nrows nelem fmt : Nat)
  | histWrite (a areg : Nat) (clr : Bool)
  | histMerge (a stg : Nat) (clr : Bool)
  | bchkWrite (a areg bitoff bstride : Nat)
  | bchkLoad (a areg bitoff bstride : Nat)
  | pruSqrt (a fmt src dst n : Nat) (sync : Bool)
  | pruRecip (a fmt src dst n : Nat) (sync : Bool)
  | pruRsqrt (a fmt src dst n : Nat) (sync : Bool)
  | pruPivot (a fmt src dst n : Nat) (sync : Bool)
  | loop (a lctr count target : Nat)
  | tokw (a tok n : Nat) (keep : Bool)
  | toks (a tok n : Nat)
  | rng (a areg preg nrow nelem : Nat)
  | markInstruction (a : Nat) (trc : Bool) (id : Word)
  | samp (a tag : Nat)
  | haltEnd (a : Nat) (waitt : Bool) (tok : Nat)
  | haltNext (a seg : Nat) (waitt : Bool) (tok : Nat)
  | haltNextYield (a seg : Nat) (waitt : Bool) (tok : Nat)
  -- steps of the arrays and fill engines
  | twinRendezvous (pair : Nat)
  | twinTimeout (a : Nat)
  | tokenIncrement (c : Nat)
  | tokwTimeout (a : Nat)
  | ldsComplete (a buf : Nat)
  | passComplete (a : Nat)
  | fillRun (a : Nat) (inbound : Bool)
  | fillRunDone (a : Nat) (inbound : Bool)
  | pruRequest (sector : Nat)
  | granaryChunk (stack : Nat)
  | transactionPlace
  | weirPass (c weir : Nat)
  -- stages, folds, statistics, refreshes
  | stageStart (c : Nat) (seq : Word) (stage : Nat)
  | stageComplete (c : Nat) (seq : Word) (stage : Nat)
  | rowMap (c : Nat) (seq : Word) (view : Nat)
  | fold (obj : Nat)
  | gramStage (c : Nat) (seq : Word) (obj side : Nat)
  | layerReplay (c : Nat) (seq : Word) (layer : Nat)
  | rescale (c slot : Nat)
  | blockRelease (block : Nat)
  | refreshStart (group : Nat)
  | refreshFinish (group : Nat)
  | preconditioning (obj : Nat)
  | normCheck
  -- transactions
  | commitPrepare (c tag : Nat)
  | groupVote (rank : Nat) (key : Word) (commit : Bool)
  | voteTimeout (c tag : Nat)
  | commitPoint (c tag : Nat)
  | partitionChange (c : Nat)
  -- solver
  | batchRelease (c : Nat) (seq : Word)
  | problemStart (c pair : Nat)
  | solverFragment (c problem : Nat)
  | deadline (c : Nat) (seq : Word)
  -- scheduling
  | pairReturnRequest (pair : Nat)
  | borrowerOverrun (pair : Nat)
  | fallowEntry (pair : Nat)
  | fallowWake (pair : Nat)
  | contextBlocked (c : Nat)
  | swapPoll
  | weirWindow (seen : List Interference)
  -- host interface
  | doorbellPoll (p : Port) (entry : Nat)
  | pollIntervalAdjust (c : Nat)
  | activeExpiry (c : Nat)
  | eventQueueDrain (p : Port)
  | linkDown (p : Port)
  | linkUp (p : Port) (speed width : Nat)
  -- cadence: an edge carries the eighth of the current cycle at which it arrives
  | cadenceIn (eighth : Nat)
  | holdoverBoundary
  | internalBoundary
  | ppsIn
  | ppsTimeout
  | waitFrameReached (c : Nat)
  -- debug
  | watchRead (c : Nat) (seq : Word) (point : Nat)
  | sample (a latency stall : Nat)
  | sluiceTrigger (p : Port) (cond : Nat)
  | sluiceFreeze (p : Port)
  | bwWindow
  -- memory, errors, power
  | stackTemperature (stack temp : Nat)
  | refreshOffsetAdjust (stack : Nat)
  | uncorrectableError (place : ErrorPlace)
  | correction (place : CorrectPlace)
  | rasGlobalWindow
  | thermalPowerLoop (junction watts : Nat)
  | thermalEmergency
  | thermalClear
  | thermtrip
  | railFault (rail : Rail) (status : RailStatus)
  | pmbAlertN (found : List (Rail × RailStatus))
  -- resets and start-up
  | pwrokRise (portaRole testMode : Bool)
  | pwrokFall
  | warmReset (byPin : Bool)
  | warmResetRelease
  | portReset
  | portResetRelease
  | rom
  | verifying
  | training (answering : BitVec 12) (failing : List (Nat × Nat)) (spare : List (Nat × Nat))
  | identity
  | init
  -- register writes with behaviour of their own
  | go (p : Port)
  | firmwareLoadWrite (p : Port) (offset : Nat) (bytes : List Byte)
  | cadAnchor (p : Port) (value : DWord)
  | hifEvtRingEnable (p : Port) (value : DWord)
  | hifDoorbellEnable (p : Port) (value : DWord)
  | sluiceEnable (p : Port) (value : Word)
  | dump (p : Port)
  | force (p : Port)
  | pmcClear (p : Port) (banks : BitVec 3)
  | pmcFreeze (p : Port) (banks : BitVec 3)
  | rasLogClear (p : Port)
  | txnShadowCfg (p : Port) (value : Word)
  | crvTheta (p : Port) (value : Word)
  | crvRootCfg (p : Port) (value : Word)
  | numScaleCfg (p : Port) (value : Word)
  | ctxWeirCfg (p : Port) (c weir : Nat) (value : Word)
  | colCfg (p : Port) (offset : Nat) (value : DWord)
  | registerWrite (p : Port) (offset width value : Nat)
  | bar2Read (p : Port) (addr len : Nat)
  | bar2Write (p : Port) (addr : Nat) (bytes : List Byte)
  | ieee1500Access (stack : Nat) (op : Op1500)
  | attestation (p : Port) (request : List Byte)
  | peerWrite (reqId : Nat) (payload : PeerPayload)
  | collectiveTimeout (rank : Nat)
  | smbHottestJunction
  | smbPower
  | smbStageState
  | smbAlertConditions
  | smbSpringCause
  | smbHottestStack
  | registerRead (p : Port) (offset width : Nat)
  | counterOverflow (bank unit idx value : Nat)
  | idle (pair : Nat)
  | railClear (rail : Rail)
  | doeAbort (p : Port)
  | ideLinkStream (p : Port) (up : Bool)
  | smbOtherCommand (code : Nat)
  deriving DecidableEq, Repr

end Sys2Proof
end

