-- ==== Sys2Proof/Decode.lean ====
section
/-! DEFINITION. The command that a word of the opcode table spells. No row of the table has bits: the commands are
descriptors, events, register accesses and operations of engines, told apart by how they reach the device and not by
a word. So no word spells a command. -/

namespace Sys2Proof

/-- None for every word: no row of the table gives bits. -/
def decodeTableWord (_nbits _w : Nat) : Option Instr := none

end Sys2Proof
end

