-- ==== Sys2Proof/Config.lean ====
section
/-! DEFINITION. What the manual leaves open: free values, which nothing in Lean can evaluate. Each is named
in the assumption log with the rule that leaves it open. -/

namespace Sys2Proof.Config

/-- Byte at an address of the n-th undefined filling of a store or memory page (R78, R104; log entry 6). -/
opaque freeByte : Nat → Nat → BitVec 8

/-- A 32-bit value the manual does not state: which one, and the step's free-value counter (log entry 5). -/
opaque freeWord : Nat → Nat → BitVec 32

/-- A number the manual does not fix: which one, its operands (log entry 5). -/
opaque freeNat : Nat → List Nat → Nat

/-- The pair-32 result of a PRU operation, fixed by R74 only within a bound: operation, operand (log entry 12). -/
opaque freePair : Nat → BitVec 32 → BitVec 32 → BitVec 32 × BitVec 32

/-- Content of a plan container: the manual gives its header and section types, and leaves the bytes inside
the sections to Bylan (R106; log entry 7). -/
opaque planBody : List (BitVec 8) → PlanBody

/-- Whether a firmware image's signature verifies (R416; log entry 9). -/
opaque signatureOk : List (BitVec 8) → Bool

/-- Whether helper data rebuilds the device identity at start-up attempt n (R418; log entry 9). -/
opaque identityOk : Nat → Bool

/-- An attestation signature: the request and the signed content (R422; log entry 9). -/
opaque sign : List (BitVec 8) → List (BitVec 8) → List (BitVec 8)

/-- The device identity word at an index: words 0 and 1 of production, 2 and 3 of test mode (R417; log entry 9). -/
opaque deviceId : Nat → BitVec 32

end Sys2Proof.Config
end

