-- ==== Sys2Proof/Machine/State.lean ====
section
/-! DEFINITION. The state of the device as plain data, every piece the manual names, and its value right
after a cold reset (PWROK low, R383). Fields whose reset value the manual does not give are named in the
assumption log (entries 1, 2, 5, 6). -/

namespace Sys2Proof.Machine

/-- Why a step can stop with a fault. -/
inductive Fault where
  /-- Raised by every command that names a unit which the manual says does not exist (die array 96 or
  above, R11; stack site above 11, R1; context above 255, R314; twin pair above 47, R11; sector above 5, R11; counter, cause or rank outside
  its bank or group, R364, R351). Safe: the
  device has no such unit, so no behaviour of the device is lost. -/
  | noSuchUnit
  /-- Raised by a descriptor command whose words are not a descriptor of its row (another opcode or
  sub-operation): such a command is no command of that row. Safe: the same words can be sent through
  their own row or through a ring in host memory. -/
  | wrongRow
  deriving DecidableEq, Repr

/-- Why a step can be refused. -/
inductive Refusal where
  /-- Raised by the dispatcher alone, for a row of the opcode table that has no meaning yet. Safe. -/
  | notModelled (mnemonic : String)
  deriving DecidableEq, Repr

/-! ### Numbers and memories -/

/-- A pair-32 value: high part h and low part l (R30). -/
structure Pair where
  hi : Word := 0
  lo : Word := 0
  deriving DecidableEq, Repr, Inhabited

/-- A byte memory: addresses strictly rising, no entry equal to what an unlisted address reads as. -/
abbrev Memory := List Host.Cell

/-- An array store (R63). `undef` is none while unlisted bytes read as zero (R389 stage 0), and the
number of the free fill while the store's contents are undefined (R78, R104). Entries hold the
difference to what an unlisted byte reads as, so that the cells stay canonical. -/
structure Store where
  cells : Memory := []
  undef : Option Nat := none
  deriving DecidableEq, Repr, Inhabited

/-- An element held in a cell, stream or accumulator (R25). -/
inductive Elem where
  | int (v : Int)
  /-- exact expansion of a block element (R42) -/
  | blk (w : Word)
  | f16 (w : BitVec 16)
  | f32 (w : Word)
  | f64 (w : DWord)
  | pair (p : Pair)
  /-- FX32 element or 64-bit fixed accumulator -/
  | fx (v : Int)
  deriving DecidableEq, Repr, Inhabited

/-! ### Registers (R452) -/

/-- The registers of the table BAR0 Registers. Registers of more than 64 bits are sets of words (R445):
their index counts words. -/
inductive Reg where
  | hifId | hifPortCfg | hifPollCfg | hifEvtStatus | hifDoorbellBase | hifEvtRing
  | ctxTableBase | ctxPolicy | ctxPartMap | ctxSliceMap | ctxState | ctxPrio
  | ctxWeirCfg | ctxWeirBounds | ctxWeirEff
  | cadCfg | cadStatus | cadJitter | cadPps | cadPeriod | cadAnchor | cadFrame
  | arrStatus
  | crvPolicy | crvTheta | crvThetaBounds | crvBudget | crvStatus | crvCredit | crvRootCfg
  | grnRecipe | grnNormBound | grnStatus
  | txnShadowCfg | txnStatus | txnGroupCfg
  | slvStructBase | slvPivotCfg | slvStatus
  | memCapacity | memRefreshPolicy | memErrCfg | memStackStatus | memChanMap | memChanFail
  | memChanForce | memErrCnt | mem1500En | memBar2Base
  | colCfg | colStatus | colCutTable | colTopoTable
  | numOvfMode | numScaleCfg | numStatus
  | pmcCtl | pmcBwCfg | pmcBwSeq | pmcMarkGlobal | pmcOvfGlobal | pmcBw
  | pmcEvselGlobal | pmcCtrGlobal | pmcEvselSector | pmcCtrSector | pmcOvfSector | pmcMarkSector
  | pmcEvselArray | pmcCtrArray | pmcOvfArray | pmcMarkArray
  | dbgTrig | dbgSluiceCfg | dbgSluiceStatus | dbgSluiceDump
  | dbgSampleCfg | dbgSampleStatus | dbgSampleBuf
  | rasLogCtl | rasCfgErr | rasCorr | rasGlobalCfg | rasLog
  | pwrState | pwrBoot | pwrLimit | pwrStatus | pwrFallowCfg | pwrSpring
  | secAttest | secStatus | secDevid | secFwVer | secFwMeas
  deriving DecidableEq, Repr, Inhabited

/-- A register by name, index, and the port whose copy it is (registers held once use `steward`). -/
structure RegKey where
  reg : Reg
  idx : Nat := 0
  port : Port := .steward
  deriving DecidableEq, Repr, Inhabited

/-! ### Host interface -/

/-- Per-port state of the host interface. -/
structure PortState where
  /-- link trained and up (R289) -/
  linkUp : Bool := false
  speed : Nat := 0
  width : Nat := 0
  /-- PERST_N high -/
  perstHigh : Bool := false
  /-- IDE link stream established (R423) -/
  ide : Bool := false
  /-- host writes that wait for the link (R289): bus address and bytes -/
  hostWait : List (Nat × List Byte) := []
  /-- READY reported on this port (R297), and the cause it will carry (R300) -/
  ready : Bool := false
  readyDue : Option Nat := none
  /-- write index of the event ring and the head last read (R298, R313) -/
  evtWrite : Nat := 0
  evtHead : Nat := 0
  /-- attention-class events written beyond the head, by their ring index -/
  evtAttn : List Nat := []
  /-- attention events waiting (R299), each as its header type, class, context, stamp and payload -/
  evtQueue : List (List Word) := []
  /-- losses since the last EVT_LOST (R299) and the register's own counts -/
  lostInfo : Nat := 0
  lostAttn : Nat := 0
  lostTotal : Nat := 0
  lostAttnTotal : Nat := 0
  /-- ATTN pin driven low (R297) -/
  attn : Bool := false
  /-- low word last read with its captured high word; low word held for a write (R445): register
  address and value -/
  captured : Option (Nat × Word) := none
  held : Option (Nat × Word) := none
  /-- value answered to the last register or BAR2 read of this port -/
  readData : List Byte := []
  /-- the last BAR2 read was answered with a Completer Abort (R283) -/
  completerAbort : Bool := false
  /-- the last response of the port's DOE mailbox (R419) -/
  attestResponse : Option (List Byte) := none
  /-- sluice (R377–R381), its ring being in HBM: queue, next index, trigger state, losses -/
  sluiceQueue : List (List Word) := []
  sluiceWptr : Nat := 0
  triggered : Bool := false
  frozen : Bool := false
  dumping : Bool := false
  wrapped : Bool := false
  /-- every place of the ring holds a record since recording began -/
  ringFull : Bool := false
  sluiceLost : Nat := 0
  lostSince : Nat := 0
  /-- records still to be written after the trigger -/
  post : Option Nat := none
  deriving DecidableEq, Repr, Inhabited

/-- Ring binding of a context (R290–R293). -/
structure Ring where
  bound : Bool := false
  sqBase : Nat := 0
  cqBase : Nat := 0
  notify : Nat := 0
  sqLog2 : Nat := 0
  cqLog2 : Nat := 0
  /-- next descriptor to fetch, next completion to write, completions consumed -/
  fetch : Nat := 0
  cqWrite : Nat := 0
  cqHead : Nat := 0
  /-- expected SEQ; none before the first descriptor (R293) -/
  expect : Option Word := none
  notifyCount : Word := 0
  /-- completion indices written with NOTIFY and not yet consumed (R297) -/
  notifyAt : List Nat := []
  deriving DecidableEq, Repr, Inhabited

/-- Why an accepted descriptor is not complete yet. -/
inductive Waiting where
  /-- its own engine completes it -/
  | engine
  | frame (frame phase : Nat)
  | token (tok n : Nat)
  | seq (ctx : Nat) (seq : Word)
  /-- PART_SET waiting for its change point (R319) -/
  | change
  /-- waiting for the window of R197 or for a pin to be granted -/
  | window
  /-- its transactions wait at a weir (R328) -/
  | weir
  deriving DecidableEq, Repr, Inhabited

/-- An accepted, uncompleted descriptor (R294). -/
structure Open where
  desc : Desc
  /-- marker tag latched at acceptance (R362) -/
  marker : Word := 0
  wait : Waiting := .engine
  deriving DecidableEq, Repr, Inhabited

/-- A watch point (R374). -/
structure Watch where
  digest : Bool := false
  stage : Nat := 0
  loc : Word := 0
  locLo : Word := 0
  locHi : Word := 0
  len : Nat := 0
  fmt : Nat := 0
  result : Nat := 0
  count : Nat := 0
  plan : Nat := 0
  deriving DecidableEq, Repr, Inhabited

/-- Kinds of contexts (R314, R331). -/
inductive Kind where
  | train
  | solve
  | aux
  | management
  deriving DecidableEq, Repr, Inhabited

/-- States of a defined context (R315); undefined contexts are not listed. -/
inductive CtxMode where
  | resident
  | swapped
  | tornDown
  deriving DecidableEq, Repr, Inhabited

/-- A region with its pages (R270, R271): per stack, the physical pages in page-index order. -/
structure Region where
  decl : RegionDecl
  /-- the stack list L, the pages in each stack, and the stripe width R in each stack, fixed at allocation -/
  stacksOf : List Nat := []
  pages : Table (List Nat) := []
  width : Table Nat := []
  deriving DecidableEq, Repr, Inhabited

/-- A loaded plan (R107). -/
structure Plan where
  measurement : BitVec 256 := 0
  body : PlanBody
  /-- size of the container, and the plan cache that holds it (R108) -/
  size : Nat := 0
  cache : Region := default
  /-- whether a newly loaded plan's first segment write is still to come for an array (R453), by logical array -/
  freshFor : List Nat := []
  deriving DecidableEq, Repr, Inhabited

/-- A PART_SET at or before its change point (R319). -/
structure PartChange where
  pairs : List Nat := []
  slices : List Nat := []
  borrower : Nat := 0
  /-- SEQ of the descriptor to complete; none when it was a transaction member -/
  seq : Option Word := none
  /-- the step commit it waits for has come (TRAIN) -/
  due : Bool := false
  /-- swap area allocated at PART_SET, stack and page (R324) -/
  swap : List (Nat × Nat) := []
  deriving DecidableEq, Repr, Inhabited

/-- A context (R314–R331). -/
structure Ctx where
  kind : Kind := .train
  port : Port := .steward
  mode : CtxMode := .swapped
  ring : Ring := {}
  /-- descriptors fetched and not yet accepted, in ring order (R294), with whether each failed the SEQ check -/
  held : List (Desc × Bool) := []
  /-- SEQs taken past the SEQ check and not yet completed are the open ones and the held ones -/
  opens : List Open := []
  /-- the descriptor immediately before: its SEQ and, once complete, its status (CHAIN, R294) -/
  lastSeq : Word := 0
  lastStatus : Option (BitVec 8) := none
  tokens : Table Word := []
  tileTokens : Table Nat := []
  marker : Word := 0
  pairs : List Nat := []
  slices : List Nat := []
  borrower : Nat := 0
  /-- PART_SETs waiting for their change points, oldest first (R319) -/
  changes : List PartChange := []
  /-- pages of the swap area, stack and page, each sector's part in turn (R324) -/
  swapPages : List (Nat × Nat) := []
  /-- slice contents that a spring entry kept; none where the swap area holds what is saved (R324, R409) -/
  keptSlices : Option (Table Memory) := none
  plans : Table Plan := []
  regions : Table Region := []
  recipes : Table (List Word) := []
  /-- GRAN_PROG loads waiting for earlier users of their slot (R192): SEQ, slot, words -/
  recipeLoads : List (Word × Nat × List Word) := []
  watches : Table Watch := []
  /-- weir token buckets in 21sts of a byte, so that a cycle's gain is whole (R328) -/
  buckets : Table Int := []
  /-- polling (R296): interval in 64ths of 10 ns, polls and moved polls counted, active until (cycle) -/
  interval : Nat := 0
  polls : Nat := 0
  moved : Nat := 0
  activeUntil : Nat := 0
  active : Bool := false
  tailMoved : Bool := false
  /-- idle since (cycle), and blocked (R325) -/
  idleSince : Option Nat := none
  blocked : Bool := false
  /-- suspended by spring entry (R409), held by a stack above TSR (R278), or by a host write that waits for its link (R289) -/
  suspended : Bool := false
  thermalHold : Bool := false
  hostHeld : Bool := false
  deriving DecidableEq, Repr, Inhabited

/-- Whether a context's work starts nothing new: held by a hot stack or by its port's link (R278, R289). -/
def Ctx.onHold (x : Ctx) : Bool := x.thermalHold || x.hostHeld

/-! ### Arrays -/

/-- An address register (R82). -/
structure AddrReg where
  origin : Nat := 0
  offset : Int := 0
  stride : Int := 0
  wrap : Nat := 0
  deriving DecidableEq, Repr, Inhabited

/-- A position register (R83). -/
structure PosReg where
  base : Nat := 0
  rowlen : Nat := 0
  adv : Int := 0
  deriving DecidableEq, Repr, Inhabited

/-- Settings of the last CFG.MODE (R86). -/
structure Mode where
  fs : Nat := 0
  fm : Nat := 0
  strict : Bool := false
  rnd : Nat := 0
  acc : Nat := 0
  sgnS : Bool := false
  sgnM : Bool := false
  deriving DecidableEq, Repr, Inhabited

/-- Settings of the last CFG.FXQ. -/
structure Fxq where
  qa : Nat := 0
  qb : Nat := 0
  qpIn : Nat := 0
  qpOut : Nat := 0
  deriving DecidableEq, Repr, Inhabited

/-- Source of the starting accumulators (R86). -/
inductive Macc where
  | zero
  | store (areg : Nat)
  | keep
  deriving DecidableEq, Repr, Inhabited

/-- Drain settings (R86, R91). -/
structure Drain where
  areg : Nat := 0
  fmt : Nat := 0
  stoch : Bool := false
  carried : Bool := false
  preg : Nat := 0
  sh : Nat := 0
  deriving DecidableEq, Repr, Inhabited

/-- A stationary buffer (R56, R58, R61): columns of S, each of 128k elements. -/
structure Buffer where
  orient : Bool := false
  cols : List (List Elem) := []
  /-- packing depth k -/
  k : Nat := 1
  deriving DecidableEq, Repr, Inhabited

/-- A load in progress (R58, R61). -/
structure Load where
  areg : AddrReg := {}
  buf : Nat := 0
  orient : Bool := false
  nrows : Nat := 0
  nelem : Nat := 0
  mode : Mode := {}
  deriving DecidableEq, Repr, Inhabited

/-- A pass with the settings it latched (R88), or GRAM steps (R90). -/
structure Pass where
  gram : Bool := false
  src : AddrReg := {}
  src2 : AddrReg := {}
  same : Bool := false
  buf : Nat := 0
  nvec : Nat := 0
  offer : Bool := false
  take : Nat := 0
  mode : Mode := {}
  fxq : Fxq := {}
  macc : Macc := .zero
  maccReg : AddrReg := {}
  drain : Drain := {}
  drainReg : AddrReg := {}
  pos : PosReg := {}
  stream : Nat := 0
  masken : Bool := false
  fdiv : Nat := 1
  /-- vectors received over the tile channel, and the bytes of the rows they came in (R67); those of TAKE = 2 fill one of the
  two buffers of the corner turn until the pass has streamed them -/
  taken : Option (List (List Elem)) := none
  takenBytes : List (List Byte) := []
  /-- its own offer has been served -/
  offered : Bool := false
  latch : List Bool := []
  addr : Nat := 0
  /-- place in program order -/
  ord : Nat := 0
  deriving DecidableEq, Repr, Inhabited

/-- A standalone offer or take waiting on the tile channel (R67, R68). -/
structure Twin where
  offer : Bool := false
  reg : AddrReg := {}
  nrows : Nat := 0
  nelem : Nat := 0
  fmt : Nat := 0
  addr : Nat := 0
  ord : Nat := 0
  deriving DecidableEq, Repr, Inhabited

/-- A PRU request in the sector's queue (R19, R73). -/
structure PruReq where
  array : Nat := 0
  ctx : Nat := 0
  op : PruOp := .sqrt
  fmt : Nat := 0
  src : AddrReg := {}
  dst : AddrReg := {}
  n : Nat := 0
  mode : Mode := {}
  fxq : Fxq := {}
  ord : Nat := 0
  /-- the PRU has begun it -/
  started : Bool := false
  deriving DecidableEq, Repr, Inhabited

/-- STATE of ARR_STATUS (R65). -/
inductive ArrMode where
  | halted
  | running
  | waiting
  | fallow
  deriving DecidableEq, Repr, Inhabited

/-- Why an array waits (R98, R104). -/
inductive ArrWait where
  | token (tok n : Nat) (keep : Bool)
  /-- HALT with WAITT: token, then the segment to load -/
  | segment (tok : Nat) (next : Nat) (yield : Bool)
  /-- HALT END with WAITT -/
  | endTok (tok : Nat)
  deriving DecidableEq, Repr, Inhabited

/-- An entry of a fill queue, with the run it serves. -/
structure FillItem where
  ctx : Nat := 0
  seq : Word := 0
  entry : FillEntry
  deriving DecidableEq, Repr, Inhabited

/-- A fill queue (R99): remaining entries, run number of the first, run in progress. -/
structure FillQueue where
  entries : List FillItem := []
  run : Nat := 0
  active : Bool := false
  deriving DecidableEq, Repr, Inhabited

/-- A die array (R79, R56, R63, R65). -/
structure Arr where
  mode : ArrMode := .halted
  wait : Option ArrWait := none
  pc : Nat := 0
  program : List Word := []
  store : Store := {}
  aregs : Table AddrReg := []
  pregs : Table PosReg := []
  loops : Table Nat := []
  marker : Word := 0
  stream : Nat := 0
  cfg : Mode := {}
  fxq : Fxq := {}
  macc : Macc := .zero
  drn : Option Drain := none
  /-- status latch: the bits BCHK loaded, counted from the first bit of its line, with its BITOFF and BSTRIDE (R93) -/
  latch : List Bool := []
  latchOff : Nat := 0
  latchStride : Nat := 0
  hist : List Nat := []
  bufs : Table Buffer := []
  loads : List Load := []
  gramAcc : List (List Pair) := []
  passes : List Pass := []
  /-- overflow bits of the last block pass: vectors, each a list of block bits (R93) -/
  lastBits : List (List Bool) := []
  twins : List Twin := []
  pruOut : Nat := 0
  fillIn : FillQueue := {}
  fillOut : FillQueue := {}
  /-- sticky bits of ARR_STATUS [22:16] (R453) -/
  sticky : BitVec 7 := 0
  /-- FX32 saturation marks the problem being computed (R44) -/
  fxMark : Bool := false
  /-- run, stage, segment and logical number whose work the array does -/
  seq : Word := 0
  slot : Nat := 0
  stage : Nat := 0
  segment : Nat := 0
  logical : Nat := 0
  /-- it runs the replay segments of its plan (R229) -/
  replay : Bool := false
  /-- the array's part of the stage is finished -/
  ended : Bool := false
  /-- step and seed of the run, for generator draws (R102) -/
  seed : DWord := 0
  step : Nat := 0
  /-- explicit samples of the segment: cycle of the last (R372) -/
  lastSamp : Option Nat := none
  /-- clock-gated (R391) -/
  idle : Bool := false
  /-- cycles that the open TWIN, pass and TOKW have waited, by order of issue; suspension is not counted (R68, R98, R278) -/
  waited : Table Nat := []
  /-- instructions issued since sampling was armed (R371), and in all -/
  issued : Nat := 0
  ord : Nat := 0
  /-- a PRU with SYNC holds issue until no request is outstanding (R95) -/
  sync : Bool := false
  /-- cycle since which issue stalls (R372) -/
  stallFrom : Option Nat := none
  /-- sampled instructions not complete yet: address, segment, marker (R371) -/
  sampled : List (Nat × Nat × Word) := []
  deriving DecidableEq, Repr, Inhabited

/-- A wait on a token (R98): the array, whether its program or one of its fill queues waits, the token, and the cycle in
which the wait began. -/
structure Waiter where
  array : Nat := 0
  /-- inbound or outbound fill queue -/
  fill : Option Bool := none
  tok : Nat := 0
  since : Nat := 0
  deriving DecidableEq, Repr, Inhabited

/-- A twin pair (R316, R322, R331). -/
structure TwinPair where
  /-- borrower running on the pair while lent; 0 none -/
  running : Nat := 0
  lent : Bool := false
  fallow : Bool := false
  returnAt : Option Nat := none
  /-- cycle since which the pair found no work -/
  noWork : Option Nat := none
  /-- cycle since which both arrays have stood still (R391) -/
  still : Option Nat := none
  /-- a fallow pair that a PART_SET assigned or that spring exit needs, and that has not woken yet (R393) -/
  wake : Bool := false
  /-- cycle since which the pair is free for a problem (R238) -/
  freeSince : Option Nat := none
  /-- solver problem it runs: context and number -/
  problem : Option (Nat × Nat) := none
  /-- sector group of the refresh whose fragment it runs, and the cycles left of the fragment (R165) -/
  refresh : Option Nat := none
  fragment : Nat := 0
  deriving DecidableEq, Repr, Inhabited

/-- A token signal not yet visible (R98). -/
structure TokSignal where
  tok : Nat := 0
  n : Nat := 0
  /-- array that signals, and the place of its TOKS in program order; a fill's signal is visible at once -/
  array : Nat := 0
  ord : Nat := 0
  fill : Bool := false
  deriving DecidableEq, Repr, Inhabited

/-! ### Memory system -/

/-- A memory transaction (R268, R269, R328). -/
structure MemReq where
  ctx : Nat := 0
  weir : Nat := 0
  chan : Nat := 0
  bytes : Nat := 0
  array : Nat := 0
  inbound : Bool := true
  deriving DecidableEq, Repr, Inhabited

/-- A stack site (R266, R273–R280). -/
structure Stack where
  present : Bool := false
  trained : Bool := false
  lanes : Nat := 0
  out : Word := 0
  failing : Word := 0
  selfRefresh : Bool := false
  hot : Bool := false
  rate : Nat := 0
  offset : Nat := 0
  temp : Nat := 0
  corrected : Nat := 0
  uncorr : Nat := 0
  /-- corrections in the current minute and hour of the refresh loop (R280) -/
  minute : Nat := 0
  hour : Nat := 0
  /-- cycles at which uncorrectable errors fell, by channel (R276) -/
  ueTimes : List (Nat × Nat) := []
  /-- pages taken by contexts, shadow pages and management; withdrawn pages (R403) -/
  taken : List Nat := []
  withdrawn : List Nat := []
  /-- channels mapped out at run time (R276) -/
  runOut : Word := 0
  /-- shadow pool: share, pages in use, and pages not in use by channel (R210, R271) -/
  share : Nat := 0
  used : Nat := 0
  pool : Table Nat := []
  deriving DecidableEq, Repr, Inhabited

/-! ### Training state -/

/-- One live version of an object's working copy: its pages, and the runs that pin it (context, SEQ). -/
structure Version where
  number : Nat := 0
  pages : Table (List Nat) := []
  pins : List (Nat × Word) := []
  deriving DecidableEq, Repr, Inhabited

/-- State of an object's gradient buffer (R185). -/
inductive BufState where
  | released
  | openFor (step : Nat)
  | sealedFor (step : Nat)
  deriving DecidableEq, Repr, Inhabited

/-- A staged dW waiting to fold (R116). -/
structure Staged where
  ctx : Nat := 0
  seq : Word := 0
  step : Nat := 0
  slot : Nat := 0
  pinned : Nat := 0
  deriving DecidableEq, Repr, Inhabited

/-- Preconditioning parameters (R176). -/
structure Precond where
  p : Nat := 2
  both : Bool := false
  single : Bool := false
  graft : Nat := 1
  stoch : Bool := true
  alpha : Word := 0x3A83126F
  lambdaMin : Word := 0
  graftEps : Word := 0x322BCC77
  tol : Word := 0
  deriving DecidableEq, Repr, Inhabited

/-- Roots of a block that another member of the cut owns: whether the root is kept beside the inverse root, and the exponent of the
binary16 copy (R160, R345). They lie in the statistic's root memory. -/
structure RootCopy where
  both : Bool := false
  exp16 : Int := 0
  deriving DecidableEq, Repr, Inhabited

/-- A statistic and its parameters (R131, R151, R164). -/
structure Stat where
  decl : StatDecl
  w : Pair := {}
  f : Nat := 1
  beta : Word := 0x3F733333
  theta : Nat := 0
  ageMax : Nat := 0
  sched : Nat := 0
  period : Nat := 1
  phase : Nat := 0
  /-- rows counted in the step being gathered, and of the last sealed step -/
  rows : Nat := 0
  sealedRows : Nat := 0
  /-- nonempty steps since creation or reset -/
  nonempty : Nat := 0
  shift : Nat := 0
  calm : Nat := 0
  /-- power of two by which the last seal scales S and W (R141) -/
  scaleExp : Int := 0
  /-- step whose rows are being gathered, while the context has sealed none (R138) -/
  gather : Option Nat := none
  /-- a RESET waits for the next seal (R152) -/
  resetDue : Bool := false
  /-- roots of blocks that other members of its cut own (R345) -/
  remote : Table RootCopy := []
  deriving DecidableEq, Repr, Inhabited

/-- A factor block (R132, R150). -/
structure Block where
  obj : Nat := 0
  side : Nat := 0
  q : Nat := 0
  size : Nat := 0
  real : Nat := 0
  offset : Nat := 0
  ordinal : Nat := 0
  hasRoots : Bool := false
  pending : Bool := false
  failed : Bool := false
  reset : Bool := false
  drift : Word := 0
  age : Nat := 0
  backoff : Nat := 0
  fails : Nat := 0
  refStep : Nat := 0
  estimate : Option Nat := none
  refs : List Word := []
  /-- in the seal's processing: rows 4 and 5 not complete (R140), and W and the row count of that seal for the record (R150) -/
  busy : Bool := false
  sealW : Pair := {}
  sealRows : Nat := 0
  /-- chosen for a snapshot at the seal being processed: reason code (0 by descriptor) and place in the order -/
  chosen : Option (Nat × Nat) := none
  /-- where its root memory begins in the root region; whether the root is kept beside the inverse root; exponent of the binary16 copy
  (R160) -/
  rootAt : Nat := 0
  both : Bool := false
  exp16 : Int := 0
  deriving DecidableEq, Repr, Inhabited

/-- A snapshot waiting for or in its refresh, and how far the refresh has come (R154, R155, R165). S lies in the snapshot area of its
group's scratch, the matrices of the refresh in the working area (R166). -/
structure Refresh where
  block : Nat := 0
  step : Nat := 0
  source : Nat := 0
  /-- descriptor waiting on it: context and SEQ -/
  desc : Option (Nat × Word) := none
  /-- byte of the snapshot in the snapshot area -/
  place : Nat := 0
  w : Pair := {}
  p : Nat := 2
  alpha : Word := 0
  lambdaMin : Word := 0
  tol : Word := 0
  shift : Nat := 0
  both : Bool := false
  newRefs : List Word := []
  estimate : Nat := 0
  charged : Bool := false
  sealCount : Nat := 0
  order : Nat := 0
  /-- stage of R155 in progress, 6 when it has stopped; array-cycles left of the array work under way; iterations done -/
  stage : Nat := 0
  left : Nat := 0
  iters : Nat := 0
  /-- scalars formed: ν, λ, c, and the residuals of iteration 0 and of the last one -/
  nu : Pair := {}
  lam : Pair := {}
  c : Pair := {}
  eps0 : Word := 0
  eps : Word := 0
  /-- outcome code once it has stopped; place of the result area, and exponent of the binary16 copy -/
  code : Nat := 0
  slot : Nat := 0
  exp16 : Int := 0
  deriving DecidableEq, Repr, Inhabited

/-- A converged result awaiting installation, in a place of its group's result area (R162, R166). -/
structure RootResult where
  block : Nat := 0
  group : Nat := 0
  finishedStep : Nat := 0
  slot : Nat := 0
  both : Bool := false
  exp16 : Int := 0
  deriving DecidableEq, Repr, Inhabited

/-- ROOT_REFRESH requests not yet snapshotted or finished (R175). -/
structure RootRequest where
  ctx : Nat := 0
  seq : Word := 0
  waiting : List Nat := []
  running : List Nat := []
  converged : Nat := 0
  failed : Nat := 0
  deriving DecidableEq, Repr, Inhabited

/-- Device-wide curvature state (R146, R147). -/
structure Curv where
  thetaEff : Nat := 0x0CCD
  deferred : Nat := 0
  /-- credit in array-cycles -/
  credit : Int := 0
  seals : Nat := 0
  lastSeal : Nat := 0
  spacing : Nat := 0
  upRun : Nat := 0
  downRun : Nat := 0
  queue : Table (List Refresh) := []
  current : Table Refresh := []
  results : List RootResult := []
  requests : List RootRequest := []
  /-- STAT_CFGs of committed transactions that wait for the next seal (R152): context and descriptor -/
  cfgDue : List (Nat × Desc) := []
  /-- a seal whose rows 4 to 6 wait for its installations: context, step and the blocks installed (R162) -/
  sealing : Option (Nat × Nat × List Nat) := none
  deriving DecidableEq, Repr, Inhabited

/-- A component of an object: region number. -/
structure Obj where
  decl : ObjectDecl
  ctx : Nat := 0
  version : Nat := 0
  updates : Nat := 0
  digest : DWord := 0
  live : List Version := []
  buf : BufState := .released
  /-- first fold of the step done (R184 step 1) -/
  folded : Bool := false
  staged : List Staged := []
  precond : Precond := {}
  /-- parameters that take effect at the next seal (R177) -/
  precondDue : Option Precond := none
  /-- preconditioning of the sealed step: grafting scale and each stack's partial of q (R172, R173) -/
  graft : Word := 0
  qs : Table Pair := []
  preconditioned : Bool := false
  deriving DecidableEq, Repr, Inhabited

/-- A run in flight (R124, R130). -/
structure Run where
  ctx : Nat := 0
  seq : Word := 0
  slot : Nat := 0
  mb : Option Nat := none
  nsamp : Nat := 0
  seed : DWord := 0
  step : Nat := 0
  /-- versions pinned, object and version number; none before the first stage -/
  pins : Option (List (Nat × Nat)) := none
  started : List Nat := []
  finished : List Nat := []
  /-- row maps built: view and selected rows (R136) -/
  maps : Table (List Nat) := []
  grams : List (Nat × Nat) := []
  foldsLeft : List Nat := []
  folded : Nat := 0
  discarded : Bool := false
  staleness : Nat := 0
  s1 : Bool := false
  replayed : List Nat := []
  /-- blocks whose overflow bit was set: stage, region of the bitmap, and block number (R39, R228, R233) -/
  flags : List (Nat × Nat × Nat) := []
  /-- stages for which a NUM_OVF record was written -/
  reported : List Nat := []
  /-- segments ready to run and not on an array: logical array, segment, stage, and the token to consume before it loads
  (R104, R165, R238, R322) -/
  parked : List (Nat × Nat × Nat × Option Nat) := []
  /-- parts of stages that ended: stage and logical array -/
  parts : List (Nat × Nat) := []
  /-- places of staging regions taken for a dW being formed, by object (R116), and objects whose X is stashed (R112) -/
  places : Table Nat := []
  stash : List Nat := []
  /-- sampling fraction of each statistic when the run pinned (R152) -/
  fdivs : Table Nat := []
  /-- L-mode gathers held: stage and object (R343) -/
  gathered : List (Nat × Nat) := []
  /-- reads of watch points that finished stages owe, each with the point as it stood at its trigger (R374) -/
  owed : List (Nat × Watch) := []
  /-- accepted after the step commit a partition change waits on (R319) -/
  afterChange : Bool := false
  /-- rows of cut-shared sampled views, gathered from every member in position order (R345) -/
  viewRows : Table (List (List Byte)) := []
  deriving DecidableEq, Repr, Inhabited

/-- One entry of a GRAN_STEP list (R195). -/
structure GranEntry where
  obj : Nat := 0
  recipe : Nat := 0
  slot : Nat := 0
  nesterov : Bool := false
  biascorr : Bool := false
  precondV : Bool := false
  lr : Word := 0
  wd : Word := 0
  b1 : Word := 0
  b2 : Word := 0
  eps : Word := 0
  uexp : Int := 0
  deriving DecidableEq, Repr, Inhabited

/-- Where a GRAN_STEP in progress stands (R196). -/
inductive GranPhase where
  | precondition
  | norm
  | apply
  deriving DecidableEq, Repr, Inhabited

/-- The update of one step (R195–R198). -/
structure GranStep where
  ctx : Nat := 0
  step : Nat := 0
  entries : List GranEntry := []
  /-- GRAN_STEP in progress: SEQ, transaction tag, op, bound, phase -/
  active : Option (Word × Nat × Nat × Word × GranPhase) := none
  group : Bool := false
  norm : Option Word := none
  passed : Bool := false
  /-- objects of the FULL or APPLY in progress, those applied in an open transaction, and committed ones -/
  listed : List Nat := []
  applying : List Nat := []
  committed : List Nat := []
  lastSlice : Bool := false
  /-- between the commits of its first and its last slice (R197); the last slice is committed -/
  window : Bool := false
  closed : Bool := false
  deriving DecidableEq, Repr, Inhabited

/-- What a block's decay pass latched at its seal: β, scaling, W after row 2, step, and the number of the seal (R140, R141). -/
structure Decay where
  block : Nat := 0
  beta : Word := 0
  scaleExp : Int := 0
  w : Pair := {}
  step : Nat := 0
  sealCount : Nat := 0
  deriving DecidableEq, Repr, Inhabited

/-- What a granary work item does (R182). -/
inductive Work where
  | fold (obj : Nat) (staged : Staged)
  | element (stage : Nat)
  | normPass (obj : Nat)
  | apply (entry : GranEntry) (tag : Nat)
  | decay (d : Decay)
  /-- stages 2 and 5 of the current refresh of a group, and the installation of a block's result (R155, R162) -/
  | rootForm (group : Nat)
  | rootResult (group : Nat)
  | install (block : Nat)
  deriving DecidableEq, Repr, Inhabited

/-- A work item of a granary: what, for whom, and the 64-element blocks (or elements) left. -/
structure Item where
  work : Work
  ctx : Nat := 0
  seq : Word := 0
  /-- blocks of the object in this stack, in increasing index -/
  todo : List Nat := []
  deriving DecidableEq, Repr, Inhabited

/-- A granary (R181, R182). -/
structure Granary where
  items : List Item := []
  /-- the item whose chunk is in progress -/
  acc : Pair := {}
  skips : Nat := 0
  /-- statistics of the apply pass, per object: EMAX, LOST, NONFIN (R189) -/
  emax : Table Int := []
  lost : Table Nat := []
  nonfin : Table Nat := []
  deriving DecidableEq, Repr, Inhabited

/-! ### Transactions -/

/-- How far a commit has come (R215). -/
inductive TxnPhase where
  | opened
  | committing
  | prepared
  | voted
  /-- aborted before its TXN_COMMIT or TXN_ABORT: holds its tag (R204) -/
  | aborted (detail : BitVec 16)
  deriving DecidableEq, Repr, Inhabited

/-- A deferred setting of a transaction (R205). -/
inductive Deferred where
  | registers (entries : List (Nat × Word × Word))
  | partition (ctx : Nat) (change : PartChange)
  | descriptor (d : Desc)
  deriving DecidableEq, Repr, Inhabited

/-- A shadow page (R209): region, stack and page index it stands for, and the physical page. -/
structure Shadow where
  region : Nat := 0
  stack : Nat := 0
  index : Nat := 0
  page : Nat := 0
  deriving DecidableEq, Repr, Inhabited

/-- A transaction (R204–R221). -/
structure Txn where
  ctx : Nat := 0
  tag : Nat := 0
  /-- order of beginning, device-wide (R212) -/
  order : Nat := 0
  atFrame : Bool := false
  lateOk : Bool := false
  group : Bool := false
  frame : Nat := 0
  key : Word := 0
  phase : TxnPhase := .opened
  /-- SEQs of members accepted and not complete -/
  members : List Word := []
  commitSeq : Option Word := none
  digests : Bool := false
  digestAddr : Nat := 0
  digestMax : Nat := 0
  holds : List Nat := []
  shadows : List Shadow := []
  deferred : List Deferred := []
  gran : Bool := false
  lastApply : Bool := false
  /-- update counts the commit gives: applied objects (R187) and restored ones (R348) -/
  counts : Table Nat := []
  /-- digests formed at prepare, by object (R222) -/
  formed : Table DWord := []
  votes : List Nat := []
  /-- cycle from which a missing vote is late (R221) -/
  voteBy : Nat := 0
  /-- rows 1 and 2 of its commit are done (R215) -/
  ready : Bool := false
  deriving DecidableEq, Repr, Inhabited

/-! ### Solver -/

/-- A structure entry (R243). -/
structure SlvEntry where
  row : Nat := 0
  col : Nat := 0
  constraint : Bool := false
  vals : List Int := []
  deriving DecidableEq, Repr, Inhabited

/-- A quadratic term (R243). -/
structure SlvQuad where
  row : Nat := 0
  j : Nat := 0
  k : Nat := 0
  coef : Int := 0
  deriving DecidableEq, Repr, Inhabited

/-- Phases of a problem (R252–R254). -/
inductive SlvPhase where
  | unstarted
  | eval
  | form
  | factor
  | solve
  | admm
  deriving DecidableEq, Repr, Inhabited

/-- Progress of a problem in its batch (R238, R252–R256): phase and fragments left of it, parameters converted at release,
iterate or linearisation point x, ADMM vector, and what the phases leave for one another. -/
structure SlvRun where
  phase : SlvPhase := .unstarted
  left : Nat := 0
  cls : ClassDecl := default
  tau : Nat := 0
  cap : Nat := 0
  lam : Int := 0
  sigma : Int := 0
  rho : Int := 0
  epsStep : Int := 0
  epsPri : Int := 0
  epsDual : Int := 0
  x : List Int := []
  delta : List Int := []
  zc : List Int := []
  y : List Int := []
  r : List Int := []
  jac : List (List Int) := []
  h : List (List Int) := []
  g : List Int := []
  l : List (List Int) := []
  d : List Int := []
  iter : Nat := 0
  inner : Nat := 0
  factors : Nat := 0
  regpiv : Nat := 0
  resA : Word := 0
  resB : Word := 0
  /-- last completed iterate of the batch -/
  last : Option (List Int) := none
  marked : Bool := false
  converged : Bool := false
  capped : Bool := false
  deriving DecidableEq, Repr, Inhabited

/-- A loaded problem (R241–R250, R259). -/
structure Problem where
  kind : Nat := 0
  cls : Nat := 0
  banded : Bool := false
  n : Nat := 0
  m : Nat := 0
  nc : Nat := 0
  hbw : Nat := 0
  maxit : Nat := 0
  innerMax : Nat := 0
  tauExp : Nat := 0
  lambdaReg : Word := 0
  epsStep : Word := 0
  epsPri : Word := 0
  epsDual : Word := 0
  rho : Word := 0
  sigma : Word := 0
  plan : Nat := 0
  entries : List SlvEntry := []
  quads : List SlvQuad := []
  z : List Int := []
  w : List Int := []
  lo : List Int := []
  hi : List Int := []
  cl : List Int := []
  ch : List Int := []
  start : Option (List Int) := none
  slot : List Int := []
  delivered : Bool := false
  dualZ : List Int := []
  dualY : List Int := []
  deltaSat : Bool := false
  /-- class whose Q values and row scales the stored values have -/
  conv : ClassDecl := default
  run : Option SlvRun := none
  deriving DecidableEq, Repr, Inhabited

/-- A batch (R260). -/
structure Batch where
  ctx : Nat := 0
  seq : Word := 0
  first : Nat := 0
  count : Nat := 0
  release : Option Nat := none
  deadline : Option (Nat × Nat) := none
  recAddr : Nat := 0
  solAddr : Nat := 0
  solStride : Nat := 0
  maxit : Nat := 0
  fmt32 : Bool := false
  released : Bool := false
  expired : Bool := false
  /-- problems not ended yet, and the status of each ended one -/
  left : List Nat := []
  ended : Table (BitVec 8) := []
  deriving DecidableEq, Repr, Inhabited

/-- An SLV_DELTA whose entries for problems of unfinished batches wait (R246, R248): context, SEQ, the entries left (problem, kind, index,
value, element), and the counts so far. -/
structure DeltaWait where
  ctx : Nat := 0
  seq : Word := 0
  left : List (Nat × Nat × Nat × Word × Nat) := []
  skipped : Nat := 0
  sat : Nat := 0
  deriving DecidableEq, Repr, Inhabited

/-! ### Groups -/

/-- A collective in flight (R335–R338). -/
structure Coll where
  ctx : Nat := 0
  seq : Word := 0
  desc : Desc
  cut : List Nat := []
  /-- operands received, by rank -/
  got : Table (List Byte) := []
  own : List Byte := []
  /-- bytes a rank has announced for an exchange the device makes itself -/
  need : Table Nat := []
  tag : Option Nat := none
  deriving DecidableEq, Repr, Inhabited

/-- Data of a peer for a collective this device has not begun, in its receive buffer (R335). -/
structure Early where
  rank : Nat := 0
  key : Word := 0
  sub : Nat := 0
  fmt : Nat := 0
  root : Nat := 0
  count : Nat := 0
  bytes : List Byte := []
  deriving DecidableEq, Repr, Inhabited

/-- The collective engine (R333–R336). -/
structure Group where
  flights : List Coll := []
  /-- exchanges of the device's own that wait for one of the 16 places (R335) -/
  queue : List Coll := []
  early : List Early := []
  /-- votes of peers for transactions this device has not begun: rank, key, commit (R221) -/
  votes : List (Nat × Word × Bool) := []
  /-- votes this device has sent, oldest first: key, commit (R221) -/
  ownVotes : List (Word × Bool) := []
  lost : BitVec 64 := 0
  /-- COL writes waiting for the engine to be quiet (R349): register and writing port, bits named, value -/
  waiting : List (RegKey × Nat × Nat) := []
  /-- bytes outstanding towards each peer, and bytes consumed from each since the last credit -/
  outstanding : Table Nat := []
  unsent : Table Nat := []
  consumed : Table Nat := []
  /-- by rank, the cycle since which data, credit or a vote of it is waited for and nothing of it has come (R336) -/
  waitFrom : Table Nat := []
  /-- pages of the receive buffers, stack and page -/
  buffers : List (Nat × Nat) := []
  deriving DecidableEq, Repr, Inhabited

/-! ### Cadence -/

/-- States of the cadence unit (R354). -/
inductive CadMode where
  | acquiring
  | locked
  | holdover
  deriving DecidableEq, Repr, Inhabited

/-- The cadence unit (R352–R358). Times are in eighths of a cycle. -/
structure Cad where
  running : Bool := false
  frame : BitVec 48 := 0
  /-- time of the current boundary, period latched there -/
  boundary : Nat := 0
  latched : Nat := 0
  mode : CadMode := .acquiring
  period : Nat := 105000000
  /-- last accepted edge and the interval before it, in whole cycles -/
  lastEdge : Option Nat := none
  interval : Option Nat := none
  good : Nat := 0
  anchored : Bool := false
  misaligned : Bool := false
  stray : Nat := 0
  holdFrames : Nat := 0
  /-- holdover: grid index k of the next boundary, aligned and stray runs, last stray -/
  hold : Nat := 0
  aligned : Nat := 0
  strayRun : Nat := 0
  lastStray : Option Nat := none
  absorbed : Bool := false
  jitterLast : Int := 0
  jitterMax : Nat := 0
  ppsEdge : Option Nat := none
  ppsCycles : Nat := 0
  ppsOk : Bool := false
  /-- a PPS edge has come since the anchor with ALIGN_PPS was armed -/
  ppsSeen : Bool := false
  source : Bool := false
  /-- FRAME_OUT is high until this time -/
  outUntil : Nat := 0
  deriving DecidableEq, Repr, Inhabited

/-! ### Power, start-up, errors -/

/-- Start-up and identity (R389, R414–R418). -/
structure Boot where
  stage : Nat := 0
  err : Nat := 0
  warm : Bool := false
  /-- READY was reached since the last cold reset (R384) -/
  everReady : Bool := false
  window : Memory := []
  measurement : BitVec 256 := 0
  version : Word := 0
  svn : Word := 0
  identity : Bool := false
  /-- refused write before READY, to be shown once READY is reached (R389) -/
  refused : Option (Port × Nat) := none
  variant : Option Bool := none
  /-- the structure table's start-up place: first page in stack 0 and pages (R265, R455) -/
  structHome : Nat × Nat := (0, 0)
  deriving DecidableEq, Repr, Inhabited

/-- Power and spring mode (R391–R400, R407–R410). -/
structure Power where
  /-- PWR_STATE.STATE -/
  state : Nat := 0
  gate : Nat := 0
  byTemp : Bool := false
  byPower : Bool := false
  junction : Nat := 0
  watts : Nat := 0
  /-- largest GATE of the throttling episode -/
  worst : Nat := 0
  /-- cycle since which the junction has been at 105 °C or above with GATE 30, and at 95 °C or below (R397, R410) -/
  hotSince : Option Nat := none
  coolSince : Option Nat := none
  spring : Nat := 0
  cause : BitVec 4 := 0
  cleared : BitVec 4 := 0
  springFrame : Nat := 0
  /-- WATTS to return to at exit (R408 row 4) -/
  limit : Nat := 0
  /-- VCORE set-point over AVSBus, mV; the regulator's boot voltage until the device moves it (R396, R434) -/
  vcore : Nat := 750
  vcoreOff : Bool := false
  vcoreFault : Bool := false
  vsramFault : Bool := false
  thermtrip : Bool := false
  deriving DecidableEq, Repr, Inhabited

/-- Errors (R401–R405, R412). -/
structure Ras where
  /-- 32 entries of four words -/
  log : Table (List Word) := []
  wptr : Nat := 0
  overflow : Bool := false
  cfgErr : Bool := false
  cfgPort : Port := .steward
  cfgOffset : Nat := 0
  sram : Nat := 0
  path : Nat := 0
  rebuilt : List Nat := []
  deriving DecidableEq, Repr, Inhabited

/-- Numerics loop (R225, R232). -/
structure Num where
  hEff : Nat := 2
  replays : Nat := 0
  /-- blocks of CARRIED tensors flagged by the micro-batches of each step (R232) -/
  flagged : Table Nat := []
  zeroRun : Nat := 0
  /-- step of the last rescale of each micro-batch slot, and what the last rescale seal found (R231–R233) -/
  scaled : Table Nat := []
  hOld : Nat := 2
  counted : Nat := 0
  /-- the last rescale step, with the blocks whose X was lowered, until its record is written (R233) -/
  lowered : Option (Nat × Nat) := none
  deriving DecidableEq, Repr, Inhabited

/-- A sampler (R371–R373). -/
structure Sampler where
  records : Table (List Word) := []
  wptr : Nat := 0
  wrapped : Bool := false
  dropped : Nat := 0
  waiting : List (List Word) := []
  deriving DecidableEq, Repr, Inhabited

/-- Work seen in the current cycle by the counters (R366): event, unit, value, context, marker. -/
structure Pulse where
  event : Nat := 0
  unit : Nat := 0
  value : Nat := 0
  ctx : Nat := 0
  marker : Word := 0
  deriving DecidableEq, Repr, Inhabited

/-- Levels of the previous cycle for EDGE counting, by counter key (R366). -/
abbrev Levels := Table Nat

/-- The machine. -/
structure State where
  pending : List Instr := []
  -- pins and clock
  pwrok : Bool := false
  rstHigh : Bool := false
  portaRole : Bool := false
  testMode : Bool := false
  now : Nat := 0
  free : Nat := 0
  regs : List (RegKey × DWord) := []
  -- host side
  hostA : Memory := []
  hostB : Memory := []
  steward : PortState := {}
  tenant : PortState := {}
  /-- what the last SMBus read returned, and whether the last command was not acknowledged (R439) -/
  smbus : Option Nat := none
  smbusNack : Bool := false
  /-- what the last JTAG read over the 1500 path returned (R281) -/
  jtag : Nat := 0
  -- contexts and arrays
  ctxs : Table Ctx := []
  pairs : Table TwinPair := []
  arrays : Table Arr := []
  prus : Table (List PruReq) := []
  slices : Table Memory := []
  signals : List (Nat × TokSignal) := []
  waiters : List Waiter := []
  /-- array that each sector's crossbar granted last (R71) -/
  granted : Table Nat := []
  samplers : Table Sampler := []
  /-- what swap-outs saved of arrays, by context, and the order in which they wait on tokens (R324) -/
  swapArrays : Table (Table Arr) := []
  swapWaiters : Table (List Waiter) := []
  /-- windows without interference of each weir, by 4 × context + weir (R329) -/
  weirQuiet : Table Nat := []
  -- memory system
  hbm : Memory := []
  sites : Table Stack := []
  held : List MemReq := []
  asking : List MemReq := []
  outstanding : List MemReq := []
  granaries : Table Granary := []
  -- model state
  objects : Table Obj := []
  stats : Table Stat := []
  blocks : Table Block := []
  curv : Curv := {}
  runs : List Run := []
  gran : Option GranStep := none
  lastSealed : Table Nat := []
  txns : List Txn := []
  txnCount : Nat := 0
  shadowDue : Option Nat := none
  num : Num := {}
  -- solver, groups, cadence
  problems : Table Problem := []
  batches : List Batch := []
  deltas : List DeltaWait := []
  group : Group := {}
  cad : Cad := {}
  -- counters
  pulses : List Pulse := []
  levels : Levels := []
  bwLatched : Table DWord := []
  bwSeq : Nat := 0
  /-- start of the bandwidth window in progress, and its length in µs, latched there (R370) -/
  bwSince : Nat := 0
  bwLength : Nat := 0
  /-- array counters whose selection or value was set from the tenant port (R382) -/
  tenantPmc : List Nat := []
  -- start-up, power, errors, security
  boot : Boot := {}
  power : Power := {}
  ras : Ras := {}
  attestCount : Nat := 0
  /-- requests whose report is not signed yet, in order of arrival, with the port each came from (R422) -/
  attestQueue : List (Port × List Byte) := []
  deriving DecidableEq, Repr, Inhabited

/-- Right after a cold reset: PWROK is low and every field has its cold value (R383, R387). A register
that `regs` does not list holds the cold value of its table (Machine/Regs.lean). -/
def State.reset : State := {}

end Sys2Proof.Machine
end

