-- ==== Sys2Proof/Machine/Flags.lean ====
section
/-! DEFINITION. The IEEE exception flags, the sticky bits of ARR_STATUS, and the rounding decision (R46, R50, R453). -/

namespace Sys2Proof.Machine

/-- The five IEEE 754 exception flags (R50). -/
structure FpFlags where
  invalid : Bool := false
  divZero : Bool := false
  overflow : Bool := false
  underflow : Bool := false
  inexact : Bool := false
  deriving DecidableEq, Repr, Inhabited

/-- Flags of two operations together: they are sticky. -/
def FpFlags.or (a b : FpFlags) : FpFlags :=
  { invalid := a.invalid || b.invalid, divZero := a.divZero || b.divZero,
    overflow := a.overflow || b.overflow, underflow := a.underflow || b.underflow,
    inexact := a.inexact || b.inexact }

/-- The sticky bits of ARR_STATUS [22:16], bit 0 here being bit 16 (R453). -/
def FpFlags.sticky (f : FpFlags) : BitVec 7 :=
  (if f.invalid then 4 else 0) ||| (if f.divZero then 8 else 0) ||| (if f.overflow then 16 else 0) |||
  (if f.underflow then 32 else 0) ||| (if f.inexact then 64 else 0)

/-- INT_SAT (R28, R51). -/
def stickyIntSat : BitVec 7 := 1

/-- FX_SAT (R44, R74). -/
def stickyFxSat : BitVec 7 := 2

/-- Whether a truncated magnitude is increased by one unit when `rem` of `2 ^ shift` was dropped. The
directions are coded as in R85: 0 nearest even, 1 ties away, 2 toward positive, 3 toward negative, 4 toward zero. -/
def roundsUp (rnd : Nat) (neg odd : Bool) (rem shift : Nat) : Bool :=
  match rnd with
  | 0 => decide (2 ^ shift < 2 * rem) || (decide (2 * rem = 2 ^ shift) && odd && decide (rem ≠ 0))
  | 1 => decide (2 ^ shift ≤ 2 * rem) && decide (rem ≠ 0)
  | 2 => decide (rem ≠ 0) && !neg
  | 3 => decide (rem ≠ 0) && neg
  | _ => false

/-- The first 16 bits below the last kept bit, as R52 step 1 takes them. -/
def stochBits (rem shift : Nat) : Nat := rem * 65536 / 2 ^ shift

/-- An integer shifted right by `sh` and rounded to nearest, ties to even (R44, R51). -/
def shiftRoundInt (v : Int) (sh : Nat) : Int :=
  let q := v.natAbs / 2 ^ sh
  let r := v.natAbs % 2 ^ sh
  let q' := if roundsUp 0 (v < 0) (q % 2 = 1) r sh then q + 1 else q
  if v < 0 then -(q' : Int) else q'

/-- A value held to a range, and whether it left it: saturation (R28, R44). -/
def saturate (lo hi v : Int) : Int × Bool :=
  if v < lo then (lo, true) else if hi < v then (hi, true) else (v, false)

def satInt32 (v : Int) : Int × Bool := saturate (-2147483648) 2147483647 v
def satInt64 (v : Int) : Int × Bool := saturate (-9223372036854775808) 9223372036854775807 v

end Sys2Proof.Machine
end

