-- ==== Sys2Proof/Machine/Fp.lean ====
section
/-! DEFINITION. IEEE 754 arithmetic in binary16, binary32 and binary64 over exact dyadic numbers, in FAST and
STRICT mode (R29, R46–R50), and pair-32 arithmetic (R30–R34). -/

namespace Sys2Proof.Machine

/-- An IEEE binary format: exponent and stored significand bits. -/
structure Fmt where
  ebits : Nat
  mbits : Nat
  deriving DecidableEq, Repr, Inhabited

def b16 : Fmt := { ebits := 5, mbits := 10 }
def b32 : Fmt := { ebits := 8, mbits := 23 }
def b64 : Fmt := { ebits := 11, mbits := 52 }

def Fmt.bias (f : Fmt) : Int := 2 ^ (f.ebits - 1) - 1
/-- Exponent of the smallest normal number. -/
def Fmt.emin (f : Fmt) : Int := 1 - f.bias
def Fmt.expTop (f : Fmt) : Nat := 2 ^ f.ebits - 1
def Fmt.width (f : Fmt) : Nat := 1 + f.ebits + f.mbits
def Fmt.signBit (f : Fmt) (neg : Bool) : Nat := if neg then 2 ^ (f.ebits + f.mbits) else 0
def Fmt.infBits (f : Fmt) (neg : Bool) : Nat := f.signBit neg + f.expTop * 2 ^ f.mbits
/-- The default quiet NaN (R29). -/
def Fmt.nanBits (f : Fmt) : Nat := f.expTop * 2 ^ f.mbits + 2 ^ (f.mbits - 1)
def Fmt.maxBits (f : Fmt) (neg : Bool) : Nat := f.infBits neg - 1

/-- The value of an encoding: a NaN, an infinity, or (−1)^neg · m · 2^e. -/
inductive FpVal where
  | nan
  | inf (neg : Bool)
  | fin (neg : Bool) (m : Nat) (e : Int)
  deriving DecidableEq, Repr, Inhabited

def Fmt.neg (f : Fmt) (w : Nat) : Bool := decide (w / 2 ^ (f.ebits + f.mbits) % 2 = 1)
def Fmt.expField (f : Fmt) (w : Nat) : Nat := w / 2 ^ f.mbits % 2 ^ f.ebits
def Fmt.manField (f : Fmt) (w : Nat) : Nat := w % 2 ^ f.mbits
def Fmt.isNan (f : Fmt) (w : Nat) : Bool := f.expField w == f.expTop && f.manField w != 0
def Fmt.isSNan (f : Fmt) (w : Nat) : Bool := f.isNan w && decide (f.manField w / 2 ^ (f.mbits - 1) = 0)
def Fmt.isFinite (f : Fmt) (w : Nat) : Bool := f.expField w != f.expTop
def Fmt.isZero (f : Fmt) (w : Nat) : Bool := f.expField w == 0 && f.manField w == 0
def Fmt.isSubnormal (f : Fmt) (w : Nat) : Bool := f.expField w == 0 && f.manField w != 0

/-- The exact value of an encoding. -/
def Fmt.val (f : Fmt) (w : Nat) : FpVal :=
  if f.expField w = f.expTop then if f.manField w = 0 then .inf (f.neg w) else .nan
  else if f.expField w = 0 then .fin (f.neg w) (f.manField w) (f.emin - f.mbits)
  else .fin (f.neg w) (2 ^ f.mbits + f.manField w) (f.emin - f.mbits + (f.expField w - 1))

/-- The FAST reading of an operand and flush of a result: a subnormal becomes zero of the same sign (R46). -/
def Fmt.flush (f : Fmt) (w : Nat) : Nat := if f.isSubnormal w then f.signBit (f.neg w) else w

/-- A number shifted so that its unit is 2^q: the kept integer, and what was dropped of 2^shift. -/
def alignTo (m : Nat) (e q : Int) : Nat × Nat × Nat :=
  if q ≤ e then (m * 2 ^ (e - q).toNat, 0, 0)
  else let sh := (q - e).toNat; (m / 2 ^ sh, m % 2 ^ sh, sh)

/-- Rounds (−1)^neg · m · 2^e, m ≠ 0, in one direction, with the flags default handling raises: tininess is
detected after rounding, and underflow needs tiny and inexact (R50). -/
def Fmt.round (f : Fmt) (rnd : Nat) (neg : Bool) (m : Nat) (e : Int) : Nat × FpFlags :=
  if m = 0 then (f.signBit neg, {}) else
  let top : Int := Nat.log2 m + e
  let q := max top f.emin - f.mbits
  let (k, r, sh) := alignTo m e q
  let k' := if roundsUp rnd neg (k % 2 = 1) r sh then k + 1 else k
  let enc := ((max top f.emin + f.bias - 1).toNat) * 2 ^ f.mbits + k'
  let inexact := decide (r ≠ 0)
  if f.expTop * 2 ^ f.mbits ≤ enc then
    let toInf := match rnd with | 0 => true | 1 => true | 2 => !neg | 3 => neg | _ => false
    (if toInf then f.infBits neg else f.maxBits neg, { overflow := true, inexact := true })
  else
    let (k1, r1, sh1) := alignTo m e (top - f.mbits)
    let wide := if roundsUp rnd neg (k1 % 2 = 1) r1 sh1 then k1 + 1 else k1
    let tiny := decide (top < f.emin) && !(decide (top + 1 = f.emin) && decide (2 ^ (f.mbits + 1) ≤ wide))
    (f.signBit neg + enc, { inexact := inexact, underflow := tiny && inexact })

/-- Stochastic rounding of a finite nonzero magnitude with 16 drawn bits (R52, R53). A magnitude above the
largest finite value converts by nearest even. A result is tiny when it is below the smallest normal number after
the rounding (R50, log entry 90). -/
def Fmt.roundStoch (f : Fmt) (draw : Nat) (neg : Bool) (m : Nat) (e : Int) : Nat × FpFlags :=
  if m = 0 then (f.signBit neg, {}) else
  let top : Int := Nat.log2 m + e
  let q := max top f.emin - f.mbits
  let (k, r, sh) := alignTo m e q
  if f.expTop * 2 ^ f.mbits ≤ ((max top f.emin + f.bias - 1).toNat) * 2 ^ f.mbits + k ||
      (((max top f.emin + f.bias - 1).toNat) * 2 ^ f.mbits + k + 1 == f.expTop * 2 ^ f.mbits && r != 0) then
    f.round 0 neg m e
  else
    let g := stochBits r sh
    let k' := if draw < g then k + 1 else k
    (f.signBit neg + ((max top f.emin + f.bias - 1).toNat) * 2 ^ f.mbits + k',
      { inexact := decide (g ≠ 0), underflow := decide (g ≠ 0) && decide (top < f.emin) && decide (k' < 2 ^ f.mbits) })

/-- An exact number m · 2^e. -/
structure Dy where
  m : Int := 0
  e : Int := 0
  deriving DecidableEq, Repr, Inhabited

def Dy.add (a b : Dy) : Dy :=
  let e := min a.e b.e
  { m := a.m * 2 ^ (a.e - e).toNat + b.m * 2 ^ (b.e - e).toNat, e := e }

def Dy.mul (a b : Dy) : Dy := { m := a.m * b.m, e := a.e + b.e }

def Dy.lt (a b : Dy) : Bool := decide ((a.add { m := -b.m, e := b.e }).m < 0)

/-- The exact number of a finite value; zero for the others. -/
def FpVal.dy : FpVal → Dy
  | .fin neg m e => { m := if neg then -(m : Int) else m, e := e }
  | _ => {}

def FpVal.isFin : FpVal → Bool
  | .fin _ _ _ => true
  | _ => false

/-- Rounds an exact nonzero number. -/
def Fmt.ofDy (f : Fmt) (rnd : Nat) (d : Dy) : Nat × FpFlags := f.round rnd (d.m < 0) d.m.natAbs d.e

/-- The payload of a NaN operand with the quiet bit set (R49). -/
def Fmt.quiet (f : Fmt) (w : Nat) : Nat :=
  if f.manField w / 2 ^ (f.mbits - 1) = 0 then w + 2 ^ (f.mbits - 1) else w

/-- fma(a, b, c), correctly rounded in one direction (R48), with NaN operands and invalid operations as R49
says; `keep` false answers the default NaN, as FAST and pair-32 arithmetic do. DEDUCED (log entry 90): the product of an
infinity and zero beside a quiet NaN raises no flag, since R49 lets an operation be invalid "without NaN operands". -/
def Fmt.fma (f : Fmt) (rnd : Nat) (keep : Bool) (a b c : Nat) : Nat × FpFlags :=
  let inv : FpFlags := { invalid := true }
  if f.isNan a || f.isNan b || f.isNan c then
    let fl : FpFlags := { invalid := f.isSNan a || f.isSNan b || f.isSNan c }
    (if keep then f.quiet (if f.isNan a then a else if f.isNan b then b else c) else f.nanBits, fl)
  else
    let np := xor (f.neg a) (f.neg b)
    match f.val a, f.val b, f.val c with
    | .fin _ ma ea, .fin _ mb eb, .fin nc mc ec =>
      let p : Dy := { m := if np then -((ma * mb : Nat) : Int) else (ma * mb : Nat), e := ea + eb }
      let d := p.add { m := if nc then -(mc : Int) else mc, e := ec }
      if d.m = 0 then
        let pz := decide (ma * mb = 0)
        (f.signBit (if pz && mc == 0 && np == nc then np else rnd == 3), {})
      else f.ofDy rnd d
    | .fin _ _ _, .fin _ _ _, .inf nc => (f.infBits nc, {})
    | .fin _ ma _, .inf _, .fin _ _ _ => if ma = 0 then (f.nanBits, inv) else (f.infBits np, {})
    | .inf _, .fin _ mb _, .fin _ _ _ => if mb = 0 then (f.nanBits, inv) else (f.infBits np, {})
    | .fin _ ma _, .inf _, .inf nc =>
      if ma = 0 ∨ np ≠ nc then (f.nanBits, inv) else (f.infBits nc, {})
    | .inf _, .fin _ mb _, .inf nc =>
      if mb = 0 ∨ np ≠ nc then (f.nanBits, inv) else (f.infBits nc, {})
    | .inf _, .inf _, .inf nc => if np ≠ nc then (f.nanBits, inv) else (f.infBits nc, {})
    | .inf _, .inf _, _ => (f.infBits np, {})
    | _, _, _ => (f.nanBits, inv)

/-- One, in a format. -/
def Fmt.one (f : Fmt) : Nat := f.bias.toNat * 2 ^ f.mbits

/-- A sum or product as an fma whose rounding is the operation's own: a·1 + c, and a·b − 0 of the product's sign. -/
def Fmt.add (f : Fmt) (rnd : Nat) (keep : Bool) (a c : Nat) : Nat × FpFlags := f.fma rnd keep a f.one c

def Fmt.mul (f : Fmt) (rnd : Nat) (keep : Bool) (a b : Nat) : Nat × FpFlags :=
  f.fma rnd keep a b (f.signBit (xor (f.neg a) (f.neg b)))

def Fmt.negate (f : Fmt) (a : Nat) : Nat := if f.neg a then a - f.signBit true else a + f.signBit true

/-! ### binary32 words to nearest even, subnormals kept: the arithmetic of R32 -/

def f32Add (a b : Word) : Word := BitVec.ofNat 32 (b32.add 0 false a.toNat b.toNat).1
def f32Mul (a b : Word) : Word := BitVec.ofNat 32 (b32.mul 0 false a.toNat b.toNat).1
def f32Fma (a b c : Word) : Word := BitVec.ofNat 32 (b32.fma 0 false a.toNat b.toNat c.toNat).1
def f32Neg (a : Word) : Word := a ^^^ 0x80000000
def f32Sub (a b : Word) : Word := f32Add a (f32Neg b)
def f32Finite (a : Word) : Bool := b32.isFinite a.toNat
def f32Nan : Word := 0x7FC00000
def f32Val (a : Word) : FpVal := b32.val a.toNat
/-- An exact number rounded to nearest even, +0 for zero. -/
def f32OfDy (d : Dy) : Word := BitVec.ofNat 32 (b32.ofDy 0 d).1
def f32OfNat (n : Nat) : Word := f32OfDy { m := n, e := 0 }
def f32Abs (a : Word) : Word := a &&& 0x7FFFFFFF

/-- Ordered comparison a < b of two words; false when either is a NaN. -/
def f32Lt (a b : Word) : Bool :=
  match f32Val a, f32Val b with
  | .nan, _ => false
  | _, .nan => false
  | .inf na, .inf nb => na && !nb
  | .inf na, .fin _ _ _ => na
  | .fin _ _ _, .inf nb => !nb
  | x, y => x.dy.lt y.dy

def f32Le (a b : Word) : Bool :=
  match f32Val a, f32Val b with
  | .nan, _ => false
  | _, .nan => false
  | _, _ => !f32Lt b a

/-! ### Square roots and quotients -/

/-- The integer square root, one bit at a time from bit `n - 1` down. -/
def isqrtFrom : Nat → Nat → Nat → Nat
  | 0, r, _ => r
  | n + 1, r, v => isqrtFrom n (if (r + 2 ^ n) * (r + 2 ^ n) ≤ v then r + 2 ^ n else r) v

def isqrt (v : Nat) : Nat := isqrtFrom (Nat.log2 v / 2 + 1) 0 v

/-- The square root of m · 2^e to at least `bits` bits, its last bit set when it is inexact. -/
def sqrtDy (bits m : Nat) (e : Int) : Nat × Int :=
  let sh := 2 * bits + 4 + (if (e - (2 * bits + 4 : Nat)) % 2 = 0 then 0 else 1)
  let v := m * 2 ^ sh
  let r := isqrt v
  (2 * r + (if r * r = v then 0 else 1), (e - sh) / 2 - 1)

/-- The quotient of ma · 2^ea by mb · 2^eb to at least `bits` bits, its last bit set when it is inexact. -/
def divDy (bits ma : Nat) (ea : Int) (mb : Nat) (eb : Int) : Nat × Int :=
  let sh := bits + Nat.log2 mb + 3
  let v := ma * 2 ^ sh
  (2 * (v / mb) + (if v % mb = 0 then 0 else 1), ea - eb - sh - 1)

/-- √x correctly rounded; invalid below zero (R49, R74). -/
def Fmt.sqrt (f : Fmt) (rnd : Nat) (keep : Bool) (a : Nat) : Nat × FpFlags :=
  match f.val a with
  | .nan => (if keep then f.quiet a else f.nanBits, { invalid := f.isSNan a })
  | .inf neg => if neg then (f.nanBits, { invalid := true }) else (f.infBits false, {})
  | .fin neg m e =>
    if m = 0 then (f.signBit neg, {})
    else if neg then (f.nanBits, { invalid := true })
    else let r := sqrtDy (f.mbits + 2) m e; f.round rnd false r.1 r.2

/-- 1/x correctly rounded; a zero raises divideByZero (R50, R74). -/
def Fmt.recip (f : Fmt) (rnd : Nat) (keep : Bool) (a : Nat) : Nat × FpFlags :=
  match f.val a with
  | .nan => (if keep then f.quiet a else f.nanBits, { invalid := f.isSNan a })
  | .inf neg => (f.signBit neg, {})
  | .fin neg m e =>
    if m = 0 then (f.infBits neg, { divZero := true })
    else let r := divDy (f.mbits + 2) 1 0 m e; f.round rnd neg r.1 r.2

/-- A quotient correctly rounded. -/
def Fmt.div (f : Fmt) (rnd : Nat) (keep : Bool) (a b : Nat) : Nat × FpFlags :=
  if f.isNan a || f.isNan b then
    (if keep then f.quiet (if f.isNan a then a else b) else f.nanBits, { invalid := f.isSNan a || f.isSNan b })
  else
    let n := xor (f.neg a) (f.neg b)
    match f.val a, f.val b with
    | .inf _, .inf _ => (f.nanBits, { invalid := true })
    | .inf _, _ => (f.infBits n, {})
    | _, .inf _ => (f.signBit n, {})
    | .fin _ ma ea, .fin _ mb eb =>
      if mb = 0 then if ma = 0 then (f.nanBits, { invalid := true }) else (f.infBits n, { divZero := true })
      else if ma = 0 then (f.signBit n, {})
      else let r := divDy (f.mbits + 2) ma ea mb eb; f.round rnd n r.1 r.2
    | _, _ => (f.nanBits, {})

/-- 1/√x correctly rounded; of ±0 the infinity of that sign with divideByZero (R50, R74). -/
def Fmt.rsqrt (f : Fmt) (rnd : Nat) (keep : Bool) (a : Nat) : Nat × FpFlags :=
  match f.val a with
  | .nan => (if keep then f.quiet a else f.nanBits, { invalid := f.isSNan a })
  | .inf neg => if neg then (f.nanBits, { invalid := true }) else (f.signBit false, {})
  | .fin neg m e =>
    if m = 0 then (f.infBits neg, { divZero := true })
    else if neg then (f.nanBits, { invalid := true })
    else
      let sh := 4 * (f.mbits + 4) + Nat.log2 m + (if (e + (4 * (f.mbits + 4) + Nat.log2 m : Nat)) % 2 = 0 then 0 else 1)
      let v := 2 ^ sh / m
      let r := isqrt v
      f.round rnd false (2 * r + (if r * r * m = 2 ^ sh then 0 else 1)) (-((e + sh) / 2) - 1)

def f32Div (a b : Word) : Word := BitVec.ofNat 32 (b32.div 0 false a.toNat b.toNat).1
def f32Sqrt (a : Word) : Word := BitVec.ofNat 32 (b32.sqrt 0 false a.toNat).1
def f32Recip (a : Word) : Word := BitVec.ofNat 32 (b32.recip 0 false a.toNat).1

/-! ### pair-32 (R30–R32) -/

def twoSum (a b : Word) : Word × Word :=
  let s := f32Add a b
  let bb := f32Sub s a
  (s, f32Add (f32Sub a (f32Sub s bb)) (f32Sub b bb))

def fastTwoSum (a b : Word) : Word × Word :=
  let s := f32Add a b
  (s, f32Sub b (f32Sub s a))

def twoProd (a b : Word) : Word × Word :=
  let p := f32Mul a b
  (p, f32Fma a b (f32Neg p))

/-- The pair of a non-finite high part: an infinity, or the default NaN, with +0 (R31). -/
def pairSpecial (h : Word) : Pair := { hi := if b32.isNan h.toNat then f32Nan else h, lo := 0 }

/-- A result of a sequence of R32 under the rules of R31. -/
def pairDone (x : Word × Word) : Pair :=
  if !f32Finite x.1 then pairSpecial x.1
  else if b32.isZero x.1.toNat then { hi := x.1, lo := 0 } else { hi := x.1, lo := x.2 }

def pairAdd (a b : Pair) : Pair :=
  let s := twoSum a.hi b.hi
  if !f32Finite s.1 then pairSpecial s.1 else
  let t := twoSum a.lo b.lo
  let s1 := fastTwoSum s.1 (f32Add s.2 t.1)
  if !f32Finite s1.1 then pairSpecial s1.1 else
  pairDone (fastTwoSum s1.1 (f32Add s1.2 t.2))

def pairMul (a b : Pair) : Pair :=
  let p := twoProd a.hi b.hi
  if !f32Finite p.1 then pairSpecial p.1 else
  let t := f32Fma a.hi b.lo (f32Mul a.lo b.hi)
  pairDone (fastTwoSum p.1 (f32Add p.2 t))

def pairOf (x : Word) : Pair := { hi := x, lo := 0 }
def pairNeg (a : Pair) : Pair := { hi := f32Neg a.hi, lo := if b32.isZero a.lo.toNat then 0 else f32Neg a.lo }
def pairSub (a b : Pair) : Pair := pairAdd a (pairNeg b)

/-- A multiply-accumulate step (R32). -/
def pairMac (acc a b : Pair) : Pair := pairAdd acc (pairMul a b)

/-- A pair as the device writes it: normalised, with the special values of R31. -/
def pairNormal (p : Pair) : Pair :=
  if !f32Finite p.hi then pairSpecial p.hi
  else if b32.isZero p.lo.toNat then { hi := p.hi, lo := 0 }
  else pairDone (twoSum p.hi p.lo)

/-- The value of a pair, when its parts are finite. -/
def Pair.dy (p : Pair) : Dy := (f32Val p.hi).dy.add (f32Val p.lo).dy

def Pair.finite (p : Pair) : Bool := f32Finite p.hi

/-- The normalised pair nearest an exact number: h to nearest even, l the rest rounded (R30). -/
def pairOfDy (d : Dy) : Pair :=
  let h := f32OfDy d
  if !f32Finite h then pairSpecial h else
  let r := d.add { m := -(f32Val h).dy.m, e := (f32Val h).dy.e }
  pairDone (fastTwoSum h (f32OfDy r))

/-- a < b as numbers, both finite. -/
def pairLt (a b : Pair) : Bool := a.dy.lt b.dy

def Pair.normalised (p : Pair) : Bool := f32Add p.hi p.lo == p.hi

end Sys2Proof.Machine
end

