-- ==== Sys2Proof/Machine/Operands.lean ====
section
/-! DEFINITION. The operand formats: integers, IEEE words, pair-32, FX32, and the block formats TB8 and TB8W with
their encoding and expansion (R25–R44), elements in memory, the drain conversions (R51–R53), and the exponent
histogram (R54, R55). Formats are coded as R85. -/

namespace Sys2Proof.Machine

def fmtInt4 : Nat := 0
def fmtInt8 : Nat := 1
def fmtInt32 : Nat := 2
def fmtFx32 : Nat := 3
def fmtB16 : Nat := 4
def fmtB32 : Nat := 5
def fmtB64 : Nat := 6
def fmtPair : Nat := 7
def fmtTb8 : Nat := 8
def fmtTb8w : Nat := 9

def isBlock (fmt : Nat) : Bool := fmt == 8 || fmt == 9
def isFloat (fmt : Nat) : Bool := fmt == 4 || fmt == 5 || fmt == 6
def isIntFmt (fmt : Nat) : Bool := fmt == 0 || fmt == 1

/-- Blocks in a row of n elements (R38). -/
def blocksOf (n : Nat) : Nat := (n + 63) / 64

/-- Bytes of a row of n elements (R27, R36, R38). -/
def rowBytes (fmt n : Nat) : Nat :=
  match fmt with
  | 0 => (n + 1) / 2
  | 1 => n
  | 4 => 2 * n
  | 6 => 8 * n
  | 7 => 8 * n
  | 8 => 66 * blocksOf n
  | 9 => 66 * blocksOf n
  | _ => 4 * n

/-- The row pitch of a block tensor: rounded up to 64 bytes (R38). -/
def blockPitch (n : Nat) : Nat := (66 * blocksOf n + 63) / 64 * 64

/-- Pitch of a tensor of rows of some elements: that of R38 in a block format, else as the plan lays the rows out. -/
def tensorPitch (align fmt cols : Nat) : Nat :=
  let a := if isBlock fmt then 64 else max 1 align
  (rowBytes fmt cols + a - 1) / a * a

/-- Little-endian number of a byte list. -/
def leNat : List Byte → Nat
  | [] => 0
  | b :: bs => b.toNat + 256 * leNat bs

/-- The n low bytes of a number, little-endian. -/
def leBytes : Nat → Nat → List Byte
  | 0, _ => []
  | n + 1, v => BitVec.ofNat 8 v :: leBytes n (v / 256)

/-- n bytes at an offset of a byte list; bytes beyond its end read as zero. -/
def sliceBytes (bs : List Byte) (off n : Nat) : List Byte :=
  (List.range n).map fun i => bs.getD (off + i) 0

def leWord (bs : List Byte) (off : Nat) : Word := BitVec.ofNat 32 (leNat (sliceBytes bs off 4))

/-- A number of `bits` bits as a signed integer. -/
def signedOf (bits v : Nat) : Int := if v < 2 ^ (bits - 1) then v else (v : Int) - 2 ^ bits

/-! ### Block elements -/

/-- Largest magnitude of the element format (R35). -/
def blkEmax (wide : Bool) : Dy := if wide then { m := 7, e := 14 } else { m := 15, e := 5 }

/-- The magnitude of an element code (R35). -/
def blkMag (wide : Bool) (code : Byte) : Nat × Int :=
  let c := code.toNat % 128
  if wide then
    let ex := c / 4; let mn := c % 4
    if ex = 0 then (mn, -16) else (4 + mn, (ex : Int) - 17)
  else
    let ex := c / 8; let mn := c % 8
    if ex = 0 then (mn, -9) else (8 + mn, (ex : Int) - 10)

/-- Expansion of an element of a block to binary32 (R37, R42). -/
def blkExpand (wide : Bool) (x t : Nat) (code : Byte) : Word :=
  if x = 255 then f32Nan
  else
    let v := blkMag wide code
    let w := (b32.round 0 (code.toNat / 128 = 1) v.1 (v.2 + x - 127 - t)).1
    BitVec.ofNat 32 w

/-- Sub-scale of group g in the byte that holds the four (R36). -/
def subScale (b : Byte) (g : Nat) : Nat := b.toNat / 4 ^ g % 4

/-- The 64 expanded elements of a block of 66 bytes (R36). -/
def blkExpandAll (wide : Bool) (bs : List Byte) : List Word :=
  (List.range 64).map fun i =>
    blkExpand wide (bs.getD 64 0).toNat (subScale (bs.getD 65 0) (i / 16)) (bs.getD i 0)

/-- Element i of a block row (R37, R38). -/
def blkRowElem (wide : Bool) (row : List Byte) (i : Nat) : Word :=
  let o := i / 64 * 66
  blkExpand wide (row.getD (o + 64) 0).toNat (subScale (row.getD (o + 65) 0) (i % 64 / 16)) (row.getD (o + i % 64) 0)

/-- Largest finite magnitude of a list of binary32 words. -/
def maxMag (ws : List Word) : Dy :=
  ws.foldl (fun a w => let d := (f32Val (f32Abs w)).dy; if a.lt d then d else a) {}

/-- A magnitude scaled by 2^k lies within Emax. -/
def fitsEmax (wide : Bool) (m : Dy) (k : Int) : Bool := !((blkEmax wide).lt { m := m.m, e := m.e + k })

/-- Block exponent of DERIVED scaling for a largest magnitude (R40 steps 2, 3). -/
def derivedX (wide : Bool) (m : Dy) : Nat :=
  if m.m = 0 then 0 else
    let x0 : Int := (Nat.log2 m.m.natAbs : Int) + m.e + 127 - (if wide then 16 else 8)
    let x := if fitsEmax wide m (127 - x0) then x0 else x0 + 1
    if x < 0 then 0 else if 254 < x then 254 else x.toNat

/-- Sub-scale of a group against a block exponent (R40 step 4). -/
def derivedT (wide : Bool) (x : Nat) (m : Dy) : Nat :=
  if fitsEmax wide m (127 - (x : Int) + 3) then 3
  else if fitsEmax wide m (127 - (x : Int) + 2) then 2
  else if fitsEmax wide m (127 - (x : Int) + 1) then 1
  else 0

/-- The element format as a binary format without infinities; codes count up with magnitude. -/
def blkFmt (wide : Bool) : Fmt := if wide then { ebits := 5, mbits := 2 } else { ebits := 4, mbits := 3 }

/-- Magnitude code of m · 2^e rounded to the element format, nearest even or with 16 drawn bits; the flags say that it
lies above Emax and takes the largest code, and that its f of R52 is not zero (R41, R52, R53). -/
def blkCode (wide : Bool) (draw : Option Nat) (m : Nat) (e : Int) : Nat × Bool × Bool :=
  if m = 0 then (0, false, false)
  else if (blkEmax wide).lt { m := m, e := e } then (127, true, false)
  else
    let f := blkFmt wide
    let top : Int := Nat.log2 m + e
    let q := max top f.emin - f.mbits
    let (k, r, sh) := alignTo m e q
    let up := match draw with
      | none => roundsUp 0 false (k % 2 = 1) r sh
      | some d => decide (d < stochBits r sh)
    ((((max top f.emin + f.bias - 1).toNat) * 2 ^ f.mbits + (if up then k + 1 else k)), false,
      draw.isSome && stochBits r sh != 0)

/-- A written block: its 66 bytes, its elements as read back, and whether it overflowed. -/
structure BlockOut where
  bytes : List Byte := []
  words : List Word := []
  sat : Bool := false
  /-- some element was rounded stochastically with f nonzero (R53) -/
  inexact : Bool := false
  deriving DecidableEq, Repr, Inhabited

/-- Writes up to 64 finite values (−1)^neg · m · 2^e as a block with exponent x and sub-scales ts; elements beyond are
padding. -/
def blkPut (wide : Bool) (draws : List Nat) (stoch : Bool) (x : Nat) (ts : List Nat) (vs : List (Bool × Nat × Int)) : BlockOut :=
  let els := (List.range 64).map fun i =>
    match vs[i]? with
    | none => ((0 : Byte), false, false)
    | some v =>
      let c := blkCode wide (if stoch then some (draws.getD i 0) else none) v.2.1 (v.2.2 + 127 - x + (ts.getD (i / 16) 0))
      (BitVec.ofNat 8 (c.1 + if v.1 then 128 else 0), c.2)
  let sub := ts.getD 0 0 + 4 * ts.getD 1 0 + 16 * ts.getD 2 0 + 64 * ts.getD 3 0
  let bytes := els.map (·.1) ++ [BitVec.ofNat 8 x, BitVec.ofNat 8 sub]
  { bytes := bytes, words := (blkExpandAll wide bytes).take vs.length, sat := els.any (·.2.1), inexact := els.any (·.2.2) }

/-- Sign, magnitude and exponent of a finite word. -/
def finParts (w : Word) : Bool × Nat × Int :=
  match f32Val w with
  | .fin neg m e => (neg, m, e)
  | _ => (false, 0, 0)

/-- A block of up to 64 finite binary32 values. -/
def blkWith (wide : Bool) (draws : List Nat) (stoch : Bool) (x : Nat) (ts : List Nat) (ws : List Word) : BlockOut :=
  blkPut wide draws stoch x ts (ws.map finParts)

/-- A non-finite block (R40 step 1). -/
def blkNonFinite (n : Nat) : BlockOut :=
  { bytes := List.replicate 64 0 ++ [0xFF, 0], words := List.replicate n f32Nan, sat := false }

def groupOf (ws : List Word) (g : Nat) : List Word := (ws.drop (16 * g)).take 16

/-- DERIVED scaling (R40). -/
def blkDerive (wide : Bool) (draws : List Nat) (stoch : Bool) (ws : List Word) : BlockOut :=
  if ws.any (fun w => !f32Finite w) then blkNonFinite ws.length
  else
    let m := maxMag ws
    let x := derivedX wide m
    let ts := if m.m = 0 then [0, 0, 0, 0] else (List.range 4).map fun g => derivedT wide x (maxMag (groupOf ws g))
    blkWith wide draws stoch x ts ws

/-- CARRIED scaling: the exponent in place raised by the latch bit, the sub-scales kept (R91). A block with a
non-finite value is written as a non-finite block (log entry 13). -/
def blkCarry (wide : Bool) (draws : List Nat) (stoch : Bool) (old : List Byte) (bit : Bool) (ws : List Word) : BlockOut :=
  if ws.any (fun w => !f32Finite w) then blkNonFinite ws.length
  else
    let x := min ((old.getD 64 0).toNat + if bit then 1 else 0) 254
    blkWith wide draws stoch x ((List.range 4).map (subScale (old.getD 65 0))) ws

/-! ### Elements in memory -/

/-- Element i of a row in memory (R27, R29, R30, R42, R43). -/
def rowElem (fmt : Nat) (sgn : Bool) (row : List Byte) (i : Nat) : Elem :=
  match fmt with
  | 0 =>
    let b := (row.getD (i / 2) 0).toNat / (if i % 2 = 0 then 1 else 16) % 16
    .int (if sgn then signedOf 4 b else b)
  | 1 => let b := (row.getD i 0).toNat; .int (if sgn then signedOf 8 b else b)
  | 2 => .int (signedOf 32 (leNat (sliceBytes row (4 * i) 4)))
  | 3 => .fx (signedOf 32 (leNat (sliceBytes row (4 * i) 4)))
  | 4 => .f16 (BitVec.ofNat 16 (leNat (sliceBytes row (2 * i) 2)))
  | 6 => .f64 (BitVec.ofNat 64 (leNat (sliceBytes row (8 * i) 8)))
  | 7 => .pair { hi := leWord row (8 * i), lo := leWord row (8 * i + 4) }
  | 8 => .blk (blkRowElem false row i)
  | 9 => .blk (blkRowElem true row i)
  | _ => .f32 (leWord row (4 * i))

def rowElems (fmt : Nat) (sgn : Bool) (row : List Byte) (n : Nat) : List Elem :=
  (List.range n).map (rowElem fmt sgn row)

/-- The zero an absent element reads as (R58). -/
def zeroElem (fmt : Nat) : Elem := rowElem fmt true [] 0

/-- The bytes of an element of a format without blocks (the low nibble for INT4). -/
def elemBytes : Elem → List Byte
  | .int v => leBytes 4 (v % 2 ^ 32).toNat
  | .blk w => leBytes 4 w.toNat
  | .f16 w => leBytes 2 w.toNat
  | .f32 w => leBytes 4 w.toNat
  | .f64 w => leBytes 8 w.toNat
  | .pair p => leBytes 4 p.hi.toNat ++ leBytes 4 p.lo.toNat
  | .fx v => leBytes 8 (v % 2 ^ 64).toNat

/-- An operand as FAST arithmetic reads it: an exact value, subnormal binary16 and binary32 operands as zero (R46). -/
def fastVal : Elem → FpVal
  | .int v => .fin (v < 0) v.natAbs 0
  | .blk w => f32Val w
  | .f16 w => b16.val (b16.flush w.toNat)
  | .f32 w => b32.val (b32.flush w.toNat)
  | .f64 w => b64.val w.toNat
  | .pair p => f32Val p.hi
  | .fx v => .fin (v < 0) v.natAbs 0

/-- A NaN of a narrower format carried into a wider one, or a value converted exactly or rounded. -/
def convertFmt (src dst : Fmt) (rnd : Nat) (keep : Bool) (w : Nat) : Nat × FpFlags :=
  match src.val w with
  | .nan =>
    let pay := src.manField (src.quiet w)
    let pay' := if src.mbits ≤ dst.mbits then pay * 2 ^ (dst.mbits - src.mbits) else pay / 2 ^ (src.mbits - dst.mbits)
    (if keep then dst.infBits (src.neg w) + pay' else dst.nanBits, { invalid := src.isSNan w })
  | .inf neg => (dst.infBits neg, {})
  | .fin neg m e => dst.round rnd neg m e

/-- binary16 or binary32 operand as a binary32 word, exactly; signalling NaNs keep their bits' payload quieted. -/
def toB32 : Elem → Word
  | .f16 w =>
    match b16.val w.toNat with
    | .nan => BitVec.ofNat 32 (b32.infBits (b16.neg w.toNat) + b16.manField w.toNat * 2 ^ 13)
    | _ => BitVec.ofNat 32 (convertFmt b16 b32 0 true w.toNat).1
  | .f32 w => w
  | .blk w => w
  | .pair p => p.hi
  | .int v => f32OfDy { m := v, e := 0 }
  | _ => 0

/-- An operand of pair-32 arithmetic (R32). -/
def toPair : Elem → Pair
  | .pair p => p
  | e => pairOf (toB32 e)

def elemInt : Elem → Int
  | .int v => v
  | .fx v => v
  | _ => 0

/-! ### Drain conversions (R51) -/

/-- What a drain of one element needs beside the value. -/
structure DrainCfg where
  strict : Bool := false
  rnd : Nat := 0
  stoch : Bool := false
  /-- SH: right shift, signed power, or output point -/
  sh : Nat := 0
  qSum : Nat := 0
  deriving DecidableEq, Repr, Inhabited

/-- An element drained to a format without blocks: its bytes, its histogram word, and the sticky bits it sets. -/
structure Drained where
  bytes : List Byte := []
  sticky : BitVec 7 := 0
  deriving DecidableEq, Repr, Inhabited

/-- Signed value of the seven-bit SH field (R86). -/
def shSigned (sh : Nat) : Int := if sh < 64 then sh else (sh : Int) - 128

def drainOne (c : DrainCfg) (fmt draw : Nat) (acc : Elem) : Drained :=
  match acc with
  | .int v =>
    if fmt = 5 then { bytes := leBytes 4 (b32.ofDy 0 { m := v, e := shSigned c.sh }).1 }
    else if fmt = 1 then
      let r := saturate (-128) 127 (shiftRoundInt v c.sh)
      { bytes := leBytes 1 (r.1 % 256).toNat, sticky := if r.2 then stickyIntSat else 0 }
    else if fmt = 0 then
      let r := saturate (-8) 7 (shiftRoundInt v c.sh)
      { bytes := leBytes 1 (r.1 % 16).toNat, sticky := if r.2 then stickyIntSat else 0 }
    else { bytes := leBytes 4 (v % 2 ^ 32).toNat }
  | .f32 w =>
    if fmt = 4 then
      match f32Val w with
      | .fin neg m e =>
        if m = 0 then { bytes := leBytes 2 (b16.signBit neg) } else
        let r := if c.stoch then b16.roundStoch draw neg m e else b16.round c.rnd neg m e
        if c.strict then { bytes := leBytes 2 r.1, sticky := r.2.sticky } else { bytes := leBytes 2 (b16.flush r.1) }
      | _ =>
        let r := convertFmt b32 b16 0 c.strict w.toNat
        { bytes := leBytes 2 r.1, sticky := if c.strict then r.2.sticky else 0 }
    else { bytes := leBytes 4 w.toNat }
  | .f64 w =>
    if fmt = 5 then
      let r := convertFmt b64 b32 c.rnd true w.toNat
      { bytes := leBytes 4 r.1, sticky := r.2.sticky }
    else { bytes := leBytes 8 w.toNat }
  | .pair p => let p := pairNormal p; if fmt = 5 then { bytes := leBytes 4 p.hi.toNat } else { bytes := elemBytes (.pair p) }
  | .fx v =>
    let s : Int := (c.qSum : Int) - c.sh
    let x := if 0 ≤ s then shiftRoundInt v s.toNat else v * 2 ^ (-s).toNat
    let r := satInt32 x
    { bytes := leBytes 4 (r.1 % 2 ^ 32).toNat, sticky := if r.2 then stickyFxSat else 0 }
  | .blk w => { bytes := leBytes 4 w.toNat }
  | .f16 w => { bytes := leBytes 2 w.toNat }

/-! ### Exponent histogram (R54, R55) -/

def histZero : List Nat := List.replicate 68 0

/-- The counter that counts a value. -/
def histBin (sub : Bool) : FpVal → Nat
  | .nan => 67
  | .inf _ => 67
  | .fin _ m e =>
    if m = 0 then 66
    else
      let x : Int := Nat.log2 m + e
      if sub || x < -40 then 64 else if 23 < x then 65 else (x + 40).toNat

/-- The counter for a written element: format and its word. An element of a block counts by the exponent of its expanded
binary32 value, which R54 calls the value as written; DEDUCED (log entry 90): a code that is subnormal in the element format
is no subnormal for the counter unless its expanded value is one. -/
def histIndex (fmt : Nat) (w : Nat) : Nat :=
  let f := if fmt = 4 then b16 else if fmt = 6 then b64 else b32
  histBin (f.isSubnormal w) (f.val w)

def satAdd32 (a b : Nat) : Nat := min (a + b) 0xFFFFFFFF

def histAdd (h : List Nat) (i : Nat) : List Nat :=
  let h := if h.isEmpty then histZero else h
  h.set i (satAdd32 (h.getD i 0) 1)

/-- Merge by saturating addition (R55). -/
def histMergeLists (a b : List Nat) : List Nat :=
  (List.range 68).map fun i => satAdd32 (a.getD i 0) (b.getD i 0)

def histBytes (h : List Nat) : List Byte := (List.range 68).flatMap fun i => leBytes 4 (h.getD i 0)

end Sys2Proof.Machine
end

