-- ==== Sys2Proof/Machine/Regs.lean ====
section
/-! DEFINITION. The fields of every register: lowest bit, width, access, steward authority, cold value, and whether a
warm reset keeps it (the register tables of R153, R179, R202, R224, R236, R265, R285, R313, R331, R351, R361, R382,
R400, R412, R426, R453), and where each register lies (R443, R449, R450, R452). A cold value that the manual gives as
HW or Strap stands here as 0 (log entry 1). Fields whose authority depends on a counter's setting (R365) are not marked here. -/

namespace Sys2Proof.Machine

/-- Access types (R6). -/
inductive Acc where
  | ro
  | rw
  | rws
  | w1c
  | wo
  deriving DecidableEq, Repr

/-- A field of a register. -/
structure RField where
  lo : Nat
  width : Nat
  acc : Acc
  steward : Bool
  cold : Nat
  kept : Bool
  deriving DecidableEq, Repr

/-- The field tables. -/
def regFields : Reg → List RField
  -- R153
  | .crvPolicy => [.mk 0 1 .rw true 0 false, .mk 1 1 .rw true 1 false, .mk 8 8 .rw true 4 false,
      .mk 16 8 .rw true 8 false]
  -- R153
  | .crvTheta => [.mk 0 16 .rw true 3277 false, .mk 16 16 .rw true 200 false]
  -- R153
  | .crvThetaBounds => [.mk 0 16 .rw true 1638 false, .mk 16 16 .rw true 13107 false]
  -- R153
  | .crvBudget => [.mk 0 10 .rw true 60 false]
  -- R153
  | .crvStatus => [.mk 0 16 .ro true 3277 false, .mk 16 16 .ro true 0 false]
  -- R153
  | .crvCredit => [.mk 0 32 .ro true 0 false]
  -- R179
  | .crvRootCfg => [.mk 0 6 .rw true 20 false, .mk 6 1 .rw true 0 false, .mk 7 1 .rw true 0 false,
      .mk 8 4 .rw true 6 false, .mk 12 8 .rw true 16 false, .mk 20 5 .rw true 20 false]
  -- R202
  | .grnRecipe => [.mk 0 1 .rw true 1 false, .mk 16 16 .ro false 0 false]
  -- R202
  | .grnNormBound => [.mk 0 32 .rw true 2139095040 false]
  -- R202
  | .grnStatus => [.mk 0 1 .ro false 0 false, .mk 1 1 .ro false 0 false, .mk 16 16 .ro false 0 false]
  -- R224
  | .txnShadowCfg => [.mk 0 5 .rw true 6 false]
  -- R224
  | .txnStatus => [.mk 0 7 .ro true 0 false, .mk 7 1 .ro true 0 false, .mk 14 14 .ro true 0 false,
      .mk 28 4 .ro true 0 false]
  -- R224
  | .txnGroupCfg => [.mk 0 16 .rw true 2000 false]
  -- R236
  | .numOvfMode => [.mk 0 1 .rw true 0 false]
  -- R236
  | .numScaleCfg => [.mk 0 1 .rw true 0 false, .mk 1 3 .rw true 1 false, .mk 4 3 .rw true 4 false,
      .mk 7 3 .rw true 2 false, .mk 16 16 .rw true 1000 false]
  -- R236
  | .numStatus => [.mk 0 3 .ro true 2 false, .mk 16 16 .ro true 0 false]
  -- R265
  | .slvStructBase => [.mk 0 15 .rw true 0 false, .mk 16 5 .rw true 16 false]
  -- R265
  | .slvPivotCfg => [.mk 0 5 .rw true 20 false]
  -- R265
  | .slvStatus => [.mk 0 21 .ro true 0 false]
  -- R285
  | .memCapacity => [.mk 0 10 .ro false 0 true, .mk 10 9 .ro false 0 true]
  -- R285
  | .memStackStatus => [.mk 0 1 .ro false 0 true, .mk 1 1 .ro false 0 true, .mk 2 1 .ro false 0 false,
      .mk 3 2 .ro false 0 false, .mk 5 3 .ro true 0 false, .mk 8 8 .ro false 0 false, .mk 16 8 .ro false 0 true]
  -- R285
  | .memChanMap => [.mk 0 32 .ro false 0 true]
  -- R285
  | .memChanFail => [.mk 0 32 .ro false 0 true]
  -- R285
  | .memChanForce => [.mk 0 32 .rw true 0 true]
  -- R285
  | .memRefreshPolicy => [.mk 0 1 .rw true 0 false, .mk 1 7 .rw true 85 false, .mk 8 7 .rw true 95 false,
      .mk 15 7 .rw true 105 false, .mk 22 3 .rw true 2 false, .mk 25 2 .rw true 2 false]
  -- R285
  | .memErrCfg => [.mk 0 8 .rw true 4 false, .mk 8 8 .rw true 60 false]
  -- R285
  | .memErrCnt => [.mk 0 24 .ro false 0 false, .mk 24 8 .ro false 0 false]
  -- R285
  | .mem1500En => [.mk 0 1 .rw true 0 false]
  -- R285
  | .memBar2Base => [.mk 0 4 .rw false 0 false, .mk 4 15 .rw false 0 false]
  -- R313
  | .hifId => [.mk 0 16 .ro false 0 true, .mk 16 4 .ro false 0 true]
  -- R313
  | .hifPortCfg => [.mk 0 1 .ro false 0 true, .mk 1 3 .ro false 0 false, .mk 4 5 .ro false 0 false,
      .mk 9 1 .rw true 0 false]
  -- R313
  | .hifDoorbellBase => [.mk 0 1 .rw false 0 false, .mk 12 52 .rw false 0 false]
  -- R313
  | .hifPollCfg => [.mk 0 1 .rw true 0 false, .mk 1 10 .rw true 50 false, .mk 11 10 .rw true 10 false,
      .mk 21 10 .rw true 1000 false]
  -- R313
  | .hifEvtRing => [.mk 0 5 .rw false 0 false, .mk 5 1 .rw false 0 false, .mk 12 52 .rw false 0 false]
  -- R313
  | .hifEvtStatus => [.mk 0 16 .ro false 0 false, .mk 16 8 .ro false 0 false, .mk 24 1 .ro false 0 false]
  -- R331
  | .ctxTableBase => [.mk 0 15 .ro true 0 false]
  -- R331
  | .ctxPartMap => [.mk 0 8 .ro false 0 false, .mk 8 8 .ro false 0 false, .mk 16 3 .ro false 0 false]
  -- R331
  | .ctxSliceMap => [.mk 0 32 .ro false 0 false]
  -- R331
  | .ctxState => [.mk 0 2 .ro false 0 false, .mk 2 2 .ro false 0 false, .mk 4 1 .ro false 0 false,
      .mk 5 1 .ro false 0 false]
  -- R331
  | .ctxPrio => [.mk 0 2 .rw true 2 false]
  -- R331
  | .ctxWeirCfg => [.mk 0 16 .rw true 0 false, .mk 16 16 .rw true 16 false]
  -- R331
  | .ctxWeirBounds => [.mk 0 16 .rw true 1 false, .mk 16 16 .rw true 65535 false]
  -- R331
  | .ctxWeirEff => [.mk 0 16 .ro false 0 false]
  -- R331
  | .ctxPolicy => [.mk 0 1 .rw true 0 false, .mk 1 1 .rw true 0 false, .mk 8 8 .rw true 100 false]
  -- R351
  | .colCfg => [.mk 0 1 .rw true 0 false, .mk 1 6 .rw true 0 false, .mk 7 7 .rw true 0 false,
      .mk 14 1 .rw true 0 false, .mk 15 4 .rw true 0 false, .mk 19 13 .rw true 500 false]
  -- R351
  | .colTopoTable => [.mk 0 1 .rw true 0 false, .mk 1 2 .rw true 0 false, .mk 16 16 .rw true 0 false,
      .mk 44 52 .rw true 0 false]
  -- R351
  | .colCutTable => [.mk 0 64 .rw true 0 false]
  -- R351
  | .colStatus => [.mk 0 5 .ro true 0 false, .mk 5 1 .ro true 0 false, .mk 32 32 .w1c true 0 false,
      .mk 64 32 .w1c true 0 false]
  -- R361
  | .cadCfg => [.mk 0 1 .rw true 0 false, .mk 1 4 .rw true 6 false, .mk 5 3 .rw true 4 false,
      .mk 8 8 .rw true 10 false]
  -- R361
  | .cadPeriod => [.mk 0 36 .ro false 0 false, .mk 38 26 .rw true 100000 false]
  -- R361
  | .cadAnchor => [.mk 0 48 .rw true 0 false, .mk 48 1 .rw true 0 false, .mk 49 1 .rw true 0 false,
      .mk 50 1 .rw true 0 false]
  -- R361
  | .cadStatus => [.mk 0 1 .ro false 0 false, .mk 1 1 .ro false 0 false, .mk 2 1 .ro false 0 false,
      .mk 3 1 .ro false 0 false, .mk 4 1 .ro false 0 false, .mk 8 8 .ro false 0 false, .mk 16 16 .ro false 0 false]
  -- R361
  | .cadFrame => [.mk 0 16 .ro false 0 false, .mk 16 48 .ro false 0 false]
  -- R361
  | .cadJitter => [.mk 0 16 .ro false 0 false, .mk 16 16 .w1c false 0 false]
  -- R361
  | .cadPps => [.mk 0 32 .ro false 0 false]
  -- R382
  | .pmcEvselGlobal => [.mk 0 10 .rw true 0 false, .mk 10 2 .rw true 0 false, .mk 12 12 .rw true 0 false,
      .mk 24 1 .rw true 0 false, .mk 25 1 .rw true 0 false, .mk 26 1 .rw true 0 false, .mk 32 8 .rw true 0 false]
  -- R382
  | .pmcEvselSector => [.mk 0 10 .rw false 0 false, .mk 10 2 .rw false 0 false, .mk 12 12 .rw false 0 false,
      .mk 24 1 .rw false 0 false, .mk 25 1 .rw false 0 false, .mk 26 1 .rw false 0 false, .mk 32 8 .rw false 0 false]
  -- R382
  | .pmcEvselArray => [.mk 0 10 .rw false 0 false, .mk 10 2 .rw false 0 false, .mk 12 12 .rw false 0 false,
      .mk 24 1 .rw false 0 false, .mk 25 1 .rw false 0 false, .mk 26 1 .rw false 0 false, .mk 32 8 .rw false 0 false]
  -- R382
  | .pmcCtrGlobal => [.mk 0 48 .rw true 0 false]
  -- R382
  | .pmcCtrSector => [.mk 0 48 .rw false 0 false]
  -- R382
  | .pmcCtrArray => [.mk 0 48 .rw false 0 false]
  -- R382
  | .pmcMarkGlobal => [.mk 0 32 .rw true 0 false]
  -- R382
  | .pmcMarkSector => [.mk 0 32 .rw true 0 false]
  -- R382
  | .pmcMarkArray => [.mk 0 32 .rw false 0 false]
  -- R382
  | .pmcOvfGlobal => [.mk 0 64 .w1c true 0 false]
  -- R382
  | .pmcOvfSector => [.mk 0 16 .w1c false 0 false]
  -- R382
  | .pmcOvfArray => [.mk 0 8 .w1c false 0 false]
  -- R382
  | .pmcCtl => [.mk 0 3 .rw true 0 false, .mk 3 3 .wo true 0 false]
  -- R382
  | .pmcBwCfg => [.mk 0 1 .rw true 0 false, .mk 1 16 .rw true 1000 false]
  -- R382
  | .pmcBw => [.mk 0 32 .ro true 0 false, .mk 32 32 .ro true 0 false]
  -- R382
  | .dbgSampleCfg => [.mk 0 1 .rw true 0 false, .mk 1 1 .rw true 0 false, .mk 2 5 .rw true 0 false,
      .mk 8 8 .rw true 0 false]
  -- R382
  | .dbgSampleStatus => [.mk 0 11 .ro false 0 false, .mk 11 1 .ro false 0 false, .mk 16 16 .ro false 0 false]
  -- R382
  | .dbgTrig => [.mk 0 1 .rw false 0 false, .mk 1 1 .wo false 0 false, .mk 2 4 .rw false 0 false,
      .mk 8 16 .rw false 0 false, .mk 32 32 .rw false 0 false]
  -- R382
  | .dbgSluiceCfg => [.mk 0 1 .rw false 0 false, .mk 1 5 .rw false 0 false, .mk 6 1 .wo false 0 false,
      .mk 12 20 .rw false 0 false]
  -- R382
  | .dbgSluiceStatus => [.mk 0 20 .ro false 0 true, .mk 20 1 .ro false 0 true, .mk 21 1 .ro false 0 false,
      .mk 22 1 .ro false 0 false, .mk 23 1 .ro false 0 true, .mk 32 32 .ro false 0 true]
  -- R382
  | .dbgSluiceDump => [.mk 12 52 .rw false 0 false]
  -- R400
  | .pwrState => [.mk 0 3 .ro false 0 false, .mk 3 6 .ro false 0 false, .mk 9 12 .ro false 0 false]
  -- R400
  | .pwrBoot => [.mk 0 4 .ro false 0 false, .mk 4 4 .ro false 0 false, .mk 8 1 .wo true 0 false,
      .mk 9 1 .ro false 0 false]
  -- R400
  | .pwrLimit => [.mk 0 11 .rw true 0 false, .mk 16 8 .rw true 10 false]
  -- R400
  | .pwrStatus => [.mk 0 11 .ro false 0 false, .mk 11 8 .ro false 0 false, .mk 19 5 .ro false 0 false,
      .mk 24 1 .ro false 0 false, .mk 25 1 .ro false 0 false]
  -- R400
  | .pwrFallowCfg => [.mk 0 1 .rw true 0 false, .mk 1 16 .rw true 1000 false]
  -- R412
  | .rasLog => [.mk 0 4 .ro true 0 true, .mk 4 4 .ro true 0 true, .mk 8 8 .ro true 0 true, .mk 16 16 .ro true 0 true,
      .mk 32 32 .ro true 0 true, .mk 64 64 .ro true 0 true]
  -- R412
  | .rasLogCtl => [.mk 0 5 .ro true 0 true, .mk 5 1 .rws true 0 true, .mk 6 1 .wo true 0 false]
  -- R412
  | .rasCfgErr => [.mk 0 1 .w1c true 0 false, .mk 1 1 .ro true 0 false, .mk 6 24 .ro true 0 false]
  -- R412
  | .rasCorr => [.mk 0 24 .ro true 0 false, .mk 24 8 .ro true 0 false]
  -- R412
  | .rasGlobalCfg => [.mk 0 1 .rw true 0 false, .mk 1 7 .rw true 3 false, .mk 8 8 .rw true 24 false]
  -- R412
  | .pwrSpring => [.mk 0 2 .ro false 0 false, .mk 2 4 .ro false 0 false, .mk 6 4 .ro false 0 false]
  -- R426
  | .secAttest => [.mk 0 1 .rw true 1 false, .mk 1 1 .ro false 0 false, .mk 16 16 .ro false 0 false]
  -- R426
  | .secFwMeas => [.mk 0 256 .ro false 0 false]
  -- R426
  | .secFwVer => [.mk 0 32 .ro false 0 false, .mk 32 32 .ro false 0 false]
  -- R426
  | .secDevid => [.mk 0 64 .ro false 0 false]
  -- R426
  | .secStatus => [.mk 0 1 .ro false 0 false, .mk 1 1 .ro false 0 true]
  -- R453
  | .arrStatus => [.mk 0 2 .ro false 0 false, .mk 8 8 .ro false 0 false, .mk 16 1 .w1c false 0 false,
      .mk 17 1 .w1c false 0 false, .mk 18 1 .w1c false 0 false, .mk 19 1 .w1c false 0 false, .mk 20 1 .w1c false 0 false,
      .mk 21 1 .w1c false 0 false, .mk 22 1 .w1c false 0 false]
  -- R382
  | .pmcBwSeq => [.mk 0 32 .ro true 0 false]
  -- R382
  | .dbgSampleBuf => [.mk 0 32 .ro false 0 false]

/-- The part of a field that lies in 32-bit word w of a register held as words (R445). -/
def clipField (w : Nat) (f : RField) : Option RField :=
  let a := max f.lo (32 * w)
  let b := min (f.lo + f.width) (32 * w + 32)
  if a < b then some { f with lo := a - 32 * w, width := b - a, cold := 0 } else none

/-- Registers of more than 64 bits are sets of words (R445): the words of one instance, 0 for the others. -/
def regWords : Reg → Nat
  | .colTopoTable => 4
  | .colStatus => 3
  | .rasLog => 4
  | .secFwMeas => 8
  | _ => 0

/-- Fields of the instance or word with an index. Cut 0 of COL_CUT_TABLE is read-only (R351). -/
def fieldsAt (r : Reg) (idx : Nat) : List RField :=
  if r = .colCutTable ∧ idx = 0 then [.mk 0 64 .ro true 0 false]
  else if regWords r = 0 then regFields r
  else (regFields r).filterMap (clipField (idx % regWords r))

/-- Bits of a field in place. -/
def RField.mask (f : RField) : Nat := (2 ^ f.width - 1) * 2 ^ f.lo

/-- The bits of the fields that meet a condition. -/
def maskOf (fs : List RField) (p : RField → Bool) : Nat :=
  (fs.filter p).foldl (fun m f => m ||| f.mask) 0

/-- The value of a register after a cold reset. -/
def coldValue (r : Reg) (idx : Nat) : Nat :=
  (fieldsAt r idx).foldl (fun m f => m ||| f.cold * 2 ^ f.lo) 0

/-- Registers of which each port has a copy (R449). -/
def perPortReg : Reg → Bool
  | .hifPortCfg => true
  | .hifEvtStatus => true
  | .hifDoorbellBase => true
  | .hifEvtRing => true
  | .memBar2Base => true
  | .dbgTrig => true
  | .dbgSluiceCfg => true
  | .dbgSluiceStatus => true
  | .dbgSluiceDump => true
  | _ => false

/-- Whose copy of a register a port reaches. -/
def copyOf (r : Reg) (p : Port) : Port := if perPortReg r then p else .steward

/-- A row of the table BAR0 Registers: instance (i, j) at base + i · s1 + j · s2, its index i · n2 + j. -/
structure RegRow where
  reg : Reg
  base : Nat
  n1 : Nat := 1
  s1 : Nat := 0
  n2 : Nat := 1
  s2 : Nat := 0
  bytes : Nat := 4
  perPort : Bool := false
  deriving DecidableEq, Repr

/-- The table BAR0 Registers (R452), blocks HIF to NUM. -/
def regRowsA : List RegRow :=
  [ { reg := .hifId, base := 0x0 },
    { reg := .hifPortCfg, base := 0x4, perPort := true },
    { reg := .hifPollCfg, base := 0x8 },
    { reg := .hifEvtStatus, base := 0xC, perPort := true },
    { reg := .hifDoorbellBase, base := 0x10, bytes := 8, perPort := true },
    { reg := .hifEvtRing, base := 0x18, bytes := 8, perPort := true },
    { reg := .ctxTableBase, base := 0x100000 },
    { reg := .ctxPolicy, base := 0x100004 },
    { reg := .ctxPartMap, base := 0x100100, n2 := 48, s2 := 4 },
    { reg := .ctxSliceMap, base := 0x100200, n2 := 24, s2 := 4 },
    { reg := .ctxState, base := 0x100400, n2 := 256, s2 := 4 },
    { reg := .ctxPrio, base := 0x100800, n2 := 256, s2 := 4 },
    { reg := .ctxWeirCfg, base := 0x101000, n1 := 256, s1 := 16, n2 := 4, s2 := 4 },
    { reg := .ctxWeirBounds, base := 0x102000, n1 := 256, s1 := 16, n2 := 4, s2 := 4 },
    { reg := .ctxWeirEff, base := 0x103000, n1 := 256, s1 := 16, n2 := 4, s2 := 4 },
    { reg := .cadCfg, base := 0x200000 },
    { reg := .cadStatus, base := 0x200004 },
    { reg := .cadJitter, base := 0x200008 },
    { reg := .cadPps, base := 0x20000C },
    { reg := .cadPeriod, base := 0x200010, bytes := 8 },
    { reg := .cadAnchor, base := 0x200018, bytes := 8 },
    { reg := .cadFrame, base := 0x200020, bytes := 8 },
    { reg := .arrStatus, base := 0x300000, n2 := 96, s2 := 4 },
    { reg := .crvPolicy, base := 0x400000 },
    { reg := .crvTheta, base := 0x400004 },
    { reg := .crvThetaBounds, base := 0x400008 } ] ++
  [ { reg := .crvBudget, base := 0x40000C },
    { reg := .crvStatus, base := 0x400010 },
    { reg := .crvCredit, base := 0x400014 },
    { reg := .crvRootCfg, base := 0x400018 },
    { reg := .grnRecipe, base := 0x500000 },
    { reg := .grnNormBound, base := 0x500004 },
    { reg := .grnStatus, base := 0x500008, n2 := 12, s2 := 0x10000 },
    { reg := .txnShadowCfg, base := 0x600000 },
    { reg := .txnStatus, base := 0x600004 },
    { reg := .txnGroupCfg, base := 0x600008 },
    { reg := .slvStructBase, base := 0x700000 },
    { reg := .slvPivotCfg, base := 0x700004 },
    { reg := .slvStatus, base := 0x700008 },
    { reg := .memCapacity, base := 0x800000 },
    { reg := .memRefreshPolicy, base := 0x800004 },
    { reg := .memErrCfg, base := 0x800008 },
    { reg := .memStackStatus, base := 0x800010, n2 := 12, s2 := 0x10000 },
    { reg := .memChanMap, base := 0x800014, n2 := 12, s2 := 0x10000 },
    { reg := .memChanFail, base := 0x800018, n2 := 12, s2 := 0x10000 },
    { reg := .memChanForce, base := 0x80001C, n2 := 12, s2 := 0x10000 },
    { reg := .memErrCnt, base := 0x800020, n2 := 12, s2 := 0x10000 },
    { reg := .mem1500En, base := 0x800024, n2 := 12, s2 := 0x10000 },
    { reg := .memBar2Base, base := 0x800028, n2 := 12, s2 := 0x10000, perPort := true } ]

/-- The table BAR0 Registers (R452), blocks COL to SEC. -/
def regRowsB : List RegRow :=
  [ { reg := .colCfg, base := 0x900000 },
    { reg := .colStatus, base := 0x900008, n2 := 3, s2 := 4 },
    { reg := .colCutTable, base := 0x900100, n2 := 16, s2 := 8, bytes := 8 },
    { reg := .colTopoTable, base := 0x901000, n2 := 256, s2 := 4 },
    { reg := .numOvfMode, base := 0xA00000 },
    { reg := .numScaleCfg, base := 0xA00004 },
    { reg := .numStatus, base := 0xA00008 },
    { reg := .pmcCtl, base := 0xB00000 },
    { reg := .pmcBwCfg, base := 0xB00004 },
    { reg := .pmcBwSeq, base := 0xB00008 },
    { reg := .pmcMarkGlobal, base := 0xB0000C },
    { reg := .pmcOvfGlobal, base := 0xB00010, bytes := 8 },
    { reg := .pmcBw, base := 0xB00100, n2 := 20, s2 := 8, bytes := 8 },
    { reg := .pmcEvselGlobal, base := 0xB01000, n2 := 64, s2 := 16, bytes := 8 },
    { reg := .pmcCtrGlobal, base := 0xB01008, n2 := 64, s2 := 16, bytes := 8 },
    { reg := .pmcEvselSector, base := 0xB02000, n1 := 6, s1 := 0x400, n2 := 16, s2 := 16, bytes := 8 },
    { reg := .pmcCtrSector, base := 0xB02008, n1 := 6, s1 := 0x400, n2 := 16, s2 := 16, bytes := 8 },
    { reg := .pmcOvfSector, base := 0xB02100, n2 := 6, s2 := 0x400 },
    { reg := .pmcMarkSector, base := 0xB02104, n2 := 6, s2 := 0x400 },
    { reg := .pmcEvselArray, base := 0xB10000, n1 := 96, s1 := 0x100, n2 := 8, s2 := 16, bytes := 8 },
    { reg := .pmcCtrArray, base := 0xB10008, n1 := 96, s1 := 0x100, n2 := 8, s2 := 16, bytes := 8 },
    { reg := .pmcOvfArray, base := 0xB10080, n2 := 96, s2 := 0x100 },
    { reg := .pmcMarkArray, base := 0xB10084, n2 := 96, s2 := 0x100 } ] ++
  [ { reg := .dbgTrig, base := 0xC00000, bytes := 8, perPort := true },
    { reg := .dbgSluiceCfg, base := 0xC00008, perPort := true },
    { reg := .dbgSluiceStatus, base := 0xC00010, bytes := 8, perPort := true },
    { reg := .dbgSluiceDump, base := 0xC00018, bytes := 8, perPort := true },
    { reg := .dbgSampleCfg, base := 0xC00100, n2 := 6, s2 := 8 },
    { reg := .dbgSampleStatus, base := 0xC00104, n2 := 6, s2 := 8 },
    { reg := .dbgSampleBuf, base := 0xC10000, n1 := 6, s1 := 0x10000, n2 := 16384, s2 := 4 },
    { reg := .rasLogCtl, base := 0xD00000 },
    { reg := .rasCfgErr, base := 0xD00004 },
    { reg := .rasCorr, base := 0xD00008 },
    { reg := .rasGlobalCfg, base := 0xD0000C },
    { reg := .rasLog, base := 0xD00100, n2 := 128, s2 := 4 },
    { reg := .pwrState, base := 0xE00000 },
    { reg := .pwrBoot, base := 0xE00004 },
    { reg := .pwrLimit, base := 0xE00008 },
    { reg := .pwrStatus, base := 0xE0000C },
    { reg := .pwrFallowCfg, base := 0xE00010 },
    { reg := .pwrSpring, base := 0xE00014 },
    { reg := .secAttest, base := 0xF00000 },
    { reg := .secStatus, base := 0xF00004 },
    { reg := .secDevid, base := 0xF00008, bytes := 8 },
    { reg := .secFwVer, base := 0xF00010, bytes := 8 },
    { reg := .secFwMeas, base := 0xF00020, n2 := 8, s2 := 4 } ]

def regRows : List RegRow := regRowsA ++ regRowsB

/-- A register found at an offset: its row, its index, and which 32-bit word of it the offset names. -/
structure RegHit where
  row : RegRow
  idx : Nat
  word : Nat
  deriving DecidableEq, Repr

/-- Whether an offset lies in a row's instances. -/
def RegRow.hit (r : RegRow) (off : Nat) : Option RegHit :=
  if off < r.base then none else
  let d := off - r.base
  let i := if r.n1 ≤ 1 then 0 else d / r.s1
  let d1 := d - i * r.s1
  let j := if r.n2 ≤ 1 then 0 else d1 / r.s2
  let d2 := d1 - j * r.s2
  if i < r.n1 ∧ j < r.n2 ∧ d2 < r.bytes then
    some { row := r, idx := if r.reg = .memBar2Base then 0 else i * r.n2 + j, word := d2 / 4 }
  else none

/-- The register at a BAR0 offset; none where the table lists nothing (R443). -/
def regAt (off : Nat) : Option RegHit := regRows.findSome? fun r => r.hit off

/-- The offset of an instance, as RAS_CFG_ERR records it. -/
def regOffset (r : Reg) (idx : Nat) : Nat :=
  match regRows.find? fun x => x.reg = r with
  | some x => x.base + idx / x.n2 * x.s1 + idx % x.n2 * x.s2
  | none => 0

end Sys2Proof.Machine
end

