-- ==== Sys2Proof/Machine/Rng.lean ====
section
/-! DEFINITION. The counter generator (R101, R102). -/

namespace Sys2Proof.Machine

/-- One round of `mix` on the four counter words under two key words (R101). -/
def mixRound (k0 k1 : Word) (c : Word × Word × Word × Word) : Word × Word × Word × Word :=
  let p0 := 0xC8A35A1B * c.1.toNat
  let p1 := 0xE4F173AD * c.2.2.1.toNat
  (BitVec.ofNat 32 (p1 / 2 ^ 32) ^^^ c.2.1 ^^^ k0, BitVec.ofNat 32 p1,
    BitVec.ofNat 32 (p0 / 2 ^ 32) ^^^ c.2.2.2 ^^^ k1, BitVec.ofNat 32 p0)

/-- `n` rounds, the key words advancing after each. -/
def mixRounds : Nat → Word → Word → Word × Word × Word × Word → Word × Word × Word × Word
  | 0, _, _, c => c
  | n + 1, k0, k1, c => mixRounds n (k0 + 0x9E3779B9) (k1 + 0xBB67AE85) (mixRound k0 k1 c)

/-- The generator function of R101: ten rounds. -/
def mix (seed : DWord) (c0 c1 c2 c3 : Word) : Word × Word × Word × Word :=
  mixRounds 10 (seed.setWidth 32) ((seed >>> 32).setWidth 32) (c0, c1, c2, c3)

/-- The 16-bit draw at a position for a stream and a step (R102). -/
def draw (seed : DWord) (stream step pos : Nat) : Nat :=
  let q := pos / 8
  let j := pos % 8
  let r := mix seed (BitVec.ofNat 32 q) (BitVec.ofNat 32 (q / 2 ^ 32 % 2 ^ 13)) (BitVec.ofNat 32 step)
    (BitVec.ofNat 32 (step / 2 ^ 32 % 256 + stream * 256))
  let w := match j / 2 with | 0 => r.1 | 1 => r.2.1 | 2 => r.2.2.1 | _ => r.2.2.2
  w.toNat / 2 ^ (16 * (j % 2)) % 65536

end Sys2Proof.Machine
end

