-- ==== Sys2Proof/Machine/Sha3.lean ====
section
/-! DEFINITION. SHA3-256 (R105, R416, R421). The manual names the standard's function and does not restate it: this
is the function of FIPS 202, taken from outside the manual (PRESUMED, log entry 8). -/

namespace Sys2Proof.Machine

/-- Rotation offsets of the 25 lanes, lane x + 5 y. -/
def keccakRot : List Nat :=
  [0, 1, 62, 28, 27, 36, 44, 6, 55, 20, 3, 10, 43, 25, 39, 41, 45, 15, 21, 8, 18, 2, 61, 56, 14]

def keccakRc : List DWord :=
  [0x1, 0x8082, 0x800000000000808A, 0x8000000080008000, 0x808B, 0x80000001, 0x8000000080008081,
   0x8000000000008009, 0x8A, 0x88, 0x80008009, 0x8000000A] ++
  [0x8000808B, 0x800000000000008B, 0x8000000000008089, 0x8000000000008003, 0x8000000000008002,
   0x8000000000000080, 0x800A, 0x800000008000000A, 0x8000000080008081, 0x8000000000008080, 0x80000001,
   0x8000000080008008]

/-- One round over 25 lanes. -/
def keccakRound (a : List DWord) (rc : DWord) : List DWord :=
  let c := (List.range 5).map fun x =>
    a.getD x 0 ^^^ a.getD (x + 5) 0 ^^^ a.getD (x + 10) 0 ^^^ a.getD (x + 15) 0 ^^^ a.getD (x + 20) 0
  let d := (List.range 5).map fun x => c.getD ((x + 4) % 5) 0 ^^^ (c.getD ((x + 1) % 5) 0).rotateLeft 1
  let t := (List.range 25).map fun i => a.getD i 0 ^^^ d.getD (i % 5) 0
  -- lane (x, y) of b comes from lane (x', y') with y = x' rotated: b[y, 2x+3y] = rot(t[x, y])
  let b := (List.range 25).map fun i =>
    let y' := i / 5
    let x' := i % 5
    -- x' = y and y' = 2x + 3y, so y = x' and x = 3 (y' - 3 x') mod 5
    let y := x'
    let x := (3 * (y' + 2 * x')) % 5
    (t.getD (x + 5 * y) 0).rotateLeft (keccakRot.getD (x + 5 * y) 0)
  (List.range 25).map fun i =>
    let y := i / 5
    let x := i % 5
    let v := b.getD i 0 ^^^ (~~~(b.getD ((x + 1) % 5 + 5 * y) 0) &&& b.getD ((x + 2) % 5 + 5 * y) 0)
    if i = 0 then v ^^^ rc else v

def keccakF (a : List DWord) : List DWord := keccakRc.foldl keccakRound a

/-- Absorbs a block of 136 bytes. -/
def keccakAbsorb (a : List DWord) (block : List Byte) : List DWord :=
  keccakF ((List.range 25).map fun i =>
    if i < 17 then a.getD i 0 ^^^ BitVec.ofNat 64 (leNat (sliceBytes block (8 * i) 8)) else a.getD i 0)

/-- Padding of SHA3: 01 then 10*1 to a multiple of 136 bytes. -/
def sha3Pad (bs : List Byte) : List Byte :=
  let n := 136 - bs.length % 136
  if n = 1 then bs ++ [0x86] else bs ++ [0x06] ++ List.replicate (n - 2) 0 ++ [0x80]

/-- SHA3-256: 32 bytes. -/
def sha3Bytes (bs : List Byte) : List Byte :=
  let p := sha3Pad bs
  let a := (List.range (p.length / 136)).foldl
    (fun a i => keccakAbsorb a (sliceBytes p (136 * i) 136)) (List.replicate 25 0)
  (a.take 4).flatMap fun l => leBytes 8 l.toNat

/-- The digest as a number, byte 0 lowest. -/
def sha3 (bs : List Byte) : BitVec 256 := BitVec.ofNat 256 (leNat (sha3Bytes bs))

end Sys2Proof.Machine
end

