-- ==== Sys2Proof/Machine/Ops.lean ====
section
/-! DEFINITION. The named operations over tables, memories, registers and the parts of the state. -/

namespace Sys2Proof

/-! ### Bits of words, descriptors and ports -/

/-- Field [lo + n − 1 : lo] of a number. -/
def bitsOf (v lo n : Nat) : Nat := v / 2 ^ lo % 2 ^ n

def Desc.words (d : Desc) : List Word :=
  [d.w0, d.w1, d.w2, d.w3, d.w4, d.w5, d.w6, d.w7, d.w8, d.w9, d.w10, d.w11, d.w12, d.w13, d.w14, d.w15]

/-- Word n of a descriptor as a number. -/
def Desc.w (d : Desc) (n : Nat) : Nat := (d.words.getD n 0).toNat

/-- Words n and n + 1 as one 64-bit number. -/
def Desc.w64 (d : Desc) (n : Nat) : Nat := d.w n + 2 ^ 32 * d.w (n + 1)

/-- Field of word n. -/
def Desc.f (d : Desc) (n lo k : Nat) : Nat := bitsOf (d.w n) lo k

def Desc.opcode (d : Desc) : Nat := d.f 0 0 8
def Desc.fence (d : Desc) : Bool := d.f 0 8 1 == 1
def Desc.notify (d : Desc) : Bool := d.f 0 9 1 == 1
def Desc.inTxn (d : Desc) : Bool := d.f 0 10 1 == 1
def Desc.marked (d : Desc) : Bool := d.f 0 11 1 == 1
def Desc.chain (d : Desc) : Bool := d.f 0 12 1 == 1
def Desc.tag (d : Desc) : Nat := d.f 0 16 16
def Desc.seq (d : Desc) : Word := d.w1

/-- A descriptor from its words. -/
def Desc.ofWords (ws : List Word) : Desc :=
  { w0 := ws.getD 0 0, w1 := ws.getD 1 0, w2 := ws.getD 2 0, w3 := ws.getD 3 0, w4 := ws.getD 4 0,
    w5 := ws.getD 5 0, w6 := ws.getD 6 0, w7 := ws.getD 7 0, w8 := ws.getD 8 0, w9 := ws.getD 9 0,
    w10 := ws.getD 10 0, w11 := ws.getD 11 0, w12 := ws.getD 12 0, w13 := ws.getD 13 0,
    w14 := ws.getD 14 0, w15 := ws.getD 15 0 }

def Desc.ofBytes (bs : List Byte) : Desc := Desc.ofWords ((List.range 16).map fun i => Machine.leWord bs (4 * i))

/-- The port opposite. -/
def Port.other : Port → Port
  | .steward => .tenant
  | .tenant => .steward

def Port.code : Port → Nat
  | .steward => 0
  | .tenant => 1

end Sys2Proof

namespace Sys2Proof.Machine

/-! ### Tables sorted by key -/

def tget {α : Type} : Table α → Nat → Option α
  | [], _ => none
  | (k, v) :: t, n => if k = n then some v else tget t n

def tset {α : Type} : Table α → Nat → α → Table α
  | [], n, x => [(n, x)]
  | (k, v) :: t, n, x =>
    if n < k then (n, x) :: (k, v) :: t else if k = n then (n, x) :: t else (k, v) :: tset t n x

def tdel {α : Type} (t : Table α) (n : Nat) : Table α := t.filter fun p => p.1 != n

/-- Entry or a default. -/
def tgetD {α : Type} (t : Table α) (n : Nat) (d : α) : α := (tget t n).getD d

/-- Changes an entry that exists. -/
def tmod {α : Type} (t : Table α) (n : Nat) (f : α → α) : Table α :=
  match tget t n with
  | some v => tset t n (f v)
  | none => t

/-- Adds to a count. -/
def tadd (t : Table Nat) (n k : Nat) : Table Nat := tset t n (tgetD t n 0 + k)

/-! ### Memories in canonical form: addresses rising, no zero byte listed -/

/-- What an unlisted address reads as (log entry 6). -/
def unlisted : Byte := 0

def memRead : Memory → Nat → Byte
  | [], _ => unlisted
  | (k, b) :: t, a => if k = a then b else memRead t a

def memWrite : Memory → Nat → Byte → Memory
  | [], a, b => if b = unlisted then [] else [(a, b)]
  | (k, c) :: t, a, b =>
    if a < k then if b = unlisted then (k, c) :: t else (a, b) :: (k, c) :: t
    else if k = a then if b = unlisted then t else (a, b) :: t
    else (k, c) :: memWrite t a b

/-- The addresses a list rises through, each above the one before, no entry equal to the unlisted byte. -/
def memWfFrom : Nat → Memory → Bool
  | _, [] => true
  | n, (k, b) :: t => decide (n ≤ k) && b != unlisted && memWfFrom (k + 1) t

/-- The canonical form of a memory. -/
def Memory.wf (m : Memory) : Bool := memWfFrom 0 m

/-- n bytes from an address up. -/
def memBytes (m : Memory) (a n : Nat) : List Byte := (List.range n).map fun i => memRead m (a + i)

/-- Bytes written from an address up. -/
def memPut : Memory → Nat → List Byte → Memory
  | m, _, [] => m
  | m, a, b :: bs => memPut (memWrite m a b) (a + 1) bs

def memWord (m : Memory) (a : Nat) : Word := BitVec.ofNat 32 (leNat (memBytes m a 4))

/-- A memory without the addresses of a range. -/
def memErase (m : Memory) (a n : Nat) : Memory := m.filter fun c => decide (c.1 < a) || decide (a + n ≤ c.1)

/-! ### Array stores (R63) -/

/-- Bytes of an array store: 1.5 MiB in lines of 64 bytes (R12, R82). -/
def storeLines : Nat := 24576

/-- What an unlisted byte of a store reads as: zero, or a byte of its undefined filling. -/
def Store.base (st : Store) (a : Nat) : Byte :=
  match st.undef with
  | none => 0
  | some n => Config.freeByte n a

def storeRead (st : Store) (a : Nat) : Byte := memRead st.cells a ^^^ st.base a

def storeWrite (st : Store) (a : Nat) (b : Byte) : Store := { st with cells := memWrite st.cells a (b ^^^ st.base a) }

def storeBytes (st : Store) (a n : Nat) : List Byte := (List.range n).map fun i => storeRead st (a + i)

def storePut : Store → Nat → List Byte → Store
  | st, _, [] => st
  | st, a, b :: bs => storePut (storeWrite st a b) (a + 1) bs

/-! ### Sequence numbers -/

/-- a comes before b in the order of SEQ (R293). -/
def seqBefore (a b : Word) : Bool :=
  let d := (b - a).toNat
  decide (1 ≤ d) && decide (d ≤ 2 ^ 31 - 1)

/-! ### Registers -/

/-- A register's stored value: the writable bits, and cold values where nothing was written. -/
def State.rawReg (s : State) (r : Reg) (idx : Nat) (p : Port) : Nat :=
  match s.regs.find? fun e => e.1 == { reg := r, idx := idx, port := p } with
  | some e => e.2.toNat
  | none => coldValue r idx

def regsPut (l : List (RegKey × DWord)) (k : RegKey) (v : DWord) : List (RegKey × DWord) :=
  (k, v) :: l.filter fun e => e.1 != k

def State.setReg (s : State) (r : Reg) (idx : Nat) (p : Port) (v : Nat) : State :=
  { s with regs := regsPut s.regs { reg := r, idx := idx, port := p } (BitVec.ofNat 64 v) }

/-- Field of a register held once. -/
def State.rf (s : State) (r : Reg) (lo n : Nat) : Nat := bitsOf (s.rawReg r 0 .steward) lo n

/-- Field of an instance. -/
def State.rfi (s : State) (r : Reg) (idx lo n : Nat) : Nat := bitsOf (s.rawReg r idx .steward) lo n

/-- Field of a port's copy. -/
def State.rfp (s : State) (r : Reg) (p : Port) (lo n : Nat) : Nat := bitsOf (s.rawReg r 0 p) lo n

/-- Replaces a field of a stored register. -/
def State.setField (s : State) (r : Reg) (idx : Nat) (p : Port) (lo n v : Nat) : State :=
  let old := s.rawReg r idx p
  s.setReg r idx p (old - bitsOf old lo n * 2 ^ lo + v % 2 ^ n * 2 ^ lo)

/-! ### Parts of the state -/

def State.portSt (s : State) : Port → PortState
  | .steward => s.steward
  | .tenant => s.tenant

def State.setPort (s : State) (p : Port) (x : PortState) : State :=
  match p with
  | .steward => { s with steward := x }
  | .tenant => { s with tenant := x }

def State.modPort (s : State) (p : Port) (f : PortState → PortState) : State := s.setPort p (f (s.portSt p))

def State.ctx? (s : State) (c : Nat) : Option Ctx := tget s.ctxs c
def State.ctxD (s : State) (c : Nat) : Ctx := tgetD s.ctxs c {}
def State.modCtx (s : State) (c : Nat) (f : Ctx → Ctx) : State := { s with ctxs := tmod s.ctxs c f }

def State.arr (s : State) (a : Nat) : Arr := tgetD s.arrays a {}
def State.setArr (s : State) (a : Nat) (x : Arr) : State := { s with arrays := tset s.arrays a x }
def State.modArr (s : State) (a : Nat) (f : Arr → Arr) : State := s.setArr a (f (s.arr a))

def State.pair (s : State) (p : Nat) : TwinPair := tgetD s.pairs p {}
def State.modPair (s : State) (p : Nat) (f : TwinPair → TwinPair) : State :=
  { s with pairs := tset s.pairs p (f (s.pair p)) }

def State.site (s : State) (n : Nat) : Stack := tgetD s.sites n {}
def State.modSite (s : State) (n : Nat) (f : Stack → Stack) : State :=
  { s with sites := tset s.sites n (f (s.site n)) }

def State.granary (s : State) (n : Nat) : Granary := tgetD s.granaries n {}
def State.modGranary (s : State) (n : Nat) (f : Granary → Granary) : State :=
  { s with granaries := tset s.granaries n (f (s.granary n)) }

def State.slice (s : State) (n : Nat) : Memory := tgetD s.slices n []
def State.setSlice (s : State) (n : Nat) (m : Memory) : State := { s with slices := tset s.slices n m }

def State.modObj (s : State) (o : Nat) (f : Obj → Obj) : State := { s with objects := tmod s.objects o f }

/-- Key of a statistic: object and side. -/
def statKey (obj side : Nat) : Nat := 2 * obj + side

def State.modStat (s : State) (k : Nat) (f : Stat → Stat) : State := { s with stats := tmod s.stats k f }
def State.modBlock (s : State) (b : Nat) (f : Block → Block) : State := { s with blocks := tmod s.blocks b f }

/-- A number the manual leaves open, and the state with the free-value counter advanced (log entry 5). -/
def State.fresh (s : State) : Nat × State := (s.free, { s with free := s.free + 1 })

/-- Key of a solver problem: problems are numbered by context (R242). -/
def probKey (c n : Nat) : Nat := 16384 * c + n

/-! ### Host memories -/

def State.hostMem (s : State) : Port → Memory
  | .steward => s.hostA
  | .tenant => s.hostB

def State.setHost (s : State) (p : Port) (m : Memory) : State :=
  match p with
  | .steward => { s with hostA := m }
  | .tenant => { s with hostB := m }

/-- Whether the device may fetch and answer on a port: its link is up, the port is out of reset, and with IDE_REQ its
link stream is established (R289, R313, R423). -/
def State.portOpen (s : State) (p : Port) : Bool :=
  (s.portSt p).linkUp && (s.rfp .hifPortCfg p 9 1 == 0 || (s.portSt p).ide)

/-- A host write: it waits while the link is down (R289). -/
def State.hostWrite (s : State) (p : Port) (a : Nat) (bs : List Byte) : State :=
  if s.portOpen p then s.setHost p (memPut (s.hostMem p) a bs)
  else s.modPort p fun x => { x with hostWait := x.hostWait ++ [(a, bs)] }

/-- An interval of HIF_POLL_CFG, in 10 ns, in the unit of Ctx.interval: halvings of it stay exact (R296). -/
def pollUnits (n : Nat) : Nat := 64 * n

/-- An interval in whole ns, as HIF_POLL tells it (log entry 102). -/
def pollNs (v : Nat) : Nat := 10 * v / 64

/-- A host write of a context, which is held from then on where the write waits (R289, log entry 102). -/
def State.ctxWrite (s : State) (c : Nat) (p : Port) (a : Nat) (bs : List Byte) : State :=
  if s.portOpen p then s.hostWrite p a bs else (s.hostWrite p a bs).modCtx c fun x => { x with hostHeld := true }

def State.hostRead (s : State) (p : Port) (a n : Nat) : List Byte := memBytes (s.hostMem p) a n

/-! ### HBM: one byte address per stack, in page-number order (R267) -/

def stackSize : Nat := 2 ^ 36
def pageSize : Nat := 2 ^ 21
def pagesPerStack : Nat := 32768

def hbmAddr (stack page off : Nat) : Nat := stack * stackSize + page * pageSize + off

def State.hbmPut (s : State) (a : Nat) (bs : List Byte) : State := { s with hbm := memPut s.hbm a bs }

/-! ### Frame stamps (R353) -/

def cyclesPerUs : Nat := 1050

/-- The cycle since which a condition holds: that of before while it goes on, none where it does not hold. -/
def sinceWhen (holds : Bool) (was : Option Nat) (now : Nat) : Option Nat :=
  if holds then some (was.getD now) else none

/-- Whether what holds since a cycle has held for so many cycles. -/
def State.lastedFor (s : State) (since : Option Nat) (cycles : Nat) : Bool :=
  match since with
  | some t => decide (t + cycles ≤ s.now)
  | none => false

/-- Cycles since the current boundary, and the phase they give. -/
def phaseAt (now boundary latched : Nat) : Nat :=
  if latched = 0 then 0 else min (65536 * ((8 * now - boundary) / 8) / latched) 65535

def State.phase (s : State) : Nat := phaseAt s.now s.cad.boundary s.cad.latched

/-- The frame stamp: frame number and phase. -/
def State.stamp (s : State) : Nat := s.cad.frame.toNat * 65536 + s.phase

/-- The low word of the stamp. -/
def State.stamp32 (s : State) : Word := BitVec.ofNat 32 s.stamp

def stampWords (n : Nat) : List Word := [BitVec.ofNat 32 n, BitVec.ofNat 32 (n / 2 ^ 32)]

/-! ### Performance events (R366) -/

/-- A value presented to the counters in the current cycle. -/
def State.pulse (s : State) (event unit value ctx : Nat) (marker : Word) : State :=
  if value = 0 then s
  else { s with pulses := { event := event, unit := unit, value := value, ctx := ctx, marker := marker } :: s.pulses }

/-! ### Variant and populated stacks (R1, R273) -/

/-- The TG7384 leaves the odd stack sites empty. -/
def State.isSmall (s : State) : Bool := s.boot.variant == some true

def State.populated (s : State) (n : Nat) : Bool := decide (n < 12) && (s.site n).present

def State.stackList (s : State) : List Nat := (List.range 12).filter s.populated

/-- Working channels of a stack: present and not mapped out (R267). -/
def State.chanOk (s : State) (stack ch : Nat) : Bool :=
  decide (ch < 32) && s.populated stack && !(s.site stack).out.getLsbD ch

def State.workingChans (s : State) (stack : Nat) : List Nat := (List.range 32).filter (s.chanOk stack)

/-- Management pages whose place is fixed: the firmware image, its duplicate, the tables, the sluice rings (R455). -/
def State.isFixedPage (s : State) (stack page : Nat) : Bool :=
  (stack == 0 && decide (page < 48)) ||
  (stack == 1 && !s.isSmall && decide (page < 8)) ||
  (stack == 0 && s.isSmall && decide (1024 ≤ page) && decide (page < 1032))

/-- Management pages: those of fixed place, the structure table's start-up place, and its place now (R265, R455). -/
def State.isMgmtPage (s : State) (stack page : Nat) : Bool :=
  let base := s.rf .slvStructBase 0 15
  let n := s.rf .slvStructBase 16 5
  s.isFixedPage stack page ||
  (stack == 0 && decide (s.boot.structHome.1 ≤ page) && decide (page < s.boot.structHome.1 + s.boot.structHome.2)) ||
  (stack == 0 && decide (base ≤ page) && decide (page < base + n))

/-- Near stacks of a sector (R14). -/
def State.nearStacks (s : State) (sector : Nat) : List Nat :=
  [2 * sector, 2 * sector + 1].filter s.populated

/-- Whether a granary still works on a fold of the object. -/
def State.foldsWaiting (s : State) (obj : Nat) : Bool :=
  s.granaries.any fun e => e.2.items.any fun i => match i.work with
    | .fold k _ => k == obj
    | _ => false

/-- Whether a granary still works on a norm pass. -/
def State.normsWaiting (s : State) : Bool :=
  s.granaries.any fun e => e.2.items.any fun i => match i.work with
    | .normPass _ => true
    | _ => false

end Sys2Proof.Machine
end

