-- ==== Sys2Proof/Machine/Events.lean ====
section
/-! DEFINITION. What the device records and reports: sluice records (R377–R380), events and ATTN (R297–R300),
completions (R295, R310), the error log (R411, R412) and refused writes (R7, R412). -/

namespace Sys2Proof.Machine

/-! ### Status and detail codes (R311, R312) -/

def stDone : Nat := 0x00
def stDoneEmpty : Nat := 0x01
def stAbortedTxn : Nat := 0x10
def stAbortedNorm : Nat := 0x11
def stAuthority : Nat := 0x20
def stFormat : Nat := 0x21
def stLimit : Nat := 0x22
def stTornDown : Nat := 0x30
def stUncorrectable : Nat := 0x31
def stRangeSaturated : Nat := 0x32
def stSuspended : Nat := 0x40

/-! ### The sluice -/

/-- Enabling bit of DBG_SLUICE_CFG.SRC for a record kind (R378); TRIGGER and LOST records have none. -/
def sluiceSrcBit (kind : Nat) : Option Nat :=
  match kind with
  | 1 => some 0
  | 2 => some 1
  | 3 => some 1
  | 4 => some 2
  | 5 => some 3
  | 7 => some 4
  | _ => none

/-- Whether a context belongs to a port; the device itself belongs to none. -/
def State.ctxOnPort (s : State) (c : Nat) (p : Port) : Bool :=
  match s.ctx? c with
  | some x => x.port == p
  | none => false

/-- Whether a port's sluice records now: enabled and not frozen (R379). -/
def State.sluiceOn (s : State) (p : Port) : Bool :=
  s.rfp .dbgSluiceCfg p 0 1 == 1 && !(s.portSt p).frozen

/-- A record enters the queue of a port's sluice, or is lost when 256 wait (R380). -/
def State.sluiceEnqueue (s : State) (p : Port) (r : List Word) : State :=
  let x := s.portSt p
  if x.sluiceQueue.length < 256 then s.setPort p { x with sluiceQueue := x.sluiceQueue ++ [r] }
  else
    (s.setPort p { x with sluiceLost := min (x.sluiceLost + 1) 0xFFFFFFFF, lostSince := x.lostSince + 1 }).pulse
      0x24A 0 1 0 0

/-- The eight words of a record (R377). -/
def State.sluiceRecord (s : State) (kind ctx src : Nat) (marker : Word) (payload : List Word) : List Word :=
  [BitVec.ofNat 32 (kind + 256 * ctx + 65536 * src), marker] ++ stampWords s.stamp ++
    [BitVec.ofNat 32 s.now, payload.getD 0 0, payload.getD 1 0, payload.getD 2 0]

/-- A record offered to one port's sluice. -/
def State.sluiceTo (s : State) (p : Port) (kind ctx src : Nat) (marker : Word) (payload : List Word) : State :=
  let mine := p == .steward || s.ctxOnPort ctx p
  let wanted := match sluiceSrcBit kind with
    | some b => s.rfp .dbgSluiceCfg p (1 + b) 1 == 1
    | none => true
  if s.sluiceOn p && mine && wanted then s.sluiceEnqueue p (s.sluiceRecord kind ctx src marker payload) else s

/-- A record offered to both sluices. -/
def State.sluice (s : State) (kind ctx src : Nat) (marker : Word) (payload : List Word) : State :=
  (s.sluiceTo .steward kind ctx src marker payload).sluiceTo .tenant kind ctx src marker payload

/-- A trigger condition met on a port: bit 1 FORCE, 2 marker, 3 event, 4 failing completion, 5 counter overflow (R379). One
met while the records after a trigger are counted starts nothing anew. The count starts with the TRIGGER record, or at once
where that record is lost (log entry 105). -/
def State.trigger (s : State) (p : Port) (bit : Nat) : State :=
  let armed := s.rfp .dbgTrig p 0 1 == 1
  let enabled := bit == 1 || s.rfp .dbgTrig p bit 1 == 1
  if !enabled then s
  else if (s.portSt p).triggered && s.sluiceOn p then s.sluiceEnqueue p (s.sluiceRecord 6 0 0x200 0 [BitVec.ofNat 32 bit, 0])
  else if armed then
    let s := (s.setField .dbgTrig 0 p 0 1 0).modPort p fun x => { x with triggered := true }
    if s.sluiceOn p then
      let full := decide (256 ≤ (s.portSt p).sluiceQueue.length)
      let s := s.sluiceEnqueue p (s.sluiceRecord 6 0 0x200 0 [BitVec.ofNat 32 bit, 1])
      if full then s.modPort p fun x => { x with post := some (s.rfp .dbgSluiceCfg p 12 20) } else s
    else s
  else s

/-- A port's trigger, for a context's happening: the tenant port sees only its own contexts. -/
def State.triggerFor (s : State) (p : Port) (ctx bit : Nat) : State :=
  if p == .steward || s.ctxOnPort ctx p then s.trigger p bit else s

/-- A MARK, from an instruction or a descriptor: trigger and, with TRC, a record (R363, R379). -/
def State.markRecord (s : State) (ctx src : Nat) (id : Word) (trc : Bool) (where_ : Word) : State :=
  let hit (s : State) (p : Port) := if s.rfp .dbgTrig p 32 32 == id.toNat then s.triggerFor p ctx 2 else s
  let s := if trc then s.sluice 1 ctx src id [where_] else s
  hit (hit s .steward) .tenant

/-- First byte in stack 0 of a port's sluice ring (R455). -/
def sluiceBase : Port → Nat
  | .steward => hbmAddr 0 16 0
  | .tenant => hbmAddr 0 32 0

/-- Writes one record into the ring; the record of the trigger starts the post-trigger count, which runs down and stops the
recording (R379). -/
def State.sluiceStore (s : State) (p : Port) (r : List Word) : State :=
  let x := s.portSt p
  let s := s.hbmPut (sluiceBase p + 32 * x.sluiceWptr) (r.flatMap fun w => leBytes 4 w.toNat)
  let isTrig := (r.getD 0 0).toNat % 256 == 6 && r.getD 6 0 == 1
  let post := if isTrig then some (s.rfp .dbgSluiceCfg p 12 20) else x.post.map (· - 1)
  let w := (x.sluiceWptr + 1) % 1048576
  s.setPort p { x with sluiceWptr := w, wrapped := x.wrapped || x.ringFull,
                       ringFull := x.ringFull || w == 0, post := post,
                       frozen := x.frozen || post == some 0 }

/-- One cycle of a sluice: one record leaves the queue, a LOST record first after a loss (R380). -/
def State.sluiceTick (s : State) (p : Port) : State :=
  let x := s.portSt p
  if x.frozen then s
  else if 0 < x.lostSince then
    (s.setPort p { x with lostSince := 0 }).sluiceStore p (s.sluiceRecord 8 0 0x200 0 [BitVec.ofNat 32 x.lostSince])
  else match x.sluiceQueue with
    | [] => s
    | r :: rest => (s.setPort p { x with sluiceQueue := rest }).sluiceStore p r

/-! ### Events and ATTN -/

/-- Number of entries of a port's event ring; none while it is not enabled (R298). -/
def State.evtSize (s : State) (p : Port) : Option Nat :=
  if s.rfp .hifEvtRing p 5 1 == 1 then some (2 ^ s.rfp .hifEvtRing p 0 5) else none

def State.evtFree (s : State) (p : Port) : Bool :=
  match s.evtSize p with
  | some n => decide (((s.portSt p).evtWrite + 2 ^ 32 - (s.portSt p).evtHead) % 2 ^ 32 < n)
  | none => false

/-- Whether a completion of the port's contexts with NOTIFY lies beyond CQ_HEAD. -/
def State.notifyWaits (s : State) (p : Port) : Bool :=
  s.ctxs.any fun e => e.2.port == p && !e.2.ring.notifyAt.isEmpty

/-- ATTN of a port (R297). -/
def State.updateAttn (s : State) (p : Port) : State :=
  let x := s.portSt p
  let hot := x.ready && x.perstHigh && (!x.evtAttn.isEmpty || s.notifyWaits p)
  s.setPort p { x with attn := x.attn || hot }

/-- ATTN released at a poll whose heads cover every entry (R297). -/
def State.releaseAttn (s : State) (p : Port) : State :=
  let x := s.portSt p
  if x.evtAttn.isEmpty && !s.notifyWaits p then s.setPort p { x with attn := false } else s

/-- The event class of a header word. -/
def evtClass (ws : List Word) : Nat := bitsOf (ws.getD 0 0).toNat 16 2

/-- Writes an event at the ring's next entry. -/
def State.evtPut (s : State) (p : Port) (ws : List Word) : State :=
  match s.evtSize p with
  | none => s
  | some n =>
    let x := s.portSt p
    let phase : Word := if x.evtWrite / n % 2 = 0 then 0x80000000 else 0
    let w0 := (ws.getD 0 0 &&& 0x7FFFFFFF) ||| phase
    let bytes := (w0 :: (List.range 7).map fun i => ws.getD (i + 1) 0).flatMap fun w => leBytes 4 w.toNat
    let a := s.rfp .hifEvtRing p 12 52 * 4096 + 32 * (x.evtWrite % n)
    let ty := (ws.getD 0 0).toNat % 65536
    let s := s.setPort p { x with evtWrite := (x.evtWrite + 1) % 2 ^ 32,
                                  evtAttn := if evtClass ws = 2 then x.evtAttn ++ [x.evtWrite] else x.evtAttn,
                                  ready := x.ready || ty == 1 }
    (s.hostWrite p a bytes).updateAttn p

/-- The EVT_LOST event, first after any loss (R299). -/
def State.evtLost (s : State) (p : Port) : State :=
  let x := s.portSt p
  if (x.lostInfo ≠ 0 ∨ x.lostAttn ≠ 0) ∧ s.evtFree p then
    let s := s.setPort p { x with lostInfo := 0, lostAttn := 0 }
    s.evtPut p [BitVec.ofNat 32 (0x0003 + 2 * 65536), s.stamp32, BitVec.ofNat 32 x.lostInfo, BitVec.ofNat 32 x.lostAttn]
  else s

/-- An event given to one port's ring: written, queued or lost (R299). -/
def State.evtTo (s : State) (p : Port) (ws : List Word) : State :=
  let s := if (s.portSt p).evtQueue.isEmpty then s.evtLost p else s
  let x := s.portSt p
  if s.evtFree p && x.evtQueue.isEmpty then s.evtPut p ws
  else if evtClass ws = 2 then
    if x.evtQueue.length < 64 then s.setPort p { x with evtQueue := x.evtQueue ++ [ws] }
    else s.setPort p { x with lostAttn := x.lostAttn + 1, lostAttnTotal := min (x.lostAttnTotal + 1) 255 }
  else s.setPort p { x with lostInfo := x.lostInfo + 1, lostTotal := min (x.lostTotal + 1) 65535 }

/-- Waiting attention events written while entries are free (R299); `n` bounds the queue's 64 places. -/
def State.evtDrain (s : State) (p : Port) : Nat → State
  | 0 => s
  | n + 1 =>
    let s := s.evtLost p
    match (s.portSt p).evtQueue with
    | [] => s
    | ws :: rest =>
      if s.evtFree p then ((s.modPort p fun x => { x with evtQueue := rest }).evtPut p ws).evtDrain p n else s

/-- An event to a list of ports (R298–R300), with its sluice records and triggers. -/
def State.event (s : State) (ports : List Port) (type cls ctx : Nat) (payload : List Word) : State :=
  let ws := BitVec.ofNat 32 (type + 65536 * cls + 2 ^ 18 * ctx) :: s.stamp32 :: payload
  let s := s.sluice 5 ctx 0x200 0 [BitVec.ofNat 32 type, payload.getD 0 0]
  let hit (s : State) (p : Port) := if s.rfp .dbgTrig p 8 16 == type then s.triggerFor p ctx 3 else s
  ports.foldl (fun s p => s.evtTo p ws) (hit (hit s .steward) .tenant)

/-- Device events and audit records go to the steward port's ring (R299). -/
def State.devEvent (s : State) (type cls : Nat) (payload : List Word) : State :=
  s.event [.steward] type cls 0 payload

/-- Events of a context go to its port's ring. -/
def State.ctxEvent (s : State) (type cls ctx : Nat) (payload : List Word) : State :=
  s.event [(s.ctxD ctx).port] type cls ctx payload

/-- Both the steward port's ring and the context's port. -/
def State.bothPorts (s : State) (ctx : Nat) : List Port :=
  if s.ctxOnPort ctx .tenant then [.steward, .tenant] else [.steward]

/-! ### Refused writes and the error log -/

/-- RAS_CFG_ERR records a refused write (R7, R412). -/
def State.cfgError (s : State) (p : Port) (offset : Nat) : State :=
  { s with ras := { s.ras with cfgErr := true, cfgPort := p, cfgOffset := bitsOf offset 2 24 } }

/-- A RAS_LOG entry and its RAS_ERROR event (R411, R412). -/
def State.rasEntry (s : State) (kind response ctx unit addr : Nat) : State :=
  let e := [BitVec.ofNat 32 (kind + 16 * response + 256 * ctx + 65536 * unit), BitVec.ofNat 32 addr] ++ stampWords s.stamp
  let lost := (tget s.ras.log s.ras.wptr).isSome
  let w := (s.ras.wptr + 1) % 32
  let s := { s with ras := { s.ras with log := tset s.ras.log s.ras.wptr e, wptr := w, overflow := s.ras.overflow || lost } }
  s.event (s.bothPorts ctx) 0x30 2 ctx (e ++ [BitVec.ofNat 32 w])

/-! ### Completions (R295, R310) -/

/-- Whether a descriptor's status counts as success (R311). -/
def stOk (st : Nat) : Bool := decide (st < 16)

/-- Entry j of a completion ring: its address and PHASE bit (R292). -/
def cqPlace (r : Ring) (j : Nat) : Nat × Bool :=
  (r.cqBase + 16 * (j % 2 ^ r.cqLog2), j / 2 ^ r.cqLog2 % 2 = 0)

/-- Writes a completion: the entry, the notify flag, ATTN, the sluice record and its trigger. Data of the descriptor
is written before (R295). -/
def State.writeCompletion (s : State) (c : Nat) (d : Desc) (marker : Word) (status detail : Nat) (result : Word) : State :=
  match s.ctx? c with
  | none => s
  | some x =>
    let r := x.ring
    let stamp := s.stamp32
    let pl := cqPlace r r.cqWrite
    let entry := [d.seq, BitVec.ofNat 32 (status + 256 * detail + if pl.2 then 2 ^ 31 else 0), stamp, result]
    let s := if r.bound then s.ctxWrite c x.port pl.1 (entry.flatMap fun w => leBytes 4 w.toNat) else s
    let note := d.notify && r.notify != 0 && r.bound
    let cnt := r.notifyCount + if d.notify then 1 else 0
    let s := if note then s.ctxWrite c x.port r.notify ([d.seq, cnt].flatMap fun w => leBytes 4 w.toNat) else s
    let r := { r with cqWrite := (r.cqWrite + 1) % 2 ^ 32, notifyCount := cnt,
                      notifyAt := if d.notify then r.notifyAt ++ [r.cqWrite] else r.notifyAt }
    let s := s.modCtx c fun x =>
      { x with ring := r,
               lastStatus := if x.lastSeq = d.seq ∧ x.lastStatus = none then some (BitVec.ofNat 8 status) else x.lastStatus }
    let s := s.updateAttn x.port
    let s := s.sluice 3 c 0x200 marker [d.seq, BitVec.ofNat 32 (status + 256 * detail), result]
    if stOk status then s else s.trigger x.port 4

/-- Completes an open descriptor, which is open no longer. -/
def State.complete (s : State) (c : Nat) (d : Desc) (status detail : Nat) (result : Word) : State :=
  let marker := match (s.ctxD c).opens.find? fun o => o.desc == d with | some o => o.marker | none => 0
  (s.writeCompletion c d marker status detail result).modCtx c fun x =>
    { x with opens := x.opens.filter fun o => o.desc != d }

/-- Completes the open descriptor with a SEQ. -/
def State.completeSeq (s : State) (c : Nat) (seq : Word) (status detail : Nat) (result : Word) : State :=
  match (s.ctxD c).opens.find? fun o => o.desc.seq == seq with
  | some o => s.complete c o.desc status detail result
  | none => s

/-- Marker tag of the work of an open descriptor (R362). -/
def State.markerOf (s : State) (c : Nat) (seq : Word) : Word :=
  match (s.ctxD c).opens.find? fun o => o.desc.seq == seq with
  | some o => o.marker
  | none => 0

end Sys2Proof.Machine
end

