-- ==== Sys2Proof/Machine/Map.lean ====
section
/-! DEFINITION. How bytes of regions fall on the sites, channels and pages; allocation of pages; locations of
descriptors (R267–R272, R302). -/

namespace Sys2Proof.Machine

/-! ### Sparse copies -/

/-- Writes listed cells, each moved by an offset: cell a goes to a + dst − src. -/
def memMove (m : Memory) (src dst : Nat) : List Host.Cell → Memory
  | [] => m
  | (a, b) :: t => memMove (memWrite m (a - src + dst) b) src dst t

/-- Copies n bytes within a memory, read before they are written. -/
def memCopy (m : Memory) (src dst n : Nat) : Memory :=
  memMove (memErase m dst n) src dst (m.filter fun c => decide (src ≤ c.1) && decide (c.1 < src + n))

/-- The bytes of a range of a memory, as a memory that begins at 0. -/
def memCut (m : Memory) (a n : Nat) : Memory :=
  (m.filter fun c => decide (a ≤ c.1) && decide (c.1 < a + n)).map fun c => (c.1 - a, c.2)

/-! ### Pages -/

/-- Whether a page of a stack exists and could be allocated: its channel works, it is no management page, it is not
withdrawn and not taken (R267, R403, R455). -/
def State.pageFree (s : State) (stack page : Nat) : Bool :=
  decide (page < pagesPerStack) && s.chanOk stack (page / 1024) && !s.isMgmtPage stack page &&
    !(s.site stack).taken.contains page && !(s.site stack).withdrawn.contains page

/-- Free pages of a channel. -/
def State.freeInChan (s : State) (stack ch : Nat) : List Nat :=
  if s.chanOk stack ch then ((List.range 1024).map (ch * 1024 + ·)).filter (s.pageFree stack) else []

def State.freePages (s : State) (stack : Nat) : List Nat := (List.range 32).flatMap (s.freeInChan stack)

/-- Free pool pages of a channel: the channel's share of the pool not in use (R271, log entry 87). -/
def State.poolIn (s : State) (stack ch : Nat) : Nat := tgetD (s.site stack).pool ch 0

/-- Free pages of a stack's shadow share (R210). -/
def State.poolFree (s : State) (stack : Nat) : Nat := (s.workingChans stack).foldl (fun n ch => n + s.poolIn stack ch) 0

/-- Pages of a channel that regions may take: its free pages beyond those of the pool. -/
def State.openIn (s : State) (stack ch : Nat) : Nat := (s.freeInChan stack ch).length - s.poolIn stack ch

/-- Pages of a stack that regions may take. -/
def State.allocatable (s : State) (stack : Nat) : Nat := (s.workingChans stack).foldl (fun n ch => n + s.openIn stack ch) 0

/-- A member of a list that the manual leaves open (log entry 10). -/
def pickFree {α : Type} (what : Nat) (key : List Nat) (xs : List α) : Option α :=
  match xs with
  | [] => none
  | [x] => some x
  | x :: y :: rest => (x :: y :: rest)[Config.freeNat what key % (rest.length + 2)]?

/-- The channel a region's next page comes from: the next working channel with a free page after the one used last,
in cyclic order; the first page's channel is left open (R271). -/
def State.nextChan (s : State) (stack : Nat) (last : Option Nat) : Option Nat :=
  let chans := (List.range 32).filter fun c => decide (0 < s.openIn stack c)
  match last with
  | some l => ((chans.filter (l < ·)) ++ chans.filter (· ≤ l)).head?
  | none => pickFree 1 [stack] chans

/-- A page is zeroed before it is allocated (R388). -/
def State.takePage (s : State) (stack page : Nat) : State :=
  ({ s with hbm := memErase s.hbm (hbmAddr stack page 0) pageSize } : State).modSite stack fun x =>
    { x with taken := page :: x.taken }

def State.givePage (s : State) (stack page : Nat) : State :=
  s.modSite stack fun x => { x with taken := x.taken.filter (· != page) }

/-- Takes n pages of a stack for one region; which free page of the channel is left open (log entry 10). -/
def State.takePages (s : State) (stack : Nat) (last : Option Nat) : Nat → State × List Nat
  | 0 => (s, [])
  | n + 1 =>
    match s.nextChan stack last with
    | none => (s, [])
    | some ch =>
      match pickFree 2 [stack, ch] (s.freeInChan stack ch) with
      | none => (s, [])
      | some pg =>
        let r := (s.takePage stack pg).takePages stack (some ch) n
        (r.1, pg :: r.2)

/-! ### Regions -/

/-- The stack list of a placement for a set of twin pairs (R270). -/
def State.placeStacks (s : State) (pairs : List Nat) : Placement → List Nat
  | .near => (List.range 12).filter fun n => s.populated n && pairs.any fun p => p / 8 == n / 2
  | .spread => s.stackList
  | .pinned n => [n]

/-- Granules a region of a size has in the i-th of n stks, and the pages they take (R270, R271). -/
def granulesIn (size n i : Nat) : Nat := ((size + 4095) / 4096 + n - 1 - i) / n
def pagesIn (size n i : Nat) : Nat := (granulesIn size n i + 511) / 512

/-- Whether every stack of a placement is populated and has the pages (R272). -/
def State.regionFits (s : State) (stks : List Nat) (size : Nat) : Bool :=
  (List.range stks.length).all fun i => decide (pagesIn size stks.length i ≤ s.allocatable (stks.getD i 0))

/-- Allocates a region's pages. -/
def State.allocRegion (s : State) (pairs : List Nat) (decl : RegionDecl) : State × Region :=
  let stks := s.placeStacks pairs decl.place
  let go := stks.foldl (fun (acc : State × Nat × Table (List Nat) × Table Nat) st =>
      let n := pagesIn decl.size stks.length acc.2.1
      let r := acc.1.takePages st none n
      (r.1, acc.2.1 + 1, tset acc.2.2.1 st r.2, tset acc.2.2.2 st (min n (acc.1.workingChans st).length)))
    (s, 0, [], [])
  (go.1, { decl := decl, stacksOf := stks, pages := go.2.2.1, width := go.2.2.2 })

/-- Gives a page table's pages back. -/
def State.freeTable (s : State) (t : Table (List Nat)) : State :=
  t.foldl (fun s e => e.2.foldl (fun s p => s.givePage e.1 p) s) s

/-- Where a byte of a region lies: stack, page index in the stack, and offset in the page (R270, R271). -/
def Region.place (r : Region) (off : Nat) : Option (Nat × Nat × Nat) :=
  let n := r.stacksOf.length
  if n = 0 ∨ r.decl.size ≤ off then none else
  let g := off / 4096
  let st := r.stacksOf.getD (g % n) 0
  let j := g / n
  let p := (tgetD r.pages st []).length
  let w := tgetD r.width st 1
  if w = 0 then none else
  let row := j / (512 * w)
  let k := j % (512 * w)
  let wr := min w (p - row * w)
  if wr = 0 then none else some (st, row * w + k % wr, k / wr * 4096 + off % 4096)

/-- The HBM address of a byte of a region through a page table: the committed one, or a version's. -/
def Region.addrBy (r : Region) (pages : Table (List Nat)) (off : Nat) : Option Nat :=
  match r.place off with
  | none => none
  | some (st, i, o) => ((tgetD pages st [])[i]?).map fun pg => hbmAddr st pg o

def Region.addr (r : Region) (off : Nat) : Option Nat := r.addrBy r.pages off

/-- The TRAIN context, when one is defined (R314). -/
def State.trainCtx? (s : State) : Option Nat :=
  (s.ctxs.find? fun e => e.2.kind == .train && e.1 != 0).map (·.1)

/-- The context whose region table holds a region: its own, or the TRAIN context's for the weight objects an AUX
context names (R314, R456). -/
def State.regionHome (s : State) (c reg : Nat) : Nat :=
  if (tget (s.ctxD c).regions reg).isNone && (s.ctxD c).kind == .aux then s.trainCtx?.getD c else c

def State.region? (s : State) (c reg : Nat) : Option Region := tget (s.ctxD (s.regionHome c reg)).regions reg

/-- Bytes of a region through a page table; a byte that lies nowhere reads as zero. -/
def State.regionBytesBy (s : State) (r : Region) (pages : Table (List Nat)) (off n : Nat) : List Byte :=
  (List.range n).map fun i => match r.addrBy pages (off + i) with
    | some a => memRead s.hbm a
    | none => 0

/-- Bytes of a context's region at its committed version. -/
def State.regionBytes (s : State) (c reg off n : Nat) : List Byte :=
  match s.region? c reg with
  | some r => s.regionBytesBy r r.pages off n
  | none => List.replicate n 0

/-- Writes bytes of a region through a page table. -/
def State.regionPutBy (s : State) (r : Region) (pages : Table (List Nat)) : Nat → List Byte → State
  | _, [] => s
  | off, b :: bs =>
    match r.addrBy pages off with
    | some a => ({ s with hbm := memWrite s.hbm a b }).regionPutBy r pages (off + 1) bs
    | none => s.regionPutBy r pages (off + 1) bs

/-- Writes bytes into a context's region in place. -/
def State.regionPut (s : State) (c reg off : Nat) (bs : List Byte) : State :=
  match s.region? c reg with
  | some r => s.regionPutBy r r.pages off bs
  | none => s

/-! ### Who owns a page -/

/-- Pages of a page table. -/
def tablePages (t : Table (List Nat)) : List (Nat × Nat) := t.flatMap fun e => e.2.map fun p => (e.1, p)

/-- Pages of a context: regions, plan cache, swap area. -/
def Ctx.pagesOf (x : Ctx) : List (Nat × Nat) :=
  (x.regions.flatMap fun e => tablePages e.2.pages) ++ (x.plans.flatMap fun e => tablePages e.2.cache.pages) ++ x.swapPages

/-- Pages of the live versions of a context's objects. -/
def State.versionPages (s : State) (c : Nat) : List (Nat × Nat) :=
  s.objects.flatMap fun e => if e.2.ctx = c then e.2.live.flatMap fun v => tablePages v.pages else []

/-- Shadow pages of a context's open transactions. -/
def State.shadowPagesOf (s : State) (c : Nat) : List (Nat × Nat) :=
  s.txns.flatMap fun t => if t.ctx = c then t.shadows.map fun h => (h.stack, h.page) else []

/-- Context that owns a page; none for a free page, a pool page not in use and device-global data. -/
def State.pageOwner (s : State) (stack page : Nat) : Option Nat :=
  (s.ctxs.find? fun e =>
    e.2.pagesOf.contains (stack, page) || (s.versionPages e.1).contains (stack, page) ||
      (s.shadowPagesOf e.1).contains (stack, page)).map (·.1)

/-! ### Stacks held in self-refresh (R278, R279, R281) -/

/-- Whether a context owns a page of a stack. -/
def State.stackOwned (s : State) (st : Nat) : Bool :=
  s.ctxs.any fun (e : Nat × Ctx) => (e.2.pagesOf ++ s.versionPages e.1 ++ s.shadowPagesOf e.1).any fun g => g.1 == st

/-- The occasions of R279 but the warm reset's: the stack is above TSR, it is enabled for IEEE 1500 and has no owner, or
the device is in spring mode and the stack is neither 0 nor 1. -/
def State.heldStill (s : State) (st : Nat) : Bool :=
  (s.site st).hot || (s.rfi .mem1500En st 0 1 == 1 && !s.stackOwned st) || (s.power.state == 2 && decide (2 ≤ st))

/-- A stack enters or leaves self-refresh as the occasions begin and end; before training ends nothing changes. -/
def State.settleStack (s : State) (st : Nat) : State :=
  if s.boot.stage < 5 then s else s.modSite st fun x => { x with selfRefresh := x.present && s.heldStill st }

def State.settleStacks (s : State) : State := s.stackList.foldl State.settleStack s

/-- Whether a context has a region, plan cache, swap area or version page in a stack; stack 0 counts for every context. -/
def State.inStack (s : State) (c : Nat) (x : Ctx) (st : Nat) : Bool :=
  st == 0 || (x.pagesOf ++ s.versionPages c).any fun g => g.1 == st

/-- Contexts with pages in a hot stack are suspended (R278). -/
def State.thermalMark (s : State) : State :=
  let hot := (List.range 12).filter fun st => (s.site st).hot
  { s with ctxs := s.ctxs.map fun (e : Nat × Ctx) => (e.1, { e.2 with thermalHold := hot.any (s.inStack e.1 e.2) }) }

/-! ### Objects of the model -/

/-- The object, with its component code (R222), whose component a region of a context is. -/
def State.objOfRegion (s : State) (c reg : Nat) : Option (Obj × Nat) :=
  s.objects.findSome? fun e =>
    let d := e.2.decl
    if e.2.ctx ≠ s.regionHome c reg then none
    else if d.master = reg then some (e.2, 1)
    else if d.hasM && d.mReg == reg then some (e.2, 2)
    else if d.hasV && d.vReg == reg then some (e.2, 3)
    else if d.wc = reg then some (e.2, 4)
    else none

/-- Whether a region of a context is versioned: a component of a trained object, or marked VERSIONED (R206). -/
def State.isVersioned (s : State) (c reg : Nat) : Bool :=
  (match s.objOfRegion c reg with | some (o, _) => !o.decl.frozen | none => false) ||
  (match s.region? c reg with | some r => r.decl.versioned | none => false)

/-! ### Locations (R302) -/

/-- A location of a descriptor. -/
inductive Loc where
  | host (addr : Nat)
  | region (idx off : Nat)
  | slice (idx off : Nat)
  deriving DecidableEq, Repr, Inhabited

/-- Reads the three words of a location; none where KIND is 3 or a reserved bit is set. -/
def locOf (d : Desc) (n : Nat) : Option Loc :=
  if d.f n 2 6 ≠ 0 ∨ d.f n 16 16 ≠ 0 then none
  else match d.f n 0 2 with
    | 0 => if d.f n 8 8 = 0 then some (.host (d.w64 (n + 1))) else none
    | 1 => some (.region (d.f n 8 8) (d.w64 (n + 1)))
    | 2 => some (.slice (d.f n 8 8) (d.w64 (n + 1)))
    | _ => none

def Loc.offset : Loc → Nat
  | .host a => a
  | .region _ o => o
  | .slice _ o => o

def Loc.isHost : Loc → Bool
  | .host _ => true
  | _ => false

/-- Bytes of a slice (R70). -/
def sliceSize : Nat := 2 ^ 20

/-- Declared length of what a REGION location names. -/
def State.regionLen (s : State) (c reg : Nat) : Nat :=
  match s.region? c reg with | some r => r.decl.size | none => 0

/-- Whether n bytes from a location lie inside what it names and the context owns it (R302). -/
def State.locOk (s : State) (c : Nat) (l : Loc) (n : Nat) : Bool :=
  match l with
  | .host a => decide (a + n ≤ 2 ^ 64)
  | .region r o => (s.region? c r).isSome && decide (o + n ≤ s.regionLen c r)
  | .slice i o => (s.ctxD c).slices.contains i && decide (i < 96) && decide (o + n ≤ sliceSize)

/-- Shadow page of a transaction for a page of a region. -/
def Txn.shadow? (t : Txn) (region stack index : Nat) : Option Nat :=
  (t.shadows.find? fun h => h.region == region && h.stack == stack && h.index == index).map (·.page)

/-- The page table of a region as a transaction sees it: its shadow pages over the committed ones (R207). -/
def Txn.pagesOf (t : Txn) (reg : Nat) (r : Region) : Table (List Nat) :=
  r.pages.map fun e =>
    (e.1, (List.range e.2.length).map fun i => (t.shadow? reg e.1 i).getD (e.2.getD i 0))

def State.txn? (s : State) (c tag : Nat) : Option Txn := s.txns.find? fun t => t.ctx == c && t.tag == tag

def State.setTxn (s : State) (t : Txn) : State :=
  { s with txns := s.txns.map fun x => if x.ctx == t.ctx && x.tag == t.tag then t else x }

/-- n bytes at a location, at the committed version or as a transaction sees it. -/
def State.locBytes (s : State) (c : Nat) (txn : Option Txn) (l : Loc) (n : Nat) : List Byte :=
  match l with
  | .host a => s.hostRead (s.ctxD c).port a n
  | .region r o =>
    match s.region? c r with
    | none => List.replicate n 0
    | some rg => s.regionBytesBy rg (match txn with | some t => t.pagesOf r rg | none => rg.pages) o n
  | .slice i o => memBytes (s.slice i) o n

/-- Writes bytes at a location, a region through a given transaction's pages. -/
def State.locPut (s : State) (c : Nat) (txn : Option Txn) (l : Loc) (bs : List Byte) : State :=
  match l with
  | .host a => s.ctxWrite c (s.ctxD c).port a bs
  | .region r o =>
    match s.region? c r with
    | none => s
    | some rg => s.regionPutBy rg (match txn with | some t => t.pagesOf r rg | none => rg.pages) o bs
  | .slice i o => s.setSlice i (memPut (s.slice i) o bs)

/-- Effective rate of a weir in GB/s. -/
def State.weirRate (s : State) (c weir : Nat) : Nat := s.rawReg .ctxWeirEff (4 * c + weir) .steward % 65536

def State.bucket (s : State) (c weir : Nat) : Int := tgetD (s.ctxD c).buckets weir 0

/-- Whether a weir lets what comes next pass: it is open, or its bucket is at zero or more and nothing waits at it (R328). -/
def State.weirLets (s : State) (c weir : Nat) : Bool :=
  s.weirRate c weir == 0 || (decide (0 ≤ s.bucket c weir) && !(s.held.any fun h => h.ctx == c && h.weir == weir))

/-- Charges a context's weir with bytes (R328): an open weir counts and never holds. -/
def State.charge (s : State) (c weir bytes : Nat) : State :=
  s.modCtx c fun x => { x with buckets := tset x.buckets weir (tgetD x.buckets weir 0 - 21 * bytes) }

end Sys2Proof.Machine
end

