-- ==== Sys2Proof/Machine/Segment.lean ====
section
/-! DEFINITION. Who owns pairs and slices, the segments of tile programs, and where logical pairs run (R79, R104, R106, R108,
R316). -/

namespace Sys2Proof

/-- The program section of a logical array, or its replay section (R229). -/
def PlanBody.program? (b : PlanBody) (replay : Bool) (logical : Nat) : Option ProgramDecl :=
  (if replay then b.replays else b.programs).find? fun p => p.logical == logical

end Sys2Proof

namespace Sys2Proof.Machine

/-! ### Runs -/

def State.run? (s : State) (c : Nat) (seq : Word) : Option Run := s.runs.find? fun r => r.ctx == c && r.seq == seq

/-- Changes a run in flight. -/
def State.modRun (s : State) (c : Nat) (seq : Word) (f : Run → Run) : State :=
  { s with runs := s.runs.map fun (r : Run) => if r.ctx = c ∧ r.seq = seq then f r else r }

/-! ### Owners -/

/-- A context that holds its pairs and slices now: resident or torn down (R315, R316). -/
def Ctx.holds (x : Ctx) : Bool := x.mode == .resident || x.mode == .tornDown

/-- The context owning a pair, 0 for none (CTX_PART_MAP.OWNER, R331). -/
def State.pairOwner (s : State) (p : Nat) : Nat :=
  match s.ctxs.find? fun e => e.2.holds && e.2.pairs.contains p with
  | some e => e.1
  | none => 0

/-- The context owning a slice, 0 for none. -/
def State.sliceOwner (s : State) (n : Nat) : Nat :=
  match s.ctxs.find? fun e => e.2.holds && e.2.slices.contains n with
  | some e => e.1
  | none => 0

/-- The context whose work runs on a pair: the borrower of a lent pair, else the owner (R453). -/
def State.pairCtx (s : State) (p : Nat) : Nat :=
  let x := s.pair p
  if x.fallow then 0 else if x.lent then x.running else s.pairOwner p

/-- The context whose work an array runs. -/
def State.arrCtx (s : State) (a : Nat) : Nat := s.pairCtx (a / 2)

/-- A value presented to an array's counters, for the context and marker of its work. -/
def State.pulseArr (s : State) (a event value : Nat) : State := s.pulse event a value (s.arrCtx a) (s.arr a).marker

/-- Priority of a context: CTX_PRIO (R321). -/
def State.prio (s : State) (c : Nat) : Nat := s.rfi .ctxPrio c 0 2

/-! ### Segments (R79, R104, R108) -/

/-- The run whose work an array does. -/
def State.arrRun? (s : State) (a : Nat) : Option Run := s.run? (s.arrCtx a) (s.arr a).seq

def State.planOf (s : State) (c slot : Nat) : Option Plan := tget (s.ctxD c).plans slot

/-- The array as a segment finds it: registers zero, counters inactive, pass settings MACC ZERO and no DRN (R79). -/
def Arr.cleared (x : Arr) : Arr :=
  { x with pc := 0, aregs := [], pregs := [], loops := [], marker := 0, stream := 0, cfg := {}, fxq := {}, macc := .zero,
           drn := none, latch := [], latchOff := 0, latchStride := 0, bufs := [], loads := [], gramAcc := [], passes := [], lastBits := [], twins := [],
           wait := none, sync := false, lastSamp := none, sampled := [] }

/-- Words of the plan cache from a byte of the container on (R108). -/
def State.cacheWords (s : State) (pl : Plan) (off n : Nat) : List Word :=
  let bs := s.regionBytesBy pl.cache pl.cache.pages off (4 * n)
  (List.range n).map fun i => BitVec.ofNat 32 (leNat (sliceBytes bs (4 * i) 4))

/-- Program words of a segment, as the plan cache holds them now. -/
def State.segmentWords (s : State) (pl : Plan) (pd : ProgramDecl) (seg : Nat) : List Word :=
  let e := pd.segments.getD seg (0, 0)
  s.cacheWords pl e.1 (min e.2 4096)

/-- Loads a segment of the array's plan from the plan cache into its program store and runs it; the first segment of a newly loaded plan
clears the sticky bits (R453). An array whose plan has no such segment is halted. -/
def State.loadSegment (s : State) (a seg : Nat) : State :=
  let x := s.arr a
  let c := s.arrCtx a
  match s.planOf c x.slot with
  | none => s.setArr a { x.cleared with mode := .halted, program := [] }
  | some pl =>
    match pl.body.program? x.replay x.logical with
    | none => s.setArr a { x.cleared with mode := .halted, program := [] }
    | some pd =>
      let fresh := pl.freshFor.contains x.logical
      let s := s.modCtx c fun k => { k with plans := tmod k.plans x.slot fun pl => { pl with freshFor := pl.freshFor.filter (· != x.logical) } }
      (s.setArr a { x.cleared with mode := .running, program := s.segmentWords pl pd seg, segment := seg,
                                   sticky := if fresh then 0 else x.sticky, idle := false }).pulseArr a 0xF 1

/-- An array store left undefined (R78, R104). -/
def State.undefineStore (s : State) (a : Nat) : State :=
  let (n, s) := s.fresh
  s.modArr a fun x => { x with store := { undef := some n } }

/-! ### Placement of logical pairs (R106) -/

/-- Every way to give each sector group of a plan a sector with pairs enough, as the sectors of the groups in order. -/
def placements (free : Nat → Nat) : List Nat → List (List Nat)
  | [] => [[]]
  | n :: rest =>
    (List.range 6).flatMap fun sec =>
      if n ≤ free sec then (placements (fun k => if k = sec then free k - n else free k) rest).map (sec :: ·) else []

/-- Sizes of the sector groups, in group order. -/
def groupSizes (groups : List Nat) : List Nat :=
  (List.range (groups.foldl (fun m g => max m (g + 1)) 0)).map fun g => (groups.filter (· == g)).length

/-- Sectors of a plan's groups on a set of pairs; which of several placements is left open (log entry 10). -/
def groupSectors (pairs groups : List Nat) : Option (List Nat) :=
  pickFree 5 (pairs ++ groups) (placements (fun sec => (pairs.filter fun p => p / 8 == sec).length) (groupSizes groups))

/-- Physical pair of each logical pair: pairs of a group in increasing order, groups of one sector in turn. -/
def pairMap (pairs groups : List Nat) : List Nat :=
  match groupSectors pairs groups with
  | none => []
  | some secs =>
    (List.range groups.length).map fun l =>
      let g := groups.getD l 0
      let sec := secs.getD g 0
      let own := (pairs.filter fun p => p / 8 == sec).mergeSort (· ≤ ·)
      let before := ((List.range g).filter fun h => secs.getD h 6 == sec).foldl (fun n h => n + (groups.filter (· == h)).length) 0
      own.getD (before + ((List.range l).filter fun k => groups.getD k 0 == g).length) 0

/-- The die array that runs a logical array of a context's plan. -/
def State.physArray (s : State) (c slot logical : Nat) : Option Nat :=
  match s.planOf c slot with
  | none => none
  | some pl => ((pairMap (s.ctxD c).pairs pl.body.groups)[logical / 2]?).map fun p => 2 * p + logical % 2

/-! ### Refreshes that wait for pairs (R165) -/

/-- The loaded plan of the TRAIN context that declares a statistic, with its context. -/
def State.statPlan (s : State) (obj side : Nat) : Option (Nat × Plan) :=
  s.trainCtx?.bind fun c =>
    ((s.ctxD c).plans.find? fun e => e.2.body.stats.any fun t => t.obj == obj && t.side == side).map fun e => (c, e.2)

/-- Pairs of the sector group that runs a refresh. -/
def State.refreshPairs (s : State) (r : Refresh) : List Nat :=
  match tget s.blocks r.block with
  | none => []
  | some b =>
    match s.statPlan b.obj b.side, tget s.stats (statKey b.obj b.side) with
    | some (c, pl), some t => (((pairMap (s.ctxD c).pairs pl.body.groups).zip pl.body.groups).filter fun e => e.2 == t.decl.group).map (·.1)
    | _, _ => []

/-- Whether array work of a refresh is under way: stages 1 and 3 (R155). -/
def Refresh.wantsArrays (r : Refresh) : Bool := (r.stage == 1 || r.stage == 3) && decide (0 < r.left)

/-- The current refresh that a pair may take work from, or one that is late: its snapshot was taken before the last seal. -/
def State.dueRefresh (s : State) (p : Nat) (late : Bool) : Option Nat :=
  (s.curv.current.find? fun e =>
    e.2.wantsArrays && (!late || decide (e.2.sealCount < s.curv.seals)) && (s.refreshPairs e.2).contains p).map (·.1)

/-- Whether a die array is free for a segment of a context: its pair is the context's own, awake and not lent, no late refresh
comes first, and the array is halted. -/
def State.arrayFree (s : State) (c a : Nat) : Bool :=
  s.pairOwner (a / 2) == c && (s.dueRefresh (a / 2) true).isNone && (s.ctxD c).mode == .resident && !(s.ctxD c).onHold && !(s.pair (a / 2)).lent && !(s.pair (a / 2)).fallow &&
    (s.arr a).mode == .halted

/-- An array takes up a stage of a run. -/
def State.enterStage (s : State) (a : Nat) (r : Run) (logical stage : Nat) (replay : Bool) : State :=
  let s := s.modArr a fun x => { x with seq := r.seq, slot := r.slot, stage := stage, logical := logical, replay := replay,
                                        seed := r.seed, step := r.step, ended := false }
  s.modPair (a / 2) fun x => { x with noWork := none }

/-- Starts a segment of a run on an array. -/
def State.startSegment (s : State) (a : Nat) (r : Run) (logical seg stage : Nat) (replay : Bool) : State :=
  (s.enterStage a r logical stage replay).loadSegment a seg

/-- Whether a run does a stage with the plan's replay segments: the stage's layer was replayed, or the stage reads a
tensor that a replayed layer wrote (R229). -/
def State.replayStage (s : State) (r : Run) (stage : Nat) : Bool :=
  match s.planOf r.ctx r.slot with
  | none => false
  | some pl =>
    let sts := pl.body.stages
    match sts.find? fun t => t.num == stage with
    | none => false
    | some d =>
      r.replayed.contains d.layer ||
        sts.any fun t => r.replayed.contains t.layer && t.writes.any fun w => d.reads.contains w

/-- The array waits for a token before it loads a segment (R104). -/
def State.awaitSegment (s : State) (a seg tok : Nat) : State :=
  let s := s.modArr a fun x => { x.cleared with mode := .waiting, wait := some (.segment tok seg true), program := [] }
  { s with waiters := s.waiters ++ [{ array := a, tok := tok, since := s.now }] }

/-- Parked segments of a context's runs that now find their array free start there, or wait there for their token. -/
def State.startParked (s : State) (c : Nat) : State :=
  (s.runs.filter fun r => r.ctx == c).foldl (fun s r =>
    r.parked.foldl (fun s p =>
      match s.physArray c r.slot p.1 with
      | none => s
      | some a =>
        if s.arrayFree c a then
          let s := s.modRun c r.seq fun x => { x with parked := x.parked.filter (· != p) }
          let st := p.2.2.1
          let s := s.enterStage a r p.1 st (s.replayStage r st)
          match p.2.2.2 with
          | none => s.loadSegment a p.2.1
          | some tok => s.awaitSegment a p.2.1 tok
        else s) s) s

end Sys2Proof.Machine
end

