-- ==== Sys2Proof/Machine/Txn.lean ====
section
/-! DEFINITION. Versions and pins, write-holds, shadow pages, digests and the abort of a transaction (R204–R212,
R217, R218, R222). -/

namespace Sys2Proof.Machine

/-! ### Detail codes of aborted transactions (R312) -/

def dNormFail : Nat := 0x060A
def dMemberFail : Nat := 0x060B
def dNoShadow : Nat := 0x060C
def dTxnConflict : Nat := 0x060D
def dTxnAborted : Nat := 0x060E
def dGroupVote : Nat := 0x060F
def dFrameLate : Nat := 0x0610
def dTxnUncorrectable : Nat := 0x0611

/-- Whether a transaction counts as open: not one aborted and only holding its tag (R204). -/
def Txn.isOpen (t : Txn) : Bool :=
  match t.phase with
  | .aborted _ => false
  | _ => true

def State.openTxns (s : State) : Nat := (s.txns.filter Txn.isOpen).length

/-! ### Pins and retirement (R125, R128, R209) -/

/-- Pages of one version that no other live version of the object shares. -/
def versionOwnPages (o : Obj) (v : Version) : List (Nat × Nat) :=
  let others := (o.live.filter fun w => w.number != v.number).flatMap fun w => tablePages w.pages
  (tablePages v.pages).filter fun p => !others.contains p

/-- Gives one pool page back: it is free in the pool, or leaves the pool where the pool is above its share (R209, R210). -/
def State.poolGiveOne (s : State) (p : Nat × Nat) : State :=
  let above := decide ((s.site p.1).share < (s.site p.1).used + s.poolFree p.1)
  (s.givePage p.1 p.2).modSite p.1 fun x =>
    { x with used := x.used - 1,
             pool := if above then x.pool else tset x.pool (p.2 / 1024) (tgetD x.pool (p.2 / 1024) 0 + 1) }

/-- Gives pool pages back. -/
def State.poolGive (s : State) (ps : List (Nat × Nat)) : State := ps.foldl State.poolGiveOne s

/-- Retires every live version of an object that is neither current nor pinned. -/
def State.retire (s : State) (o : Nat) : State :=
  match tget s.objects o with
  | none => s
  | some x =>
    let dead := x.live.filter fun v => v.number != x.version && v.pins.isEmpty
    let keep := x.live.filter fun v => !(v.number != x.version && v.pins.isEmpty)
    let pages := dead.flatMap fun v =>
      (tablePages v.pages).filter fun p => !(keep.any fun w => (tablePages w.pages).contains p)
    (s.poolGive pages.eraseDups).modObj o fun x => { x with live := keep }

/-- Releases the pins of a run on every object, and retires what that leaves unpinned (R127, R128). -/
def State.unpin (s : State) (c : Nat) (seq : Word) : State :=
  s.objects.foldl (fun s e =>
    (s.modObj e.1 fun x =>
      { x with live := x.live.map fun v => { v with pins := v.pins.filter (· != (c, seq)) } }).retire e.1) s

/-- Pins the current version of an object for a run. -/
def State.pin (s : State) (o c : Nat) (seq : Word) : State :=
  s.modObj o fun x =>
    { x with live := x.live.map fun v => if v.number = x.version then { v with pins := (c, seq) :: v.pins } else v }

/-! ### Write-holds and shadow pages (R209, R211, R212) -/

/-- Key of a write-hold: the object, or a VERSIONED region of a context beyond the objects' numbers. -/
def State.holdKey (s : State) (c reg : Nat) : Nat :=
  match s.objOfRegion c reg with
  | some (o, _) => o.decl.num
  | none => 65536 + 256 * c + reg

/-- Whether a transaction's commit has passed row 4 of the commit sequence. -/
def Txn.pastVote (t : Txn) : Bool :=
  match t.phase with
  | .voted => true
  | .prepared => !t.group
  | _ => false

/-- What meets a writer at an object's hold (R212). -/
inductive HoldResult where
  | free
  | loses
  | waits
  | takes (ctx tag : Nat)
  deriving DecidableEq, Repr

def State.holdTest (s : State) (t : Txn) (key : Nat) : HoldResult :=
  match s.txns.find? fun x => x.isOpen && x.holds.contains key with
  | none => .free
  | some h =>
    if h.ctx = t.ctx ∧ h.tag = t.tag then .free
    else if h.pastVote then .waits
    else if h.order < t.order then .loses
    else .takes h.ctx h.tag

/-- The channel a shadow page comes from: that of the page it shadows, else the one with the most free pool pages, the
lowest of several (R271). -/
def State.shadowChan (s : State) (stack page : Nat) : Nat :=
  if 0 < s.poolIn stack (page / 1024) then page / 1024
  else (s.workingChans stack).foldl (fun b c => if s.poolIn stack b < s.poolIn stack c then c else b) 0

/-- The physical page a shadow page takes; which free page of the channel is left open (log entry 10). -/
def State.shadowPick (s : State) (stack page : Nat) : Option Nat :=
  pickFree 3 [stack, page] (s.freeInChan stack (s.shadowChan stack page))

/-- Gives a transaction a shadow page for a page of a region, its content that of the committed page (R209); none
where the stack's share has none free (R211). -/
def State.takeShadow (s : State) (c tag reg stack index : Nat) : Option State :=
  match s.txn? c tag, s.region? c reg with
  | some t, some r =>
    match t.shadow? reg stack index with
    | some _ => some s
    | none =>
      let old := (tgetD r.pages stack []).getD index 0
      if s.poolFree stack = 0 then none
      else match s.shadowPick stack old with
        | none => none
        | some pg =>
          let s := (s.takePage stack pg).modSite stack fun x =>
            { x with used := x.used + 1, pool := tset x.pool (pg / 1024) (tgetD x.pool (pg / 1024) 0 - 1) }
          let s := { s with hbm := memCopy s.hbm (hbmAddr stack old 0) (hbmAddr stack pg 0) pageSize }
          some (s.setTxn { t with shadows := t.shadows ++ [{ region := reg, stack := stack, index := index, page := pg }] })
  | _, _ => none

/-- The pages of a region that bytes [off, off + n) touch, as stack and page index, without repeats. -/
def Region.touched (r : Region) (off n : Nat) : List (Nat × Nat) :=
  if n = 0 then [] else
  (((List.range ((off + n - 1) / 4096 + 1 - off / 4096)).filterMap fun i =>
    (r.place (max off ((off / 4096 + i) * 4096))).map fun p => (p.1, p.2.1))).eraseDups

/-- Shadow pages for all bytes of a write; none where a share is exhausted. -/
def State.shadowRange (s : State) (c tag reg off n : Nat) : Option State :=
  match s.region? c reg with
  | none => none
  | some r => (r.touched off n).foldl (fun acc p => acc.bind fun s => s.takeShadow c tag reg p.1 p.2) (some s)

/-! ### Digests (R222) -/

/-- Sum of mixed 16-byte chunks of a component: chunk numbers up from n. -/
def digestChunks (k : Nat) (bs : List Byte) : Nat :=
  (List.range ((bs.length + 15) / 16)).foldl (fun acc n =>
    let y := mix (BitVec.ofNat 64 (k * 2 ^ 48 + n)) (leWord bs (16 * n)) (leWord bs (16 * n + 4))
      (leWord bs (16 * n + 8)) (leWord bs (16 * n + 12))
    (acc + y.2.1.toNat * 2 ^ 32 + y.1.toNat) % 2 ^ 64) 0

/-- The closing step of a digest. -/
def digestClose (seed sum count : Nat) : DWord :=
  let z := mix (BitVec.ofNat 64 seed) (BitVec.ofNat 32 sum) (BitVec.ofNat 32 (sum / 2 ^ 32)) (BitVec.ofNat 32 count)
    (BitVec.ofNat 32 (count / 2 ^ 32))
  BitVec.ofNat 64 (z.2.1.toNat * 2 ^ 32 + z.1.toNat)

/-- Components of an object with their codes, in order, absent ones left out. -/
def objComponents (d : ObjectDecl) : List (Nat × Nat) :=
  [(1, d.master)] ++ (if d.hasM then [(2, d.mReg)] else []) ++ (if d.hasV then [(3, d.vReg)] else []) ++ [(4, d.wc)]

/-- Digest of an object as a transaction leaves it. -/
def State.objDigest (s : State) (t : Option Txn) (o : Obj) (count : Nat) : DWord :=
  let sum := (if o.decl.frozen then [(4, o.decl.wc)] else objComponents o.decl).foldl (fun acc k =>
    match s.region? o.ctx k.2 with
    | none => acc
    | some r =>
      let pages := match t with | some t => t.pagesOf k.2 r | none => r.pages
      (acc + digestChunks k.1 (s.regionBytesBy r pages 0 r.decl.size)) % 2 ^ 64) 0
  digestClose o.decl.num sum count

/-! ### Abort (R217) -/

/-- A transaction's shadow pages go back to the pool. -/
def State.dropShadows (s : State) (t : Txn) : State := s.poolGive (t.shadows.map fun h => (h.stack, h.page))

/-- Swap areas that its partition changes had allocated go back. -/
def State.dropDeferred (s : State) (t : Txn) : State :=
  t.deferred.foldl (fun s q => match q with
    | .partition _ ch => ch.swap.foldl (fun s g => s.givePage g.1 g.2) s
    | _ => s) s

/-- Whether the GRAN_STEP in progress runs the program of a recipe slot. -/
def State.slotInUse (s : State) (c slot : Nat) : Bool :=
  s.gran.any fun g => g.ctx == c && g.active.isSome && g.entries.any fun e => e.recipe == 4 && e.slot == slot && (g.listed.isEmpty || g.listed.contains e.obj)

/-- Loads of microprograms that no GRAN_STEP in progress holds back take effect, in order of acceptance (R192). -/
def State.recipesSettle (s : State) (c : Nat) : State :=
  let loads := (s.ctxD c).recipeLoads
  let go (l : Word × Nat × List Word) : Bool := !s.slotInUse c l.2.1
  let done := loads.filter go
  let s := s.modCtx c fun x =>
    { x with recipeLoads := loads.filter fun l => !go l, recipes := done.foldl (fun t l => tset t l.2.1 l.2.2) x.recipes }
  done.foldl (fun s l => s.completeSeq c l.1 stDone 0 0) s

/-- Work of an aborted transaction's GRAN_STEP ends, and loads that waited for it take effect; what the step had reached is kept (R192, R198). -/
def State.dropGran (s : State) (t : Txn) : State :=
  match s.gran with
  | none => s
  | some g =>
    if g.ctx ≠ t.ctx then s
    else
      let g := { g with applying := g.applying.filter fun n => !t.holds.contains n }
      match g.active with
      | some (seq, tg, _, _, _) =>
        if tg = t.tag then
          ({ s with gran := some { g with active := none }
                    granaries := s.granaries.map fun e =>
                      (e.1, { e.2 with items := e.2.items.filter fun i => !(i.ctx == t.ctx && i.seq == seq) }) } : State).recipesSettle t.ctx
        else { s with gran := some g }
      | none => { s with gran := some g }

/-- Once no transaction is open, a lower PERCENT takes effect (R210). -/
def State.shareOf (s : State) (stack percent : Nat) : Nat :=
  percent * ((s.workingChans stack).length * 1024) / 100

/-- Spreads a number of pages over channels, none above its cap: in a first pass each takes what `pick` says, in a
second what is left, in order. -/
def spread (cap pick : Nat → Nat) (need : Nat) (chans : List Nat) : Table Nat :=
  let first := chans.foldl (fun (a : Table Nat × Nat) ch =>
    let k := min a.2 (pick ch % (cap ch + 1))
    (tset a.1 ch k, a.2 - k)) (([] : Table Nat), need)
  (chans.foldl (fun (a : Table Nat × Nat) ch =>
    let k := min a.2 (cap ch - tgetD a.1 ch 0)
    (tset a.1 ch (tgetD a.1 ch 0 + k), a.2 - k)) first).1

/-- Brings a stack's free pool pages to what a share leaves beside the pages in use; which channels they join or leave is
a free value (log entry 87). -/
def State.poolResize (s : State) (n stack share : Nat) : State :=
  let want := share - (s.site stack).used
  let have_ := s.poolFree stack
  let chans := s.workingChans stack
  let pick (ch : Nat) : Nat := Config.freeNat 65 [stack, ch, n]
  let more := spread (s.openIn stack) pick (want - have_) chans
  let less := spread (s.poolIn stack) pick (have_ - want) chans
  s.modSite stack fun x =>
    { x with share := share, pool := chans.map fun ch => (ch, s.poolIn stack ch + tgetD more ch 0 - tgetD less ch 0) }

/-- PERCENT in use: every stack holds its share. -/
def State.applyShare (s : State) (percent : Nat) : State :=
  let (n, s) := s.fresh
  s.stackList.foldl (fun s k => s.poolResize n k (s.shareOf k percent)) s

def State.shareSettle (s : State) : State :=
  match s.shadowDue with
  | some p => if s.openTxns = 0 then { s with shadowDue := none }.applyShare p else s
  | none => s

/-- The device's own vote for a group transaction goes out (R221). -/
def State.sendVote (s : State) (key : Word) (commit : Bool) : State :=
  { s with group := { s.group with ownVotes := s.group.ownVotes ++ [(key, commit)] } }

/-- Whether a transaction has yet to give its vote. -/
def Txn.beforeVote (t : Txn) : Bool :=
  t.group && match t.phase with
    | .opened => true
    | .committing => true
    | _ => false

/-- A group transaction that aborts before row 4 votes abort (R221). -/
def State.voteAbort (s : State) (t : Txn) : State := if t.beforeVote then s.sendVote t.key false else s

/-- Aborts a transaction for a cause: shadow pages return, deferred settings are discarded, members and TXN_COMMIT
complete ABORTED_TXN with the detail; `keep` names the member that caused it and keeps its own status. The tag stays
held until TXN_COMMIT or TXN_ABORT arrives (R204, R217). -/
def State.abortTxn (s : State) (c tag detail : Nat) (keep : Option Word) : State :=
  match s.txn? c tag with
  | none => s
  | some t =>
    if !t.isOpen then s
    else
      let s := ((s.voteAbort t).dropShadows t).dropDeferred t
      let s := if t.gran then s.dropGran t else s
      let s := { s with group := { s.group with flights := s.group.flights.filter fun f => !(f.ctx == c && f.tag == some tag) } }
      let s := s.pulse 0x242 0 1 c 0
      let dead : Txn := { t with phase := .aborted (BitVec.ofNat 16 detail), shadows := [], holds := [], deferred := [],
                                 members := [], counts := [], formed := [], votes := [] }
      let s := s.setTxn dead
      let s := (t.members.filter fun q => keep != some q).foldl (fun s q => s.completeSeq c q stAbortedTxn detail 0) s
      let s := match t.commitSeq with
        | some q =>
          let s := s.completeSeq c q stAbortedTxn detail 0
          { s with txns := s.txns.filter fun x => !(x.ctx == c && x.tag == tag) }
        | none => s
      s.shareSettle

/-- A member has completed; a failing status aborts its transaction at once (R217). -/
def State.memberDone (s : State) (c : Nat) (d : Desc) (status : Nat) : State :=
  if !d.inTxn then s
  else match s.txn? c d.tag with
    | none => s
    | some t =>
      if !t.isOpen then s
      else
        let s := s.setTxn { t with members := t.members.filter (· != d.seq) }
        if status ≤ 1 then s
        else s.abortTxn c d.tag (if status = stAbortedNorm then dNormFail else dMemberFail) (some d.seq)

/-- Completes an open descriptor that may be a transaction member. -/
def State.finish (s : State) (c : Nat) (d : Desc) (status detail : Nat) (result : Word) : State :=
  (s.complete c d status detail result).memberDone c d status

def State.finishSeq (s : State) (c : Nat) (seq : Word) (status detail : Nat) (result : Word) : State :=
  match (s.ctxD c).opens.find? fun o => o.desc.seq == seq with
  | some o => s.finish c o.desc status detail result
  | none => s

/-- A member that lost a conflict or found no shadow page: it and its transaction abort with the detail (R211, R212). -/
def State.memberAbort (s : State) (c : Nat) (d : Desc) (detail : Nat) : State :=
  let s := s.complete c d stAbortedTxn detail 0
  s.abortTxn c d.tag detail (some d.seq)

/-- What became of a member's write to versioned memory. -/
inductive WriteResult where
  | go (s : State)
  | waits (s : State)
  | aborted (s : State)

/-- Prepares a member's write of bytes of a versioned region: the hold and the shadow pages (R209, R211, R212). -/
def State.memberWrite (s : State) (c : Nat) (d : Desc) (reg off n : Nat) : WriteResult :=
  match s.txn? c d.tag with
  | none => .go s
  | some t =>
    let key := s.holdKey c reg
    let proceed (s : State) : WriteResult :=
      let s := match s.txn? c d.tag with
        | some t => s.setTxn { t with holds := if t.holds.contains key then t.holds else t.holds ++ [key] }
        | none => s
      match s.shadowRange c d.tag reg off n with
      | some s' => .go s'
      | none => .aborted (s.memberAbort c d dNoShadow)
    match s.holdTest t key with
    | .waits => .waits s
    | .loses => .aborted (s.memberAbort c d dTxnConflict)
    | .takes hc ht => proceed (s.abortTxn hc ht dTxnConflict none)
    | .free => proceed s

end Sys2Proof.Machine
end

