-- ==== Sys2Proof/Machine/Teardown.lean ====
section
/-! DEFINITION. Stopping pairs, and the teardown of a context (R327, R62). -/

namespace Sys2Proof.Machine

/-! ### Stopping a pair -/

/-- A fill queue without the entries of a context. -/
def FillQueue.without (q : FillQueue) (c : Nat) : FillQueue :=
  { entries := q.entries.filter fun i => i.ctx != c, run := if q.entries.head?.any fun i => i.ctx == c then 0 else q.run, active := false }

/-- An array stopped between boundaries, in the work of a context: its array and program stores are invalidated (R62). -/
def Arr.stopped (x : Arr) (undef c : Nat) : Arr :=
  { sticky := x.sticky, hist := x.hist, idle := x.idle, fillIn := x.fillIn.without c, fillOut := x.fillOut.without c, mode := if x.mode = .fallow then .fallow else .halted,
    store := { undef := some undef } }

/-- Stops a pair at once. -/
def State.stopPair (s : State) (p : Nat) : State :=
  let c := s.pairCtx p
  let (n, s) := s.fresh
  let (m, s) := s.fresh
  let s := (s.modArr (2 * p) fun x => x.stopped n c).modArr (2 * p + 1) fun x => x.stopped m c
  let s := s.modPair p fun x => { x with refresh := none, fragment := 0 }
  { s with waiters := s.waiters.filter fun w => w.array / 2 != p,
           prus := s.prus.map fun e => (e.1, e.2.filter fun r => r.array / 2 != p) }

/-- A lent pair back with its owner. -/
def State.unlend (s : State) (p : Nat) : State :=
  s.modPair p fun x => { x with lent := false, running := 0, returnAt := none, problem := none }

/-- A lent pair goes back to its owner: its stores are undefined, and the lender's ready segments load (R78, R108, R322). -/
def State.giveBack (s : State) (p : Nat) : State :=
  let s := (s.stopPair p).unlend p
  s.startParked (s.pairOwner p)

/-- Memory transactions of a context complete at once. -/
def State.dropRequests (s : State) (c : Nat) : State :=
  { s with held := s.held.filter (·.ctx != c), asking := s.asking.filter (·.ctx != c),
           outstanding := s.outstanding.filter (·.ctx != c) }

/-- Work of a context in the granaries ends (R182, row 3 of the table Teardown Sequence). -/
def State.dropItems (s : State) (c : Nat) : State :=
  { s with granaries := s.granaries.map fun e => (e.1, { e.2 with items := e.2.items.filter (·.ctx != c) }) }

/-- Transactions of a context end without completions of their own; shadow pages return (R218). -/
def State.dropTxns (s : State) (c : Nat) : State :=
  let mine := s.txns.filter fun t => t.ctx == c
  let s := mine.foldl (fun s t => ((s.voteAbort t).dropShadows t).dropDeferred t) s
  let s := mine.foldl (fun s t => if t.isOpen then s.pulse 0x242 0 1 c 0 else s) s
  { s with txns := s.txns.filter fun t => t.ctx != c }.shareSettle

/-- The runs of a context end: pins are released, staged gradients discarded (R127). -/
def State.dropRuns (s : State) (c : Nat) : State :=
  let mine := s.runs.filter fun r => r.ctx == c
  let s := mine.foldl (fun s r => s.unpin c r.seq) s
  { s with runs := s.runs.filter fun r => r.ctx != c,
           objects := s.objects.map fun e => (e.1, { e.2 with staged := e.2.staged.filter fun g => g.ctx != c }) }

/-- Code of a root order in records (R180). -/
def pCode (p : Nat) : Nat := Nat.log2 p

/-- The CRV_ROOT record of a refresh (R180): code, iterations, ε, ν, λ and array-cycles in units of 1,024. -/
def State.rootRecord (s : State) (r : Refresh) (code iters : Nat) (eps nu lam : Word) (units : Nat) : State :=
  s.devEvent 0x0104 1 [BitVec.ofNat 32 r.step,
    BitVec.ofNat 32 (r.block + 2 ^ 12 * code + 2 ^ 16 * iters + 2 ^ 22 * r.shift + 2 ^ 26 * pCode r.p + 2 ^ 28 * r.source),
    eps, nu, lam, BitVec.ofNat 32 units]

/-- Refreshes queued or running. -/
def Curv.all (v : Curv) : List Refresh := v.current.map (·.2) ++ v.queue.flatMap (·.2)

/-- ROOT_REFRESH requests with no refresh left complete (R175). -/
def State.requestsSettle (s : State) : State :=
  let v := s.curv
  let done := v.requests.filter fun q => q.waiting.isEmpty && q.running.isEmpty
  let s := { s with curv := { v with requests := v.requests.filter fun q => !(q.waiting.isEmpty && q.running.isEmpty) } }
  done.foldl (fun s q => s.finishSeq q.ctx q.seq stDone 0 (BitVec.ofNat 32 (q.converged + 65536 * q.failed))) s

/-- The fragment of a refresh that a pair runs ends: its arrays halt, their stores undefined (R104, R165). -/
def State.endFragment (s : State) (p : Nat) : State :=
  let s := s.modPair p fun x => { x with refresh := none, fragment := 0 }
  let halt (s : State) (a : Nat) : State := (s.undefineStore a).modArr a fun x => { x with mode := .halted }
  halt (halt s (2 * p)) (2 * p + 1)

/-- The work of a group's refresh stops: its fragments on pairs and its granary work. -/
def State.stopRefresh (s : State) (g : Nat) : State :=
  let s := (s.pairs.filter fun e => e.2.refresh == some g).foldl (fun s e => s.endFragment e.1) s
  { s with granaries := s.granaries.map fun e => (e.1, { e.2 with items := e.2.items.filter fun i => !(i.work == .rootForm g || i.work == .rootResult g) }) }

/-- The record of an abandoned refresh: what it had formed so far; its array-cycles are left open once it has begun (R180; log entry 5). -/
def State.abandonRecord (s : State) (r : Refresh) : State :=
  if r.stage = 0 then s.rootRecord r 6 0 0 0 0 0
  else
    let (k, s) := s.fresh
    s.rootRecord r 6 r.iters (if r.iters = 0 then 0 else r.eps) r.nu.hi r.lam.hi (Config.freeNat 31 [k] / 1024)

/-- Abandons the refreshes that meet a condition (R161): PENDING is cleared, the record has code 6. -/
def State.abandon (s : State) (p : Refresh → Bool) : State :=
  let gone := s.curv.all.filter p
  let s := (s.curv.current.filter fun e => p e.2).foldl (fun s e => s.stopRefresh e.1) s
  let v := s.curv
  let s := { s with curv := { v with
    queue := v.queue.map fun (e : Nat × List Refresh) => (e.1, e.2.filter fun r => !p r),
    current := v.current.filter fun (e : Nat × Refresh) => !p e.2,
    requests := v.requests.map fun (q : RootRequest) =>
      { q with running := q.running.filter fun b => !(gone.any fun r => r.block == b) } } }
  (gone.foldl (fun s r => (s.modBlock r.block fun b => { b with pending := false }).abandonRecord r) s).requestsSettle

/-- Everything else a context has in flight ends: updates, refresh requests, batches, collectives. -/
def State.dropWork (s : State) (c : Nat) : State :=
  let gone : List Nat := (s.batches.filter fun b => b.ctx == c).flatMap fun b => b.left.map (probKey c)
  let s := { s with gran := s.gran.map fun (g : GranStep) => if g.ctx = c then { g with active := none, applying := [] } else g,
                    curv := { s.curv with requests := s.curv.requests.filter fun (r : RootRequest) => r.ctx != c,
                                          cfgDue := s.curv.cfgDue.filter fun e => e.1 != c,
                                          sealing := s.curv.sealing.filter fun e => e.1 != c },
                    problems := s.problems.map fun (e : Nat × Problem) =>
                      if gone.contains e.1 then (e.1, { e.2 with run := none }) else e,
                    batches := s.batches.filter fun b => b.ctx != c,
                    deltas := s.deltas.filter fun b => b.ctx != c,
                    pairs := s.pairs.map fun (e : Nat × TwinPair) =>
                      if e.2.problem.any (fun (q : Nat × Nat) => q.1 == c) then (e.1, { e.2 with problem := none }) else e,
                    group := { s.group with flights := s.group.flights.filter fun f => f.ctx != c,
                                              queue := s.group.queue.filter fun f => f.ctx != c },
                    signals := s.signals.filter fun g => g.1 != c }
  let s := if (s.ctxD c).kind = .train then s.abandon fun _ => true else s
  s.modCtx c fun x => { x with watches := [], recipeLoads := [] }

/-- Completes every outstanding descriptor of a context with one status: the accepted ones and those held back (row 5). -/
def State.flushDescs (s : State) (c status : Nat) : State × Nat :=
  match s.ctx? c with
  | none => (s, 0)
  | some x =>
    let ds := x.opens.map (·.desc) ++ x.held.map (·.1)
    let s := s.modCtx c fun x => { x with held := [] }
    (ds.foldl (fun s d => s.complete c d status 0 0) s, ds.length)

/-- Pairs on which a context's own work runs, and pairs lent to it. -/
def State.ownRunning (s : State) (c : Nat) : List Nat :=
  (List.range 48).filter fun p => s.pairOwner p == c && !(s.pair p).lent

def State.lentTo (s : State) (c : Nat) : List Nat :=
  (List.range 48).filter fun p => (s.pair p).lent && (s.pair p).running == c

/-- The teardown of a context with a cause code (R300, R327). -/
def State.teardown (s : State) (c cause : Nat) : State :=
  match s.ctx? c with
  | none => s
  | some x =>
    if c = 0 ∨ x.mode = .tornDown then s
    else
      let own := if x.mode = .resident then s.ownRunning c else []
      let lent := s.lentTo c
      -- row 1
      let s := own.foldl (fun s p => s.stopPair p) s
      -- row 2
      let s := lent.foldl (fun s p => s.giveBack p) s
      -- row 3
      let s := ({ s with prus := s.prus.map fun (e : Nat × List PruReq) => (e.1, e.2.filter fun r => r.ctx != c) } : State).dropItems c
      let s := s.dropRequests c
      -- row 4
      let s := (s.dropTxns c).dropRuns c
      let s := s.dropWork c
      -- row 5
      let r := s.flushDescs c (if cause = 2 ∨ cause = 5 then stUncorrectable else stTornDown)
      -- row 6
      let s := r.1.modCtx c fun x => { x with mode := .tornDown, blocked := false, idleSince := none }
      s.event [.steward, .tenant] 0x0002 2 c [BitVec.ofNat 32 c, BitVec.ofNat 32 cause, BitVec.ofNat 32 r.2]

/-- A fault of a context's own work on an array: logged with the instruction address, then cause 1 (R68, R82). -/
def State.ctxFault (s : State) (c unit addr : Nat) : State := (s.rasEntry 8 1 c unit addr).teardown c 1

/-- A fault of the work an array runs. -/
def State.arrFault (s : State) (a addr : Nat) : State := s.ctxFault (s.arrCtx a) a addr

end Sys2Proof.Machine
end

