-- ==== Sys2Proof/Machine/Desc.lean ====
section
/-! DEFINITION. The checks every descriptor meets, acceptance into a context, and retries of descriptors that wait
(R204, R205, R214, R288, R293, R294, R301, R302). -/

namespace Sys2Proof.Machine

/-! ### Detail codes (R312) -/

def dBadOpcode : Nat := 0x0101
def dReserved : Nat := 0x0102
def dSeqOrder : Nat := 0x0103
def dCtxKind : Nat := 0x0104
def dAlign : Nat := 0x0105
def dLocation : Nat := 0x0106
def dIndexRange : Nat := 0x0107
def dChainBroken : Nat := 0x0108
def dRingSize : Nat := 0x0109
def dTokenOverflow : Nat := 0x010A
def dCtxUnknown : Nat := 0x010B
def dMgmtFunc : Nat := 0x010C
def dTxnMember : Nat := 0x0601
def dTxnNotVersioned : Nat := 0x0602
def dTxnRequired : Nat := 0x0603
def dTxnNested : Nat := 0x0604
def dTxnUnknown : Nat := 0x0608
def dTxnCommitting : Nat := 0x0609

/-! ### Checks -/

/-- What the checks of one descriptor find: its authority, the detail of the first format check and of the first limit
check that fails (R294). -/
structure Checks where
  auth : Bool := true
  fmt : Option Nat := none
  lim : Option Nat := none
  deriving DecidableEq, Repr, Inhabited

/-- The detail of the first case that holds. -/
def firstBad : List (Bool × Nat) → Option Nat
  | [] => none
  | (b, d) :: t => if b then some d else firstBad t

/-- Bits of word n of a descriptor outside a mask. -/
def outside (d : Desc) (n mask : Nat) : Bool := d.w n &&& mask != d.w n

/-- Whether any reserved bit of words 2 to 15 is set: `used` gives the masks of the words a layout lists, from word 2. -/
def reservedSet (d : Desc) (used : List Nat) : Bool := (List.range 14).any fun i => outside d (i + 2) (used.getD i 0)

/-- Mask of a whole word, and of the first word of a location (R302). -/
def full : Nat := 0xFFFFFFFF
def locWord : Nat := 0xFF03

/-- Whether the three words at n are a location whose KIND is listed and whose offset or address is a multiple of 64. -/
def locBad (d : Desc) (n : Nat) : Bool := (locOf d n).isNone
def locMisaligned (d : Desc) (n : Nat) : Bool :=
  match locOf d n with | some l => l.offset % 64 != 0 | none => false

def State.isSteward (s : State) (c : Nat) : Bool := (s.ctxD c).port == .steward

/-- Format checks before a descriptor's own: reserved bits of word 0, and the tag of a descriptor that uses none. -/
def commonFmt (d : Desc) (usesTag : Bool) : Option Nat :=
  firstBad [(d.f 0 13 3 != 0, dReserved), (!usesTag && !d.inTxn && d.tag != 0, dReserved)]

/-- Limit checks of R214 for a member: a tag held in its context, and no TXN_COMMIT accepted. -/
def State.memberLim (s : State) (c : Nat) (d : Desc) : Option Nat :=
  if !d.inTxn then none
  else match s.txn? c d.tag with
    | none => some dTxnUnknown
    | some t => if t.isOpen && t.commitSeq.isSome then some dTxnCommitting else none

/-- The outcome of all checks in the order of R294: none to accept, else status and detail. A member of a transaction
that has aborted completes ABORTED_TXN with the detail of the abort (R204). -/
def State.judge (s : State) (c : Nat) (d : Desc) (usesTag : Bool) (k : Checks) : Option (Nat × Nat) :=
  if !k.auth then some (stAuthority, 0)
  else match (commonFmt d usesTag).or k.fmt with
    | some e => some (stFormat, e)
    | none =>
      match s.memberLim c d with
      | some e => some (stLimit, e)
      | none =>
        match (if d.inTxn then s.txn? c d.tag else none) with
        | some t =>
          match t.phase with
          | .aborted e => some (stAbortedTxn, e.toNat)
          | _ => k.lim.map fun e => (stLimit, e)
        | none => k.lim.map fun e => (stLimit, e)

/-! ### Acceptance -/

/-- Marker tag of a descriptor: the context's current marker when MARKED, else 0 (R301). -/
def State.markerFor (s : State) (c : Nat) (d : Desc) : Word := if d.marked then (s.ctxD c).marker else 0

/-- The descriptor becomes the one immediately before the next (CHAIN). -/
def State.noteLast (s : State) (c : Nat) (d : Desc) : State :=
  s.modCtx c fun x => { x with lastSeq := d.seq, lastStatus := none }

/-- A descriptor that does not run completes at once. -/
def State.reject (s : State) (c : Nat) (d : Desc) (status detail : Nat) : State :=
  (s.noteLast c d).writeCompletion c d (s.markerFor c d) status detail 0

/-- Acceptance: the descriptor is open, counted, traced, a member of its transaction, and keeps its context active for
1 ms (R294, R296, R377). -/
def State.accept (s : State) (c : Nat) (d : Desc) : State :=
  let m := s.markerFor c d
  let s := s.noteLast c d
  let s := s.modCtx c fun x =>
    { x with opens := x.opens ++ [{ desc := d, marker := m }], activeUntil := s.now + 1000 * cyclesPerUs, active := true }
  let s := (s.pulse 0x245 0 1 c m).sluice 2 c 0x200 m [d.seq, BitVec.ofNat 32 (d.opcode + 256 * d.f 0 8 8)]
  if d.inTxn then
    match s.txn? c d.tag with
    | some t => s.setTxn { t with members := t.members ++ [d.seq] }
    | none => s
  else s

/-- Changes the waiting state of an open descriptor. -/
def State.setWait (s : State) (c : Nat) (d : Desc) (w : Waiting) : State :=
  s.modCtx c fun x => { x with opens := x.opens.map fun (o : Open) => if o.desc = d then { o with wait := w } else o }

/-- What a member's write came to, for the descriptor that makes it: it goes on, waits to be tried again, or is gone. -/
def WriteResult.run (w : WriteResult) (c : Nat) (d : Desc) (go : State → State) : State :=
  match w with
  | .go s => go s
  | .waits s => s.setWait c d .window
  | .aborted s => s

/-- Prepares a member's writes of several ranges of one region in turn. -/
def State.memberWrites (s : State) (c : Nat) (d : Desc) (reg : Nat) : List (Nat × Nat) → WriteResult
  | [] => .go s
  | (off, n) :: rest =>
    match s.memberWrite c d reg off n with
    | .go s => s.memberWrites c d reg rest
    | .waits s => .waits s
    | .aborted s => .aborted s

/-- The transaction a descriptor is a member of, if any. -/
def State.txnOf (s : State) (c : Nat) (d : Desc) : Option Txn := if d.inTxn then s.txn? c d.tag else none

/-- Whether a location lies in versioned memory. -/
def State.locVersioned (s : State) (c : Nat) (l : Loc) : Bool :=
  match l with
  | .region r _ => s.isVersioned c r
  | _ => false

/-- Whether the context may write a location: a region of its own table, or a slice or host memory. -/
def State.locWritable (s : State) (c : Nat) (l : Loc) : Bool :=
  match l with
  | .region r _ => s.regionHome c r == c
  | _ => true

/-- Format checks of a write (R206): a member writes versioned memory only, and only a member writes it. -/
def State.versionFmt (s : State) (c : Nat) (d : Desc) (l : Loc) : Option Nat :=
  firstBad [(d.inTxn && !s.locVersioned c l, dTxnNotVersioned), (!d.inTxn && s.locVersioned c l, dTxnRequired)]

/-- The weirs that bytes read at one location and written at another pass (R328). -/
def moveWeirs (src dst : Loc) : List Nat :=
  (match src with | .host _ => [2] | .region _ _ => [0] | .slice _ _ => []) ++
    (match dst with | .host _ => [2] | .region _ _ => [1] | .slice _ _ => [])

/-- The HBM weir that bytes read or written at a location pass (R328). -/
def hbmWeir (write : Bool) : Loc → List Nat
  | .region _ _ => [if write then 1 else 0]
  | _ => []

/-- Charges the weirs for a movement of n bytes from one location to another (R328). -/
def State.chargeMove (s : State) (c : Nat) (src dst : Loc) (n : Nat) : State :=
  (moveWeirs src dst).foldl (fun s w => s.charge c w n) s

/-- A descriptor's bytes meet weirs: it goes on where all of them let it pass, else it waits at its engine and is tried again
each cycle (R328; log entry 43). -/
def State.pastWeirs (s : State) (c : Nat) (d : Desc) (weirs : List Nat) (go : State → State) : State :=
  if weirs.all fun w => s.weirLets c w then go s else s.setWait c d .weir

/-- The contexts that are not the management context accept every opcode but for the rules of kind; context 0 accepts
only NOP, the transaction descriptors, WAIT, SIGNAL, MARK and MGMT. -/
def ctx0Accepts (op : Nat) : Bool := [0x01, 0x20, 0x21, 0x22, 0x38, 0x39, 0x3A, 0x48].contains op

def badFor0 (c : Nat) (d : Desc) : Bool := c == 0 && !ctx0Accepts d.opcode

end Sys2Proof.Machine
end

