-- ==== Sys2Proof/Machine/Move.lean ====
section
/-! DEFINITION. The data-movement, synchronisation, tensor-watch and harvest descriptors: their checks and what they do
once accepted (R303, R306, R307, R347, R348, R374–R376). -/

namespace Sys2Proof.Machine

/-! ### NOP -/

def State.checkNop (_ : State) (_ : Nat) (d : Desc) : Checks :=
  { fmt := firstBad [(reservedSet d [], dReserved)] }

def State.startNop (s : State) (c : Nat) (d : Desc) : State := s.finish c d stDone 0 0

/-! ### COPY (R303, R309, R348) -/

def dSrc (d : Desc) : Loc := (locOf d 2).getD (.host 0)
def dDst (d : Desc) : Loc := (locOf d 5).getD (.host 0)
def dLst (d : Desc) : Loc := (locOf d 8).getD (.host 0)

/-- Length of an object's component k, 0 when absent (R222). -/
def State.compLen (s : State) (o : Obj) (k : Nat) : Nat :=
  match (if o.decl.frozen then [(4, o.decl.wc)] else objComponents o.decl).find? fun e => e.1 == k with
  | some e => s.regionLen o.ctx e.2
  | none => 0

def pad4096 (n : Nat) : Nat := (n + 4095) / 4096 * 4096

/-- The object a COPY member restores: SRC is a harvest record in host memory, DST offset 0 of a master (R348). -/
def State.restoreTarget (s : State) (c : Nat) (d : Desc) : Option Obj :=
  match dSrc d, dDst d with
  | .host a, .region r 0 =>
    match s.objOfRegion c r with
    | some (o, 1) =>
      if d.inTxn && !o.decl.frozen && leNat (s.hostRead (s.ctxD c).port a 4) == 0x48565252 then some o else none
    | _ => none
  | _, _ => none

/-- Whether a record's header names the object with its components and lengths, and LENGTH covers the record. -/
def State.recordFits (s : State) (c : Nat) (d : Desc) (o : Obj) : Bool :=
  let h := s.hostRead (s.ctxD c).port (dSrc d).offset 64
  let want := [1, 2, 3, 4].map (s.compLen o)
  let bits := (List.range 4).foldl (fun m k => if want.getD k 0 = 0 then m else m + 2 ^ k) 0
  leNat (sliceBytes h 4 2) == o.decl.num && leNat (sliceBytes h 6 1) % 16 == bits &&
    ((List.range 4).all fun k => leNat (sliceBytes h (32 + 8 * k) 8) == want.getD k 0) &&
    decide (4096 + (want.map pad4096).sum ≤ d.w64 8)

def State.checkCopy (s : State) (c : Nat) (d : Desc) : Checks :=
  let n := d.w64 8
  let src := dSrc d
  let dst := dDst d
  let back := (s.restoreTarget c d).isSome
  { fmt := (firstBad [
      (badFor0 c d, dCtxKind), (reservedSet d [locWord, full, full, locWord, full, full, full, full], dReserved),
      (locBad d 2 || locBad d 5, dReserved), (locMisaligned d 2 || locMisaligned d 5 || n % 64 != 0, dAlign),
      (src.isHost && dst.isHost, dCtxKind)]).or (s.versionFmt c d dst)
    lim := firstBad [
      (!s.locOk c src n || (!back && !s.locOk c dst n) || !s.locWritable c dst, dLocation),
      (back && (match s.restoreTarget c d with | some o => !s.recordFits c d o | none => false), dLocation)] }

/-- Writes bytes at a versioned or plain destination, through the transaction's pages for a member. -/
def State.putAt (s : State) (c : Nat) (d : Desc) (l : Loc) (bs : List Byte) : State := s.locPut c (s.txnOf c d) l bs

/-- Runs `go` once a member's writes of some ranges of a destination are prepared. -/
def State.withWrites (s : State) (c : Nat) (d : Desc) (l : Loc) (ranges : List (Nat × Nat)) (go : State → State) : State :=
  match l with
  | .region r _ => if d.inTxn then (s.memberWrites c d r ranges).run c d go else go s
  | _ => go s

/-- The components of a record written to the object's regions, and its update count for the commit. -/
def State.restoreRecord (s : State) (c : Nat) (d : Desc) (o : Obj) : State :=
  let a := (dSrc d).offset
  let p := (s.ctxD c).port
  let comps := objComponents o.decl
  let prep := comps.foldl (fun (w : WriteResult) k => match w with
    | .go s => s.memberWrites c d k.2 [(0, s.regionLen o.ctx k.2)]
    | w => w) (.go s)
  prep.run c d fun s =>
    let s := s.chargeMove c (dSrc d) (dDst d) (d.w64 8)
    let r := comps.foldl (fun (acc : State × Nat) k =>
      let n := acc.1.compLen o k.1
      (acc.1.putAt c d (.region k.2 0) (acc.1.hostRead p (a + acc.2) n), acc.2 + pad4096 n)) (s, 4096)
    let s := match r.1.txnOf c d with
      | some t => r.1.setTxn { t with counts := tset t.counts o.decl.num (leNat (s.hostRead p (a + 16) 8)) }
      | none => r.1
    s.finish c d stDone 0 0

def State.startCopy (s : State) (c : Nat) (d : Desc) : State :=
  let n := d.w64 8
  if n = 0 then s.finish c d stDoneEmpty 0 0
  else s.pastWeirs c d (moveWeirs (dSrc d) (dDst d)) fun s =>
    match s.restoreTarget c d with
    | some o => s.restoreRecord c d o
    | none =>
      s.withWrites c d (dDst d) [((dDst d).offset, n)] fun s =>
        let s := s.chargeMove c (dSrc d) (dDst d) n
        (s.putAt c d (dDst d) (s.locBytes c (s.txnOf c d) (dSrc d) n)).finish c d stDone 0 0

/-! ### GATHER and SCATTER (R303) -/

def rowMasks : List Nat := [locWord, full, full, locWord, full, full, locWord, full, full, full, full]

/-- Bytes of the index list, and the list. -/
def State.indexList (s : State) (c : Nat) (d : Desc) : List Nat :=
  let bs := s.locBytes c (s.txnOf c d) (dLst d) (4 * d.w 11)
  (List.range (d.w 11)).map fun k => (leWord bs (4 * k)).toNat

/-- Whether every indexed row lies inside what BASE names. -/
def State.rowsInside (s : State) (c : Nat) (d : Desc) (idx : List Nat) : Bool :=
  idx.all fun i => s.locOk c (dSrc d) ((i + 1) * d.w 12)

/-- Checks of both; `dst` is the location written. -/
def State.checkRows (s : State) (c : Nat) (d : Desc) (dst : Loc) : Checks :=
  { fmt := (firstBad [
      (badFor0 c d, dCtxKind), (reservedSet d rowMasks, dReserved),
      (locBad d 2 || locBad d 5 || locBad d 8, dReserved), (decide (2 ^ 24 < d.w 11), dReserved),
      (locMisaligned d 2 || locMisaligned d 5 || locMisaligned d 8 || d.w 12 % 64 != 0, dAlign),
      ((dSrc d).isHost && (dDst d).isHost, dCtxKind)]).or (s.versionFmt c d dst)
    lim := firstBad [
      (!s.locOk c (dSrc d) 0 || !s.locOk c (dDst d) (d.w 11 * d.w 12) || !s.locOk c (dLst d) (4 * d.w 11) ||
        !s.locWritable c dst, dLocation)] }

def State.checkGather (s : State) (c : Nat) (d : Desc) : Checks := s.checkRows c d (dDst d)
def State.checkScatter (s : State) (c : Nat) (d : Desc) : Checks := s.checkRows c d (dSrc d)

/-- The location k bytes further on. -/
def Loc.plus : Loc → Nat → Loc
  | .host a, k => .host (a + k)
  | .region r o, k => .region r (o + k)
  | .slice i o, k => .slice i (o + k)

/-- Moves rows in list order between two places given for row k of the list and the index there. -/
def State.moveRows (s : State) (c : Nat) (d : Desc) (src dst : Nat → Nat → Loc) (idx : List Nat) : State :=
  (List.range idx.length).foldl (fun s k =>
    s.putAt c d (dst k (idx.getD k 0)) (s.locBytes c (s.txnOf c d) (src k (idx.getD k 0)) (d.w 12))) s

def State.startGather (s : State) (c : Nat) (d : Desc) : State :=
  let idx := s.indexList c d
  let rb := d.w 12
  if d.w 11 = 0 then s.finish c d stDoneEmpty 0 0
  else if !s.rowsInside c d idx then s.finish c d stLimit dIndexRange 0
  else
    s.pastWeirs c d (moveWeirs (dSrc d) (dDst d)) fun s => s.withWrites c d (dDst d) [((dDst d).offset, d.w 11 * rb)] fun s =>
      let s := s.chargeMove c (dSrc d) (dDst d) (d.w 11 * rb)
      (s.moveRows c d (fun _ i => (dSrc d).plus (i * rb)) (fun k _ => (dDst d).plus (k * rb)) idx).finish c d stDone 0 0

def State.startScatter (s : State) (c : Nat) (d : Desc) : State :=
  let idx := s.indexList c d
  let rb := d.w 12
  if d.w 11 = 0 then s.finish c d stDoneEmpty 0 0
  else if !s.rowsInside c d idx then s.finish c d stLimit dIndexRange 0
  else
    s.pastWeirs c d (moveWeirs (dDst d) (dSrc d)) fun s => s.withWrites c d (dSrc d) (idx.map fun i => ((dSrc d).offset + i * rb, rb)) fun s =>
      let s := s.chargeMove c (dDst d) (dSrc d) (d.w 11 * rb)
      (s.moveRows c d (fun k _ => (dDst d).plus (k * rb)) (fun _ i => (dSrc d).plus (i * rb)) idx).finish c d stDone 0 0

/-! ### WAIT, SIGNAL, MARK (R306) -/

/-- Whether a context number may be named from a context's port: the tenant port may not name the other port's. -/
def State.mayName (s : State) (c n : Nat) : Bool :=
  s.isSteward c || (match s.ctx? n with | some x => x.port == .tenant | none => true)

/-- Frame and phase of a WAIT FRAME as one stamp. -/
def waitStamp (d : Desc) : Nat := (d.w 3 + 2 ^ 32 * d.f 4 0 16) * 65536 + d.f 5 0 16

/-- Whether a context has reached a SEQ, and has completed it and all before it that it took (R306). -/
def State.seqDone (s : State) (n : Nat) (q : Word) : Bool :=
  match s.ctx? n with
  | none => true
  | some x =>
    let reached := match x.ring.expect with | some e => seqBefore q e | none => false
    let open_ := x.opens.map (·.desc.seq) ++ (x.held.filter fun h => !h.2).map (·.1.seq)
    reached && !(open_.any fun k => k == q || seqBefore k q)

def State.checkWaitFrame (_ : State) (_ : Nat) (d : Desc) : Checks :=
  { fmt := firstBad [(reservedSet d [3, full, 0xFFFF, 0xFFFF], dReserved)] }

def State.checkWaitToken (_ : State) (_ : Nat) (d : Desc) : Checks :=
  { fmt := firstBad [(reservedSet d [3, 31, full] || d.w 4 == 0, dReserved)] }

def State.checkWaitSeq (s : State) (c : Nat) (d : Desc) : Checks :=
  { auth := s.mayName c (d.f 3 0 8)
    fmt := firstBad [(reservedSet d [3, 255, full], dReserved)]
    lim := firstBad [((s.ctx? (d.f 3 0 8)).isNone, dCtxUnknown)] }

/-- Whether a transaction has passed its votes and its frame has begun: its commit comes before a release (R219, R257). -/
def State.commitDue (s : State) : Bool :=
  s.txns.any fun t => t.pastVote && t.atFrame && decide (t.frame ≤ s.cad.frame.toNat)

/-- Whether a batch may be released now. -/
def State.batchReady (s : State) (b : Batch) : Bool :=
  !b.released && !s.commitDue && (match b.release with | some f => decide (f ≤ s.cad.frame.toNat) | none => true) &&
  !((s.batches.takeWhile fun x => x.seq != b.seq || x.ctx != b.ctx).any fun x =>
    x.ctx == b.ctx && decide (x.first < b.first + b.count) && decide (b.first < x.first + x.count))

/-- Whether commits or releases of the frame are still to come: WAIT FRAME descriptors complete after them (R359). -/
def State.frameWork (s : State) : Bool := s.commitDue || s.batches.any fun b => b.release.isSome && s.batchReady b

/-- Completes a WAIT FRAME whose moment has come; a moment already past at acceptance gives the frames since. -/
def State.startWaitFrame (s : State) (c : Nat) (d : Desc) : State :=
  let t := waitStamp d
  if t ≤ s.stamp then s.finish c d stDone 0 (BitVec.ofNat 32 (min ((s.stamp - t) / 65536) 0xFFFFFFFF))
  else s.setWait c d (.frame (t / 65536) (t % 65536))

def State.retryWaitFrame (s : State) (c : Nat) (d : Desc) : State :=
  if waitStamp d ≤ s.stamp ∧ !s.frameWork then s.finish c d stDone 0 (BitVec.ofNat 32 (min ((s.stamp - waitStamp d) / 65536) 0xFFFFFFFF)) else s

def State.startWaitToken (s : State) (c : Nat) (d : Desc) : State :=
  let k := d.f 3 0 5
  let v := tgetD (s.ctxD c).tokens k 0
  if d.w 4 ≤ v.toNat then
    (s.modCtx c fun x => { x with tokens := tset x.tokens k (v - d.w4) }).finish c d stDone 0 0
  else s.setWait c d (.token k (d.w 4))

def State.startWaitSeq (s : State) (c : Nat) (d : Desc) : State :=
  if s.seqDone (d.f 3 0 8) d.w4 then s.finish c d stDone 0 0 else s.setWait c d (.seq (d.f 3 0 8) d.w4)

def State.checkSignal (s : State) (c : Nat) (d : Desc) : Checks :=
  let n := d.f 3 0 8
  { auth := s.mayName c n
    fmt := firstBad [(reservedSet d [31, 255, full] || d.w 4 == 0, dReserved)]
    lim := firstBad [((s.ctx? n).isNone, dCtxUnknown),
      (decide (2 ^ 32 ≤ (tgetD (s.ctxD n).tokens (d.f 2 0 5) 0).toNat + d.w 4), dTokenOverflow)] }

def State.startSignal (s : State) (c : Nat) (d : Desc) : State :=
  (s.modCtx (d.f 3 0 8) fun x =>
    { x with tokens := tset x.tokens (d.f 2 0 5) (tgetD x.tokens (d.f 2 0 5) 0 + d.w4) }).finish c d stDone 0 0

def State.checkMark (_ : State) (_ : Nat) (d : Desc) : Checks :=
  { fmt := firstBad [(reservedSet d [full, 1], dReserved)] }

def State.startMark (s : State) (c : Nat) (d : Desc) : State :=
  ((s.modCtx c fun x => { x with marker := d.w2 }).markRecord c 0x200 d.w2 (d.f 3 0 1 == 1) d.seq).finish c d stDone 0 0

/-! ### WATCH (R374–R376) -/

/-- A tensor as a watch reads it: its bytes row by row, elements in a row, format, and the stack of each row's granule. -/
structure WatchView where
  rows : List (List Byte) := []
  elems : Nat := 0
  fmt : Nat := 0
  /-- stack holding element e of row v; one part for all where no granary holds it -/
  stackAt : Nat → Nat → Nat := fun _ _ => 0

/-- Byte of a row at which element e lies. -/
def elemByte (fmt e : Nat) : Nat := if isBlock fmt then e / 64 * 66 else (rowBytes fmt (e + 1)) - rowBytes fmt 1

/-- Values of a statistics read as binary32 words: blocks expanded, high parts of pairs, integers converted (R375). -/
def watchWord (fmt : Nat) (row : List Byte) (e : Nat) : Word :=
  match rowElem fmt true row e with
  | .fx v => toB32 (.int v)
  | .f64 w => BitVec.ofNat 32 (convertFmt b64 b32 0 true w.toNat).1
  | x => toB32 x

/-- Running minimum and maximum of finite values, with −0 below +0. -/
def wordKey (w : Word) : Int := if w.toNat < 2 ^ 31 then (w.toNat : Int) else -(((w.toNat - 2 ^ 31 : Nat) : Int)) - 1

structure WatchSum where
  count : Nat := 0
  lo : Option Word := none
  hi : Option Word := none
  nonfin : Nat := 0
  sums : Table (Pair × Pair) := []
  hist : List Nat := []
  deriving Inhabited

def watchAdd (isInt : Bool) (a : WatchSum) (stack : Nat) (w : Word) : WatchSum :=
  let a := { a with count := a.count + 1, hist := if isInt then a.hist else histAdd a.hist (histIndex 5 w.toNat) }
  match f32Val w with
  | .fin _ _ _ =>
    let old := tgetD a.sums stack ({}, {})
    let p := pairOf w
    { a with sums := tset a.sums stack (pairAdd old.1 p, pairAdd old.2 (pairMul p p))
             lo := some (match a.lo with | some l => if wordKey w < wordKey l then w else l | none => w)
             hi := some (match a.hi with | some h => if wordKey h < wordKey w then w else h | none => w) }
  | _ => { a with nonfin := a.nonfin + 1 }

/-- The statistics of a view, as the bytes from byte 32 of a slot. -/
def watchStats (v : WatchView) : List Byte :=
  let isInt := decide (v.fmt ≤ 3)
  let a := (List.range v.rows.length).foldl (fun a r =>
    (List.range v.elems).foldl (fun a e => watchAdd isInt a (v.stackAt r e) (watchWord v.fmt (v.rows.getD r []) e)) a)
    ({} : WatchSum)
  let total := a.sums.foldl (fun (t : Option (Pair × Pair)) e => match t with
    | none => some e.2
    | some x => some (pairAdd x.1 e.2.1, pairAdd x.2 e.2.2)) none
  let t := total.getD ({}, {})
  leBytes 8 a.count ++ leBytes 4 (a.lo.getD 0x7F800000).toNat ++ leBytes 4 (a.hi.getD 0xFF800000).toNat ++
    leBytes 4 a.nonfin ++ leBytes 4 0 ++ elemBytes (.pair t.1) ++ elemBytes (.pair t.2) ++
    histBytes (if a.hist.isEmpty then histZero else a.hist)

/-- The digest of stored bytes (R376). -/
def watchDigest (bs : List Byte) (length step : Nat) : List Byte :=
  let z := mix (BitVec.ofNat 64 length) (BitVec.ofNat 32 (digestChunks 8 bs)) (BitVec.ofNat 32 (digestChunks 8 bs / 2 ^ 32))
    (BitVec.ofNat 32 step) (BitVec.ofNat 32 (step / 2 ^ 32))
  leBytes 8 (z.2.1.toNat * 2 ^ 32 + z.1.toNat)

/-- Stack that holds a byte of a region. -/
def State.stackOfByte (s : State) (c reg off : Nat) : Nat :=
  match (s.region? c reg).bind fun r => r.place off with
  | some p => p.1
  | none => 0

/-- A location read once: one row of consecutive elements (TRIG 0). -/
def State.viewOnce (s : State) (c : Nat) (txn : Option Txn) (l : Loc) (len fmt : Nat) : WatchView :=
  let n := if isBlock fmt then len / 66 * 64 else if fmt = 0 then 2 * len else len / rowBytes fmt 1
  { rows := [s.locBytes c txn l len], elems := n, fmt := fmt,
    stackAt := fun _ e => match l with | .region r o => s.stackOfByte c r (o + elemByte fmt e) | _ => 0 }

/-- The result slot of a watch read: header, then statistics or digest (R375, R376). -/
def watchSlot (point mode n stamp step : Nat) (seq : Word) (body : List Byte) : List Byte :=
  leBytes 4 (point + 16 * mode) ++ leBytes 4 n ++ leBytes 8 stamp ++ leBytes 4 step ++ leBytes 4 (step / 2 ^ 32 % 256) ++
    leBytes 4 seq.toNat ++ leBytes 4 0 ++ body

def Watch.toLoc (w : Watch) : Loc :=
  match bitsOf w.loc.toNat 0 2 with
  | 1 => .region (bitsOf w.loc.toNat 8 8) (w.locLo.toNat + 2 ^ 32 * w.locHi.toNat)
  | 2 => .slice (bitsOf w.loc.toNat 8 8) (w.locLo.toNat + 2 ^ 32 * w.locHi.toNat)
  | _ => .host (w.locLo.toNat + 2 ^ 32 * w.locHi.toNat)

end Sys2Proof.Machine

namespace Sys2Proof

/-- The output tensor of a stage that a location names: its region, rows, elements of a row and format (R374). -/
def PlanBody.watchOutput (b : PlanBody) (stage : Nat) (l : Machine.Loc) : Option (Nat × Nat × Nat × Nat) :=
  match l with
  | .region reg _ => (b.outputs.find? fun o => o.1 == stage && o.2.1 == reg).map fun o => o.2
  | _ => none

end Sys2Proof

namespace Sys2Proof.Machine

/-- The plan slot and output tensor an armed point watches: an output of the stage that the location names. -/
def State.watchOutput (s : State) (c stage : Nat) (l : Loc) : Option (Nat × Nat × Nat × Nat × Nat) :=
  (s.ctxD c).plans.findSome? fun e => (e.2.body.watchOutput stage l).map fun o => (e.1, o)

/-- Checks of WATCH: point off, statistics or digest alike. -/
def State.checkWatch (s : State) (c : Nat) (d : Desc) : Checks :=
  let once := d.f 2 6 1 == 0
  let fmt := d.f 8 0 4
  let mode := d.f 2 4 2
  { fmt := firstBad [
      (badFor0 c d, dCtxKind), (d.inTxn, dTxnMember),
      (reservedSet d [0xFFFF007F, locWord, full, full, full, full, 15, full, full], dReserved),
      (mode == 3 || (decide (mode ≠ 0) && (decide (9 < fmt) || locBad d 3)), dReserved),
      (decide (mode ≠ 0) && once && isBlock fmt && d.w64 6 % 66 != 0, dReserved),
      (decide (mode ≠ 0) && (locMisaligned d 3 || (once && !isBlock fmt && d.w64 6 % 64 != 0)), dAlign)]
    lim := firstBad [
      (decide (mode ≠ 0) && !once && ((s.ctxD c).kind == .solve || (s.watchOutput c (d.f 2 16 16) ((locOf d 3).getD (.host 0))).isNone), 0x0904),
      (decide (mode ≠ 0) && !s.locOk c ((locOf d 3).getD (.host 0)) (if once then d.w64 6 else 0), dLocation)] }

def State.checkWatchOff (s : State) (c : Nat) (d : Desc) : Checks := s.checkWatch c d
def State.checkWatchStatistics (s : State) (c : Nat) (d : Desc) : Checks := s.checkWatch c d
def State.checkWatchDigest (s : State) (c : Nat) (d : Desc) : Checks := s.checkWatch c d

def State.startWatchOff (s : State) (c : Nat) (d : Desc) : State :=
  (s.modCtx c fun x => { x with watches := tdel x.watches (d.f 2 0 4) }).finish c d stDone 0 0

/-- Arms a point, or reads once into slot 0. -/
def State.startWatchOn (s : State) (c : Nat) (d : Desc) (digest : Bool) : State :=
  let pt := d.f 2 0 4
  let l := (locOf d 3).getD (.host 0)
  let res := d.w64 9
  if d.f 2 6 1 = 1 then
    let plan := match s.watchOutput c (d.f 2 16 16) l with | some o => o.1 | none => 0
    let w : Watch := { digest := digest, stage := d.f 2 16 16, loc := d.w3, locLo := d.w4, locHi := d.w5, len := d.w64 6,
                       fmt := d.f 8 0 4, result := res, count := 0, plan := plan }
    (s.modCtx c fun x => { x with watches := tset x.watches pt w }).finish c d stDone 0 0
  else if d.w64 6 = 0 then s.finish c d stDoneEmpty 0 0
  else
    let body := if digest then watchDigest (s.locBytes c none l (d.w64 6)) (d.w64 6) 0
      else watchStats (s.viewOnce c none l (d.w64 6) (d.f 8 0 4))
    (s.ctxWrite c (s.ctxD c).port res (watchSlot pt (if digest then 2 else 1) 0 s.stamp 0 0 body)).finish c d stDone 0 0

def State.startWatchStatistics (s : State) (c : Nat) (d : Desc) : State := s.startWatchOn c d false
def State.startWatchDigest (s : State) (c : Nat) (d : Desc) : State := s.startWatchOn c d true

/-! ### HARVEST (R22, R307, R347) -/

/-- Objects a HARVEST copies: trained objects of the context in the range, with a committed version. -/
def State.harvestList (s : State) (c : Nat) (d : Desc) : List Obj :=
  (s.objects.map (·.2)).filter fun o =>
    decide (d.f 2 0 16 ≤ o.decl.num) && decide (o.decl.num < d.f 2 0 16 + d.f 3 0 16) && o.ctx == c && !o.decl.frozen &&
      decide (o.version ≠ 0)

/-- Selected components that an object has. -/
def harvestComps (d : Desc) (o : Obj) : List (Nat × Nat) :=
  (objComponents o.decl).filter fun k => d.f 4 (k.1 - 1) 1 == 1

def State.recordSize (s : State) (d : Desc) (o : Obj) : Nat :=
  4096 + ((harvestComps d o).map fun k => pad4096 (s.regionLen o.ctx k.2)).sum

def State.imageSize (s : State) (c : Nat) (d : Desc) : Nat := 4096 + ((s.harvestList c d).map (s.recordSize d)).sum

def State.checkHarvest (s : State) (c : Nat) (d : Desc) : Checks :=
  { fmt := firstBad [
      (badFor0 c d, dCtxKind), (reservedSet d [0xFFFF, 0xFFFF, 15, full, full, full, full], dReserved),
      (d.inTxn, dTxnMember), ((s.ctxD c).kind != .train, dCtxKind), (d.w64 5 % 4096 != 0, dAlign)]
    lim := firstBad [(d.f 3 0 16 != 0 && decide (d.w64 7 < s.imageSize c d), 0x0903)] }

/-- One object record, padded. -/
def State.harvestRecord (s : State) (d : Desc) (o : Obj) : List Byte :=
  let ks := harvestComps d o
  let lens := [1, 2, 3, 4].map fun k => match ks.find? fun e => e.1 == k with | some e => s.regionLen o.ctx e.2 | none => 0
  let head := leBytes 4 0x48565252 ++ leBytes 2 o.decl.num ++ leBytes 1 ((ks.map fun k => 2 ^ (k.1 - 1)).sum) ++ leBytes 1 0 ++
    leBytes 8 o.version ++ leBytes 8 o.updates ++ leBytes 8 (s.objDigest none o o.updates).toNat ++ lens.flatMap (leBytes 8)
  head ++ List.replicate (4096 - head.length) 0 ++ ks.flatMap fun k =>
    let n := s.regionLen o.ctx k.2
    s.regionBytes o.ctx k.2 0 n ++ List.replicate (pad4096 n - n) 0

/-- Own rank, or all ones outside a group. -/
def State.rankWord (s : State) : Nat := if s.rf .colCfg 7 7 = 0 then 0xFFFFFFFF else s.rf .colCfg 1 6

def State.startHarvest (s : State) (c : Nat) (d : Desc) : State :=
  let os := s.harvestList c d
  if d.f 3 0 16 = 0 then s.finish c d stDoneEmpty 0 0
  else if (match s.gran with | some g => g.window && g.ctx == c | none => false) then s.setWait c d .window
  else s.pastWeirs c d [0, 2] fun s =>
    let size := s.imageSize c d
    let head := leBytes 4 0x48565354 ++ leBytes 4 0x00010000 ++ leBytes 8 size ++ leBytes 4 s.rankWord ++ leBytes 4 os.length ++
      leBytes 8 s.stamp
    let img := head ++ List.replicate (4096 - head.length) 0 ++ os.flatMap (s.harvestRecord d)
    ((s.ctxWrite c (s.ctxD c).port (d.w64 5) img).chargeMove c (.region 0 0) (.host 0) size).finish c d stDone 0 (BitVec.ofNat 32 os.length)

end Sys2Proof.Machine
end

