-- ==== Sys2Proof/Machine/Cadence.lean ====
section
/-! DEFINITION. The cadence unit: edges, lock, holdover, anchors, the internal source, PPS (R352–R361). Times are in
eighths of a cycle; periods and intervals in cycles. -/

namespace Sys2Proof.Machine

/-- NOMINAL in cycles (R354). -/
def State.nominal (s : State) : Nat := s.rf .cadPeriod 38 26 * cyclesPerUs

/-- W for the period in use. -/
def State.cadWindow (s : State) : Nat := s.cad.period / 2 ^ s.rf .cadCfg 1 4

def oneMs : Nat := 8 * 1000 * cyclesPerUs

/-- Changes the cadence unit. -/
def State.setCad (s : State) (f : Cad → Cad) : State := { s with cad := f s.cad }

/-- Acquiring, with no edge yet (R354). -/
def Cad.acquire (c : Cad) : Cad := { c with mode := .acquiring, lastEdge := none, interval := none, good := 0 }

/-- A write of SOURCE takes effect at a boundary (R354). -/
def State.takeSource (s : State) : State :=
  let src := s.rf .cadCfg 0 1 == 1
  if src == s.cad.source then s
  else if src then s.setCad fun c => { c with source := true, mode := .locked, period := s.nominal }
  else s.setCad fun c => { c.acquire with source := false, period := s.nominal }

/-- Whether the anchor is armed and, with ALIGN_PPS, its PPS edge has come (R356). -/
def State.anchorArmed (s : State) : Bool :=
  s.rf .cadAnchor 48 1 == 1 && (s.rf .cadAnchor 49 1 == 0 || s.cad.ppsSeen)

/-- Whether an armed anchor applies at a boundary; `resync` where a RESYNC edge makes it (R356). -/
def State.anchorApplies (s : State) (resync : Bool) : Bool :=
  s.anchorArmed && (resync || s.rf .cadAnchor 50 1 == 0 || s.cad.source)

/-- An anchor skips the frames after `old`: a prepared AT_FRAME commit of a skipped frame is due at the anchored boundary
with LATE_OK and aborts FRAME_LATE without it (R219, R356; log entry 57). -/
def State.skipFrames (s : State) (old : Nat) : State :=
  let late := s.txns.filter fun t =>
    (t.phase == .prepared || t.phase == .voted) && t.atFrame && !t.lateOk && decide (old < t.frame) &&
      decide (t.frame < s.cad.frame.toNat)
  late.foldl (fun s t => s.abortTxn t.ctx t.tag dFrameLate none) s

/-- A frame boundary at a time: frame number or anchor, phase 0, FRAME_OUT (R353, R356, R359). -/
def State.frameBoundary (s : State) (t : Nat) (resync : Bool) : State :=
  let s := s.takeSource
  let apply := s.anchorApplies resync
  let frame := if apply then BitVec.ofNat 48 (s.rf .cadAnchor 0 48) else s.cad.frame + 1
  let s := if apply then s.setField .cadAnchor 0 .steward 48 1 0 else s
  let old := s.cad.frame.toNat
  (s.setCad fun c =>
    { c with frame := frame, anchored := c.anchored || apply, boundary := t, latched := c.period,
             holdFrames := if c.mode = .holdover then c.holdFrames + 1 else c.holdFrames,
             outUntil := t + 8 * cyclesPerUs * s.rf .cadCfg 8 8 }).skipFrames old

/-- The error of an accepted edge, in eighths of a cycle (R355). -/
def State.edgeError (s : State) (e : Int) : State :=
  s.setCad fun c => { c with jitterLast := min 32767 (max (-32768) e), jitterMax := min 65535 (max c.jitterMax e.natAbs) }

/-- A stray edge (R355, R358). -/
def State.strayEdge (s : State) (t : Nat) : State :=
  let w := s.cadWindow
  s.setCad fun c =>
    let c := { c with stray := min 255 (c.stray + 1) }
    if c.mode ≠ .holdover then c
    else
      let near := match c.lastStray with
        | some u => decide ((((t - u) / 8 : Nat) : Int) - (c.period : Int) ≤ w) && decide ((c.period : Int) - (((t - u) / 8 : Nat) : Int) ≤ w)
        | none => false
      let run := if near then c.strayRun + 1 else 1
      { c with aligned := 0, strayRun := run, lastStray := some t, misaligned := c.misaligned || decide (4 ≤ run) }

/-- Whether two intervals lie within a window of each other. -/
def within (a b w : Nat) : Bool := decide (a ≤ b + w) && decide (b ≤ a + w)

/-- An edge accepted while acquiring: P is the last interval; three intervals in a row, each within W of the one before
it, lock the unit (R354). -/
def State.acquireEdge (s : State) (t : Nat) : State :=
  match s.cad.lastEdge with
  | none => (s.setCad fun c => { c with lastEdge := some t }).frameBoundary t false
  | some l =>
    let i := (t - l) / 8
    let s := s.edgeError ((t : Int) - (l + 8 * s.cad.period : Nat))
    let s := s.setCad fun c => { c with period := i, lastEdge := some t }
    let w := s.cadWindow
    let s := s.setCad fun c =>
      let good := match c.interval with
        | some j => if within i j w then c.good + 1 else 0
        | none => 0
      { c with interval := some i, good := good, mode := if 3 ≤ good then .locked else .acquiring }
    s.frameBoundary t false

/-- An edge while locked: accepted within the window (R354). -/
def State.lockedEdge (s : State) (t : Nat) : State :=
  match s.cad.lastEdge with
  | none => s.strayEdge t
  | some l =>
    let due := l + 8 * s.cad.period
    let w := 8 * s.cadWindow
    if t + w < due ∨ (due + w) / 8 < t / 8 then s.strayEdge t
    else
      let i := (t - l) / 8
      let s := s.edgeError ((t : Int) - (due : Nat))
      (s.setCad fun c =>
        { c with period := ((c.period : Int) + ((i : Int) - c.period) / 8).toNat, lastEdge := some t, interval := some i }).frameBoundary t false

/-- An aligned edge in holdover: the new L; `place` where it takes its boundary's place. RESTORE of them in a row lock
the unit again and write CAD_RESTORED (R358). -/
def State.alignedEdge (s : State) (t : Nat) (e : Int) (place : Bool) : State :=
  let s := s.edgeError e
  let s := s.setCad fun c => { c with lastEdge := some t, hold := 1, strayRun := 0, lastStray := none, absorbed := true,
                                      aligned := (if place && !c.absorbed then 0 else c.aligned) + 1 }
  let s := if place then s.frameBoundary t false else s
  if s.cad.mode = .holdover ∧ s.rf .cadCfg 5 3 ≤ s.cad.aligned then
    let s := s.setCad fun c => { c with mode := .locked }
    s.event [.steward, .tenant] 0x0021 0 0 [BitVec.ofNat 32 s.cad.frame.toNat, BitVec.ofNat 32 s.cad.holdFrames, BitVec.ofInt 32 e]
  else s

/-- An edge in holdover (R358); none less than 1 ms after a boundary makes another (R352). -/
def State.holdoverEdge (s : State) (t : Nat) : State :=
  let c := s.cad
  let l := c.lastEdge.getD 0
  let w := 8 * s.cadWindow
  let grid := l + 8 * c.period * (c.hold - 1)
  let next := l + 8 * c.period * c.hold
  if !c.absorbed && decide (t ≤ c.boundary + w) then s.alignedEdge t ((t : Int) - (grid : Nat)) false
  else if c.boundary + oneMs ≤ t ∧ next ≤ t + w then s.alignedEdge t ((t : Int) - (next : Nat)) true
  else s.strayEdge t

/-- A RESYNC edge is the anchored boundary; the unit acquires with P kept (R356). -/
def State.resyncEdge (s : State) (t : Nat) : State :=
  let s := match s.cad.lastEdge with
    | some l => s.edgeError ((t : Int) - (l + 8 * s.cad.period : Nat))
    | none => s
  (s.setCad fun c => { c.acquire with lastEdge := some t, misaligned := false }).frameBoundary t true

/-- CADENCE_IN: a rising edge in the current cycle (R352–R358). -/
def execCadenceIn (eighth : Nat) (s : State) : Host.Outcome State Fault Refusal :=
  let t := 8 * s.now + eighth % 8
  let late := decide (s.cad.boundary + oneMs ≤ t)
  if !s.cad.running then .next s
  else if s.anchorArmed && s.rf .cadAnchor 50 1 == 1 && !s.cad.source && late then .next (s.resyncEdge t)
  else if s.cad.mode == .holdover then .next (s.holdoverEdge t)
  else if !late || s.cad.source then .next (s.strayEdge t)
  else match s.cad.mode with
    | .acquiring => .next (s.acquireEdge t)
    | _ => .next (s.lockedEdge t)

/-- Enters holdover at L + P + W (R357). -/
def State.enterHoldover (s : State) (l : Nat) : State :=
  let p := s.cad.period
  let s := s.setCad fun c => { c with mode := .holdover, hold := 2, holdFrames := 0, aligned := 0, strayRun := 0, lastStray := none, absorbed := false }
  let s := s.frameBoundary (l + 8 * (p + s.cadWindow)) false
  s.event [.steward, .tenant] 0x0020 2 0 [BitVec.ofNat 32 s.cad.frame.toNat, BitVec.ofNat 32 p, BitVec.ofNat 32 (p / 2 ^ 32)]

/-- A later holdover boundary, on the grid of the last real edge. -/
def State.holdoverNext (s : State) (l : Nat) : State :=
  let t := l + 8 * s.cad.period * s.cad.hold
  let s := s.setCad fun c => { c with hold := c.hold + 1, aligned := if c.absorbed then c.aligned else 0, absorbed := false }
  s.frameBoundary t false

/-- HOLDOVER_BOUNDARY, once its time has come. -/
def execHoldoverBoundary (s : State) : Host.Outcome State Fault Refusal :=
  match s.cad.lastEdge with
  | none => .next s
  | some l =>
    let t := 8 * s.now + 7
    if !s.cad.running || s.cad.source then .next s
    else match s.cad.mode with
      | .locked => if l + 8 * (s.cad.period + s.cadWindow) ≤ t then .next (s.enterHoldover l) else .next s
      | .holdover => if l + 8 * s.cad.period * s.cad.hold ≤ t then .next (s.holdoverNext l) else .next s
      | .acquiring => .next s

/-- INTERNAL_BOUNDARY: every NOMINAL with SOURCE internal; the first one also where an acquiring unit sees no edge at which
the switch could take effect (log entry 39). -/
def execInternalBoundary (s : State) : Host.Outcome State Fault Refusal :=
  let due := s.cad.boundary + 8 * s.nominal
  let on := s.cad.source || (s.rf .cadCfg 0 1 == 1 && s.cad.mode == .acquiring)
  if s.cad.running && on && decide (due ≤ 8 * s.now + 7) then
    let s := if s.cad.source then s.setCad fun c => { c with period := s.nominal } else s
    .next (s.frameBoundary due false)
  else .next s

/-- PPS_IN: the interval since the last edge, PPS_OK where it is 1 s ± 1 ms (R361). -/
def execPpsIn (s : State) : Host.Outcome State Fault Refusal :=
  if !s.cad.running then .next s
  else
    let c := s.cad
    let c := match c.ppsEdge with
      | some u => { c with ppsCycles := min (s.now - u) (2 ^ 32 - 1), ppsOk := within (s.now - u) (1000000 * cyclesPerUs) (1000 * cyclesPerUs) }
      | none => c
    .next { s with cad := { c with ppsEdge := some s.now, ppsSeen := true } }

/-- PPS_TIMEOUT: 1.5 s without an edge. -/
def execPpsTimeout (s : State) : Host.Outcome State Fault Refusal :=
  .next (if s.lastedFor s.cad.ppsEdge (1500000 * cyclesPerUs) then s.setCad fun c => { c with ppsOk := false } else s)

/-- WAIT_FRAME_REACHED: WAIT FRAME descriptors of a resident context whose moment has come complete (R306, R359). -/
def execWaitFrameReached (c : Nat) (s : State) : Host.Outcome State Fault Refusal :=
  let x := s.ctxD c
  if x.mode ≠ .resident then .next s
  else .next (x.opens.foldl (fun s o => match o.wait with | .frame _ _ => s.retryWaitFrame c o.desc | _ => s) s)

end Sys2Proof.Machine
end

