-- ==== Sys2Proof/Machine/TileCode.lean ====
section
/-! DEFINITION. The encoding of tile instructions (R84–R86), which fields are reserved and which values are in range,
and the checks of a tile program at PLAN_LOAD (R45, R46, R51, R84–R96). -/

namespace Sys2Proof.Machine

def boolBit (b : Bool) : Nat := if b then 1 else 0

def word (n : Nat) : Word := BitVec.ofNat 32 n

/-- A signed field of n bits. -/
def signField (n : Nat) (v : Int) : Nat := (v % 2 ^ n).toNat

/-- The words of an instruction (R84, R86). -/
def encodeTile : Tile → List Word
  | .cfgMode fs fm strict rnd acc sgnS sgnM =>
    [word (0x01 <<< 26 + 0 <<< 23 + fs <<< 19 + fm <<< 15 + boolBit strict <<< 14 + rnd <<< 11 + acc <<< 9 +
      boolBit sgnS <<< 8 + boolBit sgnM <<< 7)]
  | .cfgAddr areg origin stride wrap =>
    [word (0x01 <<< 26 + 1 <<< 23 + areg <<< 19 + origin), word (signField 16 stride + wrap <<< 16)]
  | .cfgPos preg base rowlen adv =>
    [word (0x01 <<< 26 + 2 <<< 23 + preg <<< 21), word base, word (base / 0x100000000), word rowlen,
      word (signField 32 adv)]
  | .cfgFxq qa qb qpIn qpOut =>
    [word (0x01 <<< 26 + 3 <<< 23 + qa <<< 18 + qb <<< 13 + qpIn <<< 8 + qpOut <<< 3)]
  | .cfgStream stream => [word (0x01 <<< 26 + 4 <<< 23), word stream]
  | .lds areg buf orient nrows nelem =>
    [word (0x02 <<< 26 + areg <<< 22 + buf <<< 21 + boolBit orient <<< 20 + (nrows - 1) <<< 13 + (nelem - 1) <<< 3)]
  | .strm areg buf nvec offer take =>
    [word (0x03 <<< 26 + areg <<< 22 + buf <<< 21 + (nvec - 1) <<< 13 + boolBit offer <<< 12 + take <<< 10)]
  | .maccZero => [word (0x04 <<< 26)]
  | .maccStore areg => [word (0x04 <<< 26 + 1 <<< 24 + areg <<< 20)]
  | .maccKeep => [word (0x04 <<< 26 + 2 <<< 24)]
  | .drn areg fmt stoch carried preg sh =>
    [word (0x05 <<< 26 + areg <<< 21 + fmt <<< 17 + boolBit stoch <<< 15 + boolBit carried <<< 14 + preg <<< 12 +
      sh <<< 5)]
  | .drnNow areg fmt stoch carried preg sh =>
    [word (0x05 <<< 26 + 1 <<< 25 + areg <<< 21 + fmt <<< 17 + boolBit stoch <<< 15 + boolBit carried <<< 14 +
      preg <<< 12 + sh <<< 5)]
  | .gram a b same nstep masken fdiv preg =>
    [word (0x06 <<< 26 + a <<< 22 + b <<< 18 + boolBit same <<< 17 + (nstep - 1) <<< 9 + boolBit masken <<< 8 +
      (fdiv - 1) <<< 2 + preg)]
  | .twinOffer areg nrows nelem fmt =>
    [word (0x07 <<< 26 + areg <<< 21 + (nrows - 1) <<< 14 + (nelem - 1) <<< 4 + fmt)]
  | .twinTake areg nrows nelem fmt =>
    [word (0x07 <<< 26 + 1 <<< 25 + areg <<< 21 + (nrows - 1) <<< 14 + (nelem - 1) <<< 4 + fmt)]
  | .histWrite areg clr => [word (0x08 <<< 26 + areg <<< 22 + boolBit clr <<< 11)]
  | .histMerge stg clr => [word (0x08 <<< 26 + 1 <<< 20 + stg <<< 12 + boolBit clr <<< 11)]
  | .bchkWrite areg bitoff bstride => [word (0x09 <<< 26 + areg <<< 22 + bitoff <<< 12 + bstride <<< 4)]
  | .bchkLoad areg bitoff bstride => [word (0x09 <<< 26 + areg <<< 22 + bitoff <<< 12 + bstride <<< 4 + 1 <<< 3)]
  | .pru op fmt src dst n sync =>
    let o := match op with | .sqrt => 0 | .recip => 1 | .rsqrt => 2 | .pivot => 3
    [word (0x0A <<< 26 + o <<< 24 + fmt <<< 22 + src <<< 18 + dst <<< 14 + (n - 1) <<< 7 + boolBit sync <<< 6)]
  | .loop lctr count target => [word (0x10 <<< 26 + lctr <<< 24 + (count % 4096) <<< 12 + target)]
  | .tokw tok n keep => [word (0x11 <<< 26 + tok <<< 18 + n <<< 10 + boolBit keep <<< 9)]
  | .toks tok n => [word (0x12 <<< 26 + tok <<< 18 + n <<< 10)]
  | .rng areg preg nrow nelem =>
    [word (0x13 <<< 26 + areg <<< 22 + preg <<< 20 + (nrow - 1) <<< 12 + (nelem - 1) <<< 2)]
  | .mark trc id => [word (0x18 <<< 26 + boolBit trc <<< 25), id]
  | .samp tag => [word (0x19 <<< 26 + tag <<< 18)]
  | .haltEnd waitt tok => [word (0x3F <<< 26 + boolBit waitt <<< 11 + tok <<< 3)]
  | .haltNext seg waitt tok => [word (0x3F <<< 26 + 1 <<< 24 + seg <<< 12 + boolBit waitt <<< 11 + tok <<< 3)]
  | .haltNextYield seg waitt tok =>
    [word (0x3F <<< 26 + 2 <<< 24 + seg <<< 12 + boolBit waitt <<< 11 + tok <<< 3)]

/-- Operand formats: INT32 is valid only as a drain output, codes above 9 are reserved (R85). -/
def fmtOk (f : Nat) : Bool := decide (f ≤ 9) && f != 2

/-- Every field inside its stated range (R84, R86). -/
def tileOk : Tile → Bool
  | .cfgMode fs fm _ rnd acc _ _ => fmtOk fs && fmtOk fm && decide (rnd ≤ 4) && decide (acc ≤ 2)
  | .cfgAddr areg origin stride wrap =>
    decide (areg < 16) && decide (origin < 24576) && decide (-32768 ≤ stride) && decide (stride < 32768) && decide (wrap < 65536)
  | .cfgPos preg base rowlen adv =>
    decide (preg < 4) && decide (base < 0x1000000000000) && decide (rowlen < 0x100000000) && decide (-0x80000000 ≤ adv) && decide (adv < 0x80000000)
  | .cfgFxq qa qb qpIn qpOut => decide (qa < 32) && decide (qb < 32) && decide (qpIn < 32) && decide (qpOut < 32)
  | .cfgStream stream => decide (stream < 0x1000000)
  | .lds areg buf _ nrows nelem =>
    decide (areg < 16) && decide (buf < 2) && decide (1 ≤ nrows) && decide (nrows ≤ 128) && decide (1 ≤ nelem) && decide (nelem ≤ 512)
  | .strm areg buf nvec _ take =>
    decide (areg < 16) && decide (buf < 2) && decide (1 ≤ nvec) && decide (nvec ≤ 256) && decide (take ≤ 2) &&
      (take != 2 || nvec == 128)
  | .maccStore areg => decide (areg < 16)
  | .drn areg fmt _ _ preg sh => decide (areg < 16) && decide (fmt ≤ 9) && decide (preg < 4) && decide (sh < 128)
  | .drnNow areg fmt _ _ preg sh => decide (areg < 16) && decide (fmt ≤ 9) && decide (preg < 4) && decide (sh < 128)
  | .gram a b _ nstep _ fdiv preg =>
    decide (a < 16) && decide (b < 16) && decide (1 ≤ nstep) && decide (nstep ≤ 256) && decide (1 ≤ fdiv) && decide (fdiv ≤ 64) &&
      decide (preg < 4)
  | .twinOffer areg nrows nelem fmt =>
    decide (areg < 16) && decide (1 ≤ nrows) && decide (nrows ≤ 128) && decide (1 ≤ nelem) && decide (nelem ≤ 1024) && fmtOk fmt
  | .twinTake areg nrows nelem fmt =>
    decide (areg < 16) && decide (1 ≤ nrows) && decide (nrows ≤ 128) && decide (1 ≤ nelem) && decide (nelem ≤ 1024) && fmtOk fmt
  | .histWrite areg _ => decide (areg < 16)
  | .histMerge stg _ => decide (stg < 256)
  | .bchkWrite areg bitoff bstride => decide (areg < 16) && decide (bitoff < 1024) && decide (bstride < 256)
  | .bchkLoad areg bitoff bstride => decide (areg < 16) && decide (bitoff < 1024) && decide (bstride < 256)
  | .pru _ fmt src dst n _ => decide (fmt ≤ 2) && decide (src < 16) && decide (dst < 16) && decide (1 ≤ n) && decide (n ≤ 128)
  | .loop lctr count target => decide (lctr < 4) && decide (1 ≤ count) && decide (count ≤ 4096) && decide (target < 4096)
  | .tokw tok n _ => decide (tok < 256) && decide (1 ≤ n) && decide (n ≤ 255)
  | .toks tok n => decide (tok < 256) && decide (1 ≤ n) && decide (n ≤ 255)
  | .rng areg preg nrow nelem =>
    decide (areg < 16) && decide (preg < 4) && decide (1 ≤ nrow) && decide (nrow ≤ 256) && decide (1 ≤ nelem) && decide (nelem ≤ 1024)
  | .samp tag => decide (tag < 256)
  | .haltEnd _ tok => decide (tok < 256)
  | .haltNext seg _ tok => decide (seg < 4096) && decide (tok < 256)
  | .haltNextYield seg _ tok => decide (seg < 4096) && decide (tok < 256)
  | .maccZero => true
  | .maccKeep => true
  | .mark _ _ => true

/-- A single bit. -/
def bitAt (w n : Nat) : Bool := bitsOf w n 1 == 1

/-- The instruction at the head of a list of words with the fields it holds, the words it takes, and whether its
reserved bits are zero; fields that the instruction's other fields leave without use are not reserved. -/
def readTile (ws : List Word) : Option (Tile × Nat × Bool) :=
  let w := (ws.getD 0 0).toNat
  let w1 := (ws.getD 1 0).toNat
  let f (lo n : Nat) := bitsOf w lo n
  match w / 0x4000000 with
  | 0x01 =>
    match f 23 3 with
    | 0 => some (.cfgMode (f 19 4) (f 15 4) (bitAt w 14) (f 11 3) (f 9 2) (bitAt w 8) (bitAt w 7), 1, f 0 7 == 0)
    | 1 => some (.cfgAddr (f 19 4) (f 0 15) (signedOf 16 (bitsOf w1 0 16)) (bitsOf w1 16 16), 2, f 15 4 == 0)
    | 2 => some (.cfgPos (f 21 2) (w1 + 0x100000000 * bitsOf (ws.getD 2 0).toNat 0 16) (ws.getD 3 0).toNat
        (signedOf 32 (ws.getD 4 0).toNat), 5, f 0 21 == 0 && bitsOf (ws.getD 2 0).toNat 16 16 == 0)
    | 3 => some (.cfgFxq (f 18 5) (f 13 5) (f 8 5) (f 3 5), 1, f 0 3 == 0)
    | 4 => some (.cfgStream (bitsOf w1 0 24), 2, f 0 23 == 0 && bitsOf w1 24 8 == 0)
    | _ => none
  | 0x02 => some (.lds (f 22 4) (f 21 1) (bitAt w 20) (f 13 7 + 1) (f 3 10 + 1), 1, f 0 3 == 0)
  | 0x03 => some (.strm (f 22 4) (f 21 1) (f 13 8 + 1) (bitAt w 12) (f 10 2), 1, f 0 10 == 0)
  | 0x04 =>
    match f 24 2 with
    | 0 => some (.maccZero, 1, f 0 20 == 0)
    | 1 => some (.maccStore (f 20 4), 1, f 0 20 == 0)
    | 2 => some (.maccKeep, 1, f 0 20 == 0)
    | _ => none
  | 0x05 =>
    if 1 < f 15 2 then none
    else if bitAt w 25 then some (.drnNow (f 21 4) (f 17 4) (bitAt w 15) (bitAt w 14) (f 12 2) (f 5 7), 1, f 0 5 == 0)
    else some (.drn (f 21 4) (f 17 4) (bitAt w 15) (bitAt w 14) (f 12 2) (f 5 7), 1, f 0 5 == 0)
  | 0x06 => some (.gram (f 22 4) (f 18 4) (bitAt w 17) (f 9 8 + 1) (bitAt w 8) (f 2 6 + 1) (f 0 2), 1, true)
  | 0x07 =>
    if bitAt w 25 then some (.twinTake (f 21 4) (f 14 7 + 1) (f 4 10 + 1) (f 0 4), 1, true)
    else some (.twinOffer (f 21 4) (f 14 7 + 1) (f 4 10 + 1) (f 0 4), 1, true)
  | 0x08 =>
    match f 20 2 with
    | 0 => some (.histWrite (f 22 4) (bitAt w 11), 1, f 0 11 == 0)
    | 1 => some (.histMerge (f 12 8) (bitAt w 11), 1, f 0 11 == 0)
    | _ => none
  | 0x09 =>
    if bitAt w 3 then some (.bchkLoad (f 22 4) (f 12 10) (f 4 8), 1, f 0 3 == 0)
    else some (.bchkWrite (f 22 4) (f 12 10) (f 4 8), 1, f 0 3 == 0)
  | 0x0A =>
    let op := match f 24 2 with | 0 => PruOp.sqrt | 1 => PruOp.recip | 2 => PruOp.rsqrt | _ => PruOp.pivot
    some (.pru op (f 22 2) (f 18 4) (f 14 4) (f 7 7 + 1) (bitAt w 6), 1, f 0 6 == 0)
  | 0x10 => some (.loop (f 24 2) (if f 12 12 = 0 then 4096 else f 12 12) (f 0 12), 1, true)
  | 0x11 => some (.tokw (f 18 8) (f 10 8) (bitAt w 9), 1, f 0 9 == 0)
  | 0x12 => some (.toks (f 18 8) (f 10 8), 1, f 0 10 == 0)
  | 0x13 => some (.rng (f 22 4) (f 20 2) (f 12 8 + 1) (f 2 10 + 1), 1, f 0 2 == 0)
  | 0x18 => some (.mark (bitAt w 25) (ws.getD 1 0), 2, f 0 25 == 0)
  | 0x19 => some (.samp (f 18 8), 1, f 0 18 == 0)
  | 0x3F =>
    match f 24 2 with
    | 0 => some (.haltEnd (bitAt w 11) (f 3 8), 1, f 0 3 == 0)
    | 1 => some (.haltNext (f 12 12) (bitAt w 11) (f 3 8), 1, f 0 3 == 0)
    | 2 => some (.haltNextYield (f 12 12) (bitAt w 11) (f 3 8), 1, f 0 3 == 0)
    | _ => none
  | _ => none

/-- The instruction at the head of a list of words, and how many words it takes; none where R84 rejects it. -/
def decodeTile (ws : List Word) : Option (Tile × Nat) :=
  match readTile ws with
  | some (t, n, clear) => if clear && tileOk t && decide (n ≤ ws.length) then some (t, n) else none
  | none => none

/-! ### Combinations and conversions (R45, R46, R51) -/

/-- The arithmetic a CFG.MODE selects. -/
inductive Arith where
  | int
  | fp32
  | fp64
  | pair
  | fx
  deriving DecidableEq, Repr, Inhabited

/-- The row of the table Operand Combinations that the settings form, with R46. GRAM rows name FM for both vectors, and FS
must name it too, since no row of the table has another format beside it (log entry 14). -/
def arithOf (fs fm : Nat) (strict : Bool) (rnd acc : Nat) : Option Arith :=
  let blk := isBlock fs || isBlock fm
  let ieee (x : Nat) := x == 4 || x == 5
  if (!strict && rnd != 0) || (strict && blk) || (!strict && (fs == 6 || fm == 6)) then none
  else if acc = 0 then if isIntFmt fs && isIntFmt fm then some .int else none
  else if acc = 1 then
    if isBlock fs && isBlock fm then some .fp32
    else if (isBlock fs && fm == 4) || (fs == 4 && isBlock fm) then some .fp32
    else if ieee fs && ieee fm then some .fp32
    else none
  else if fs = 6 ∧ fm = 6 then some .fp64
  else if fs = 3 ∧ fm = 3 then some .fx
  else if (fs == 7 && (fm == 7 || fm == 5)) || (fs == 5 && fm == 7) then some .pair
  else if fs = fm ∧ (isBlock fm || ieee fm) then some .pair
  else none

/-- Whether the settings select the Gram configuration: wide accumulation of TB8, TB8W, binary16 or binary32 rows
(log entry 14). -/
def isGramMode (m : Mode) : Bool := m.acc == 2 && m.fs == m.fm && (isBlock m.fm || m.fm == 4 || m.fm == 5)

/-- Packing depth k (R57). -/
def packing (fs fm : Nat) : Nat :=
  if fs = 0 ∧ fm = 0 then 4
  else if isIntFmt fs && isIntFmt fm then 2
  else if isBlock fs && isBlock fm then 2
  else 1

/-- Conversions a drain may perform (R51, R91). -/
def drainOk (a : Arith) (fmt : Nat) (stoch : Bool) (sh : Nat) : Bool :=
  let conv := match a with
    | .int => fmt == 2 || ((fmt == 1 || fmt == 0) && decide (sh < 32)) || fmt == 5
    | .fp32 => fmt == 5 || fmt == 4 || fmt == 8 || fmt == 9
    | .fp64 => fmt == 6 || fmt == 5
    | .pair => fmt == 7 || fmt == 5
    | .fx => fmt == 3 && decide (sh < 32)
  conv && (!stoch || fmt == 4 || fmt == 8 || fmt == 9)

/-! ### Checks of a program at PLAN_LOAD (R84–R96) -/

/-- Start addresses of the instructions of a segment, in order; none when a word does not decode. -/
def tileStarts : Nat → Nat → List Word → Option (List (Nat × Tile))
  | 0, _, _ => some []
  | fuel + 1, a, ws =>
    if ws.isEmpty then some [] else
    match decodeTile ws with
    | none => none
    | some (t, n) => (tileStarts fuel (a + n) (ws.drop n)).map ((a, t) :: ·)

/-- The settings that a pass would latch, as far as the checks need them: those of the last CFG.MODE, zero at a segment's
start (R79), and the last DRN's format, rounding and shift. -/
structure ScanState where
  mode : Mode := {}
  drn : Option (Nat × Bool × Nat) := none
  deriving DecidableEq, Repr, Inhabited

/-- What an instruction does to the settings in force. -/
def ScanState.after (st : ScanState) : Tile → ScanState
  | .cfgMode fs fm strict rnd acc sgnS sgnM =>
    { st with mode := { fs := fs, fm := fm, strict := strict, rnd := rnd, acc := acc, sgnS := sgnS, sgnM := sgnM } }
  | .drn _ fmt stoch _ _ sh => { st with drn := some (fmt, stoch, sh) }
  | _ => st

/-- Whether an instruction is allowed under the settings in force: a STRM in a flow combination with a conversion of R51 for
its drain, a GRAM in the Gram combination (R45, R51, R87, R91). -/
def ScanState.allows (st : ScanState) : Tile → Bool
  | .cfgMode fs fm strict rnd acc _ _ => (arithOf fs fm strict rnd acc).isSome
  | .drn _ fmt stoch _ _ _ => !stoch || fmt == 4 || fmt == 8 || fmt == 9
  | .drnNow _ fmt stoch _ _ sh => drainOk .pair fmt stoch sh
  | .gram .. => isGramMode st.mode
  | .strm .. => !isGramMode st.mode &&
    match arithOf st.mode.fs st.mode.fm st.mode.strict st.mode.rnd st.mode.acc, st.drn with
    | some a, some d => drainOk a d.1 d.2.1 d.2.2
    | some _, none => true
    | none, _ => false
  | _ => true

/-- The settings that may be in force at each instruction, in one pass over a segment: those that reach it from the
instruction before it and those that LOOPs carry back to it; answers what the LOOPs carry back now, with the target of
each, and whether every instruction was allowed. -/
def scanPass (back : List (Nat × ScanState)) (starts : List (Nat × Tile)) : List (Nat × ScanState) × Bool :=
  (starts.foldl (fun (acc : List ScanState × List (Nat × ScanState) × Bool) e =>
    let here := ((acc.1 ++ (back.filter fun b => b.1 == e.1).map (·.2))).eraseDups
    let out := (here.map fun st => st.after e.2).eraseDups
    let carried := match e.2 with
      | .loop _ count target => if 1 < count then out.map fun st => (target, st) else []
      | _ => []
    (out, (acc.2.1 ++ carried).eraseDups, acc.2.2 && here.all fun st => st.allows e.2)) ([{}], [], true)).2

/-- Passes over a segment until the LOOPs carry nothing new back; `fuel` bounds them. -/
def scanSettings : Nat → List (Nat × ScanState) → List (Nat × Tile) → Bool
  | 0, _, _ => true
  | n + 1, back, starts =>
    let r := scanPass back starts
    r.2 && (if r.1.all back.contains then true else scanSettings n (back ++ r.1).eraseDups starts)

/-- Every CFG.MODE of a program has one STRICT value (R87). -/
def strictsOf (starts : List (Nat × Tile)) : List Bool :=
  starts.filterMap fun e => match e.2 with | .cfgMode _ _ strict _ _ _ _ => some strict | _ => none

/-- A LOOP target lies below the LOOP and at an instruction's first word (R84, R96). -/
def loopsOk (starts : List (Nat × Tile)) : Bool :=
  starts.all fun e => match e.2 with
    | .loop _ _ target => decide (target < e.1) && starts.any fun x => x.1 == target
    | _ => true

/-- One segment of a tile program. -/
def segmentOk (ws : List Word) : Bool :=
  decide (ws.length ≤ 4096) &&
  match tileStarts ws.length 0 ws with
  | none => false
  | some st => scanSettings (ws.length + 1) [] st && loopsOk st

/-- A whole tile program, all its segments. -/
def programOk (segs : List (List Word)) : Bool :=
  segs.all segmentOk &&
  match segs.flatMap fun ws => strictsOf ((tileStarts ws.length 0 ws).getD []) with
  | [] => true
  | b :: bs => bs.all (· == b)

end Sys2Proof.Machine
end

