-- ==== Sys2Proof/Machine/TileData.lean ====
section
/-! DEFINITION. What a stationary load, a streaming pass, Gram steps and a PRU request compute on array stores
(R57–R60, R73, R74, R76, R82, R83, R88–R93, R95). -/

namespace Sys2Proof.Machine

/-! ### Address and position registers -/

/-- OFFSET after n advances (R82). -/
def AddrReg.offsetAt (r : AddrReg) (n : Nat) : Int :=
  let o := r.offset + n * r.stride
  if n = 0 ∨ r.wrap = 0 then o else o % (r.wrap : Int)

/-- The line of row n counted from the register's current row. -/
def AddrReg.line (r : AddrReg) (n : Nat) : Int := r.origin + r.offsetAt n

def AddrReg.advance (r : AddrReg) (n : Nat) : AddrReg := { r with offset := r.offsetAt n }

/-- Whether n rows of some bytes lie below line 24,576 (R82). -/
def AddrReg.rowsOk (r : AddrReg) (n bytes : Nat) : Bool :=
  (List.range n).all fun v => decide (0 ≤ r.line v) && decide (r.line v + ((bytes + 63) / 64 : Nat) ≤ storeLines)

/-- Byte address of row n. -/
def AddrReg.byte (r : AddrReg) (n : Nat) : Nat := 64 * (r.line n).toNat

/-- Lines that n rows of some bytes occupy. -/
def AddrReg.lines (r : AddrReg) (n bytes : Nat) : List Nat :=
  (List.range n).flatMap fun v => (List.range ((bytes + 63) / 64)).map fun i => (r.line v).toNat + i

def rowAt (st : Store) (r : AddrReg) (v bytes : Nat) : List Byte := storeBytes st (r.byte v) bytes

/-- Generator position of element e of row v (R83). -/
def PosReg.pos (p : PosReg) (v e : Nat) : Nat := (p.base + v * p.rowlen + e) % 0x1000000000000

/-- BASE after the operation (R83). -/
def PosReg.advance (p : PosReg) : PosReg := { p with base := ((p.base + p.adv) % 0x1000000000000).toNat }

/-! ### Loads (R58) -/

/-- Column r of S from memory row r; absent rows and elements are zero. -/
def loadColumns (st : Store) (l : Load) : List (List Elem) :=
  let k := packing l.mode.fs l.mode.fm
  (List.range 128).map fun r =>
    if r < l.nrows then
      let row := rowAt st l.areg r (rowBytes l.mode.fs l.nelem)
      (List.range (128 * k)).map fun i => if i < l.nelem then rowElem l.mode.fs l.mode.sgnS row i else zeroElem l.mode.fs
    else List.replicate (128 * k) (zeroElem l.mode.fs)

/-! ### Reductions (R28, R44, R47, R48, R60) -/

/-- Products of a FAST chunk, exactly summed, with what is not finite among them (R47). -/
structure Chunk where
  sum : Dy := {}
  nan : Bool := false
  pinf : Bool := false
  ninf : Bool := false
  allNegZero : Bool := true
  deriving DecidableEq, Repr, Inhabited

def chunkAdd (c : Chunk) (a b : FpVal) : Chunk :=
  match a, b with
  | .nan, _ => { c with nan := true, allNegZero := false }
  | _, .nan => { c with nan := true, allNegZero := false }
  | .inf x, .inf y => { c with pinf := c.pinf || x == y, ninf := c.ninf || x != y, allNegZero := false }
  | .inf x, .fin y m _ =>
    if m = 0 then { c with nan := true, allNegZero := false }
    else { c with pinf := c.pinf || x == y, ninf := c.ninf || x != y, allNegZero := false }
  | .fin y m _, .inf x =>
    if m = 0 then { c with nan := true, allNegZero := false }
    else { c with pinf := c.pinf || x == y, ninf := c.ninf || x != y, allNegZero := false }
  | .fin x ma ea, .fin y mb eb =>
    let p : Dy := { m := if x == y then (ma * mb : Nat) else -((ma * mb : Nat) : Int), e := ea + eb }
    { c with sum := c.sum.add p, allNegZero := c.allNegZero && ma * mb == 0 && x != y }

/-- The accumulator after a chunk: rounded once to nearest even and flushed (R47). -/
def chunkInto (acc : Word) (c : Chunk) : Word :=
  if c.nan || (c.pinf && c.ninf) then f32Nan
  else match f32Val acc with
    | .nan => f32Nan
    | .inf n =>
      if (c.pinf && n) || (c.ninf && !n) then f32Nan else acc
    | .fin n m e =>
      if c.pinf then 0x7F800000 else if c.ninf then 0xFF800000
      else
        let d := c.sum.add { m := if n then -(m : Int) else m, e := e }
        if d.m = 0 then if n && m == 0 && c.allNegZero then 0x80000000 else 0
        else BitVec.ofNat 32 (b32.flush (b32.ofDy 0 d).1)

/-- FAST dot product: chunks of 128 indices (R47). `fuel` bounds the number of chunks. -/
def fastDot : Nat → Word → List (FpVal × FpVal) → Word
  | 0, acc, _ => acc
  | n + 1, acc, xs =>
    if xs.isEmpty then acc
    else fastDot n (chunkInto acc ((xs.take 128).foldl (fun c p => chunkAdd c p.1 p.2) {})) (xs.drop 128)

/-- Products of a cell summed exactly, added with saturation, in the order of the reduction (R28, R60). -/
def intDot : Nat → Nat → Int × Bool → List (Int × Int) → Int × Bool
  | 0, _, acc, _ => acc
  | n + 1, k, acc, xs =>
    if xs.isEmpty then acc
    else
      let r := satInt32 (acc.1 + ((xs.take k).map fun p => p.1 * p.2).sum)
      intDot n k (r.1, acc.2 || r.2) (xs.drop k)

/-- An accumulator and the sticky bits its reduction sets. -/
structure Acc1 where
  val : Elem := .f32 0
  sticky : BitVec 7 := 0
  deriving DecidableEq, Repr, Inhabited

/-- A reduction in the order the manual defines for the combination. `k` products share a cell in a row read. -/
def reduce (a : Arith) (m : Mode) (k : Nat) (acc : Elem) (xs : List (Elem × Elem)) : Acc1 :=
  match a with
  | .int =>
    let r := intDot xs.length k (elemInt acc, false) (xs.map fun p => (elemInt p.1, elemInt p.2))
    { val := .int r.1, sticky := if r.2 then stickyIntSat else 0 }
  | .fx =>
    let r := xs.foldl (fun (s : Int × Bool) p => let t := satInt64 (s.1 + elemInt p.1 * elemInt p.2); (t.1, s.2 || t.2))
      (elemInt acc, false)
    { val := .fx r.1, sticky := if r.2 then stickyFxSat else 0 }
  | .pair => { val := .pair (xs.foldl (fun s p => pairMac s (toPair p.1) (toPair p.2)) (toPair acc)) }
  | .fp64 =>
    let bits (e : Elem) := match e with | .f64 w => w.toNat | _ => 0
    let r := xs.foldl (fun (s : Nat × FpFlags) p =>
      let t := b64.fma m.rnd true (bits p.1) (bits p.2) s.1; (t.1, s.2.or t.2)) (bits acc, {})
    { val := .f64 (BitVec.ofNat 64 r.1), sticky := r.2.sticky }
  | .fp32 =>
    if m.strict then
      let r := xs.foldl (fun (s : Nat × FpFlags) p =>
        let t := b32.fma m.rnd true (toB32 p.1).toNat (toB32 p.2).toNat s.1; (t.1, s.2.or t.2)) ((toB32 acc).toNat, {})
      { val := .f32 (BitVec.ofNat 32 r.1), sticky := r.2.sticky }
    else { val := .f32 (fastDot xs.length (toB32 acc) (xs.map fun p => (fastVal p.1, fastVal p.2))) }

/-! ### Accumulators in the store -/

def accZero : Arith → Elem
  | .int => .int 0
  | .fp32 => .f32 0
  | .fp64 => .f64 0
  | .pair => .pair {}
  | .fx => .fx 0

def accBytes : Arith → Nat
  | .int => 4
  | .fp32 => 4
  | _ => 8

/-- Starting accumulator i of a row in the accumulator's own format (R103). -/
def accElem (a : Arith) (row : List Byte) (i : Nat) : Elem :=
  match a with
  | .int => rowElem 2 true row i
  | .fp32 => rowElem 5 true row i
  | .fp64 => rowElem 6 true row i
  | .pair => rowElem 7 true row i
  | .fx => .fx (signedOf 64 (leNat (sliceBytes row (8 * i) 8)))

/-! ### Draining a row of results (R51–R54, R91) -/

/-- A drained row: its bytes, histogram entries, block overflow bits, sticky bits. -/
structure RowOut where
  bytes : List Byte := []
  hist : List Nat := []
  bits : List Bool := []
  sticky : BitVec 7 := 0
  deriving DecidableEq, Repr, Inhabited

/-- INT4 results packed two to a byte (R27). -/
def packNibbles : List Nat → List Byte
  | [] => []
  | [a] => [BitVec.ofNat 8 a]
  | a :: b :: t => BitVec.ofNat 8 (a + 16 * b) :: packNibbles t

/-- Cuts a list into blocks of 64; `fuel` bounds the blocks. -/
def cut64 {α : Type} : Nat → List α → List (List α)
  | 0, _ => []
  | n + 1, xs => if xs.isEmpty then [] else xs.take 64 :: cut64 n (xs.drop 64)

/-- What a drain of a row takes beside the values. -/
structure RowCfg where
  one : DrainCfg := {}
  fmt : Nat := 5
  carried : Bool := false
  /-- bytes the destination row holds, read for CARRIED scaling -/
  old : List Byte := []
  /-- status latch (R93) -/
  latch : List Bool := []
  draws : List Nat := []
  deriving DecidableEq, Repr, Inhabited

def drainRow (c : RowCfg) (vals : List Elem) : RowOut :=
  if isBlock c.fmt then
    let wide := c.fmt == 9
    let blocks := cut64 vals.length (vals.map toB32)
    let outs := (List.range blocks.length).map fun j =>
      let ws := blocks.getD j []
      let dr := (c.draws.drop (64 * j)).take 64
      if c.carried then blkCarry wide dr c.one.stoch (sliceBytes c.old (66 * j) 66) (c.latch.getD j false) ws
      else blkDerive wide dr c.one.stoch ws
    { bytes := outs.flatMap (·.bytes), hist := outs.flatMap fun o => o.words.map fun w => histIndex 5 w.toNat,
      bits := outs.map (·.sat),
      sticky := if c.one.strict && outs.any (·.inexact) then FpFlags.sticky { inexact := true } else 0 }
  else
    let ds := (List.range vals.length).map fun i => drainOne c.one c.fmt (c.draws.getD i 0) (vals.getD i (.int 0))
    let hist := match c.fmt with
      | 4 => ds.map fun d => histIndex 4 (leNat d.bytes)
      | 5 => ds.map fun d => histIndex 5 (leNat d.bytes)
      | 6 => ds.map fun d => histIndex 6 (leNat d.bytes)
      | 7 => ds.map fun d => histIndex 5 (leNat (d.bytes.take 4))
      | _ => []
    { bytes := if c.fmt = 0 then packNibbles (ds.map fun d => leNat d.bytes) else ds.flatMap (·.bytes),
      hist := hist, sticky := ds.foldl (fun s d => s ||| d.sticky) 0 }

/-! ### A streaming pass (R59, R60, R88) -/

/-- Elements of a streaming vector, and results of a vector, by reading direction. -/
def vecLen (orient : Bool) (k : Nat) : Nat := if orient then 128 else 128 * k
def resLen (orient : Bool) (k : Nat) : Nat := if orient then 128 * k else 128

/-- Element (i, j) pairs of result n of vector x against S held as columns. -/
def passTerms (b : Buffer) (x : List Elem) (n : Nat) : List (Elem × Elem) :=
  if b.orient then (List.range 128).map fun j => ((b.cols.getD j []).getD n (.int 0), x.getD j (.int 0))
  else (List.range (128 * b.k)).map fun i => ((b.cols.getD n []).getD i (.int 0), x.getD i (.int 0))

/-- What the draws of a pass come from. -/
structure DrawSrc where
  seed : DWord := 0
  stream : Nat := 0
  step : Nat := 0
  deriving DecidableEq, Repr, Inhabited

/-- A pass's result on the store. -/
structure PassOut where
  store : Store := {}
  hist : List Nat := []
  bits : List (List Bool) := []
  sticky : BitVec 7 := 0
  bytes : Nat := 0
  deriving DecidableEq, Repr, Inhabited

/-- The streaming vector v of a pass: from the store, or as received over the tile channel. -/
def passVector (st : Store) (p : Pass) (b : Buffer) (v : Nat) : List Elem :=
  match p.taken with
  | some rows => rows.getD v []
  | none =>
    let n := vecLen b.orient b.k
    rowElems p.mode.fm p.mode.sgnM (rowAt st p.src v (rowBytes p.mode.fm n)) n

/-- Vector v through the cells and the drain. -/
def passStep (g : DrawSrc) (p : Pass) (b : Buffer) (a : Arith) (o : PassOut) (v : Nat) : PassOut :=
  let x := passVector o.store p b v
  let n := resLen b.orient b.k
  let start := match p.macc with
    | .store _ => let row := rowAt o.store p.maccReg v (accBytes a * n); fun i => accElem a row i
    | _ => fun _ => accZero a
  let rs := (List.range n).map fun i =>
    reduce a p.mode (if b.orient then 1 else b.k) (start i) (passTerms b x i)
  let q := p.fxq.qa + p.fxq.qb
  let cfg : RowCfg :=
    { one := { strict := p.mode.strict, rnd := p.mode.rnd, stoch := p.drain.stoch, sh := p.drain.sh, qSum := q },
      fmt := p.drain.fmt, carried := p.drain.carried,
      old := if p.drain.carried then rowAt o.store p.drainReg v (rowBytes p.drain.fmt n) else [],
      latch := p.latch.drop (v * blocksOf n),
      draws := if p.drain.stoch then (List.range n).map fun e => draw g.seed g.stream g.step (p.pos.pos v e) else [] }
  let r := drainRow cfg (rs.map (·.val))
  { store := storePut o.store (p.drainReg.byte v) r.bytes,
    hist := r.hist.foldl (fun h i => histAdd h i) o.hist,
    bits := o.bits ++ [r.bits],
    sticky := rs.foldl (fun s x => s ||| x.sticky) (o.sticky ||| r.sticky),
    bytes := o.bytes + r.bytes.length }

/-- A whole flow pass. -/
def runPass (st : Store) (hist : List Nat) (g : DrawSrc) (p : Pass) (b : Buffer) : PassOut :=
  match arithOf p.mode.fs p.mode.fm p.mode.strict p.mode.rnd p.mode.acc with
  | none => { store := st, hist := hist }
  | some a => (List.range p.nvec).foldl (passStep g p b a) { store := st, hist := hist }

/-! ### Gram steps (R76, R92) -/

def gramZero : List (List Pair) := List.replicate 128 (List.replicate 128 {})

/-- Step i applied to the accumulators. -/
def gramStep (st : Store) (g : DrawSrc) (p : Pass) (c : List (List Pair)) (i : Nat) : List (List Pair) :=
  let go := !p.masken || decide (draw g.seed g.stream g.step (p.pos.pos i 0) < 65536 / p.fdiv)
  if !go then c else
  let n := rowBytes p.mode.fm 128
  let a := (rowElems p.mode.fm p.mode.sgnM (rowAt st p.src i n) 128).map toPair
  let b := if p.same then a else (rowElems p.mode.fm p.mode.sgnM (rowAt st p.src2 i n) 128).map toPair
  (List.range 128).map fun r => (List.range 128).map fun j =>
    pairMac ((c.getD r []).getD j {}) (a.getD r {}) (b.getD j {})

def runGram (st : Store) (g : DrawSrc) (p : Pass) (c : List (List Pair)) : List (List Pair) :=
  (List.range p.nvec).foldl (gramStep st g p) (if c.isEmpty then gramZero else c)

/-- Gram accumulators drained to 128 rows (R90). -/
def gramDrain (st : Store) (hist : List Nat) (d : Drain) (r : AddrReg) (c : List (List Pair)) : PassOut :=
  (List.range 128).foldl (fun (o : PassOut) v =>
    let row := drainRow { one := { sh := d.sh }, fmt := d.fmt }
      (((if c.isEmpty then gramZero else c).getD v []).map fun p => Elem.pair p)
    { o with store := storePut o.store (r.byte v) row.bytes, hist := row.hist.foldl (fun h i => histAdd h i) o.hist,
             bytes := o.bytes + row.bytes.length }) { store := st, hist := hist }

/-- Gram accumulators loaded from 128 rows of 1 KiB (R90). -/
def gramLoad (st : Store) (r : AddrReg) : List (List Pair) :=
  (List.range 128).map fun v => (List.range 128).map fun j =>
    { hi := leWord (rowAt st r v 1024) (8 * j), lo := leWord (rowAt st r v 1024) (8 * j + 4) }

/-! ### Block status bits (R93) -/

/-- Bit n counted from the first bit of a line. -/
def storeBitGet (st : Store) (base n : Nat) : Bool := (storeRead st (base + n / 8)).toNat / 2 ^ (n % 8) % 2 == 1

def storeBitPut (st : Store) (base n : Nat) (v : Bool) : Store :=
  let b := (storeRead st (base + n / 8)).toNat
  let m := 2 ^ (n % 8)
  storeWrite st (base + n / 8) (BitVec.ofNat 8 (b - b / m % 2 * m + if v then m else 0))

/-- Writes the bits of a pass. -/
def bchkWriteBits (st : Store) (base bitoff bstride : Nat) (bits : List (List Bool)) : Store :=
  (List.range bits.length).foldl (fun st v =>
    (List.range (bits.getD v []).length).foldl (fun st j =>
      storeBitPut st base (bitoff + v * bstride + j) ((bits.getD v []).getD j false)) st) st

/-- The first n bits from a line on. -/
def bchkLoadBits (st : Store) (base n : Nat) : List Bool := (List.range n).map (storeBitGet st base)

/-! ### The PRU (R73, R74) -/

def fxRange (v : Int) : Int × Bool := satInt32 v

/-- |c − x| ≤ 2^-44 |x| for pair results, by the exact test of each operation (R74). -/
def within44 (c x : Dy) : Bool :=
  let e := c.add { m := -x.m, e := x.e }
  !(Dy.lt { m := x.m.natAbs, e := x.e - 44 } { m := e.m.natAbs, e := e.e })

/-- The exact tests of a candidate result of a pair operation: its square, its product with the operand, or its
square's product with the operand against bounds around the exact value. -/
def pairResultOk (op : PruOp) (x c : Pair) : Bool :=
  let ex := x.dy
  let ec := c.dy
  let one : Dy := { m := 1, e := 0 }
  let lo1 : Dy := { m := 2 ^ 44 - 1, e := -44 }
  let hi1 : Dy := { m := 2 ^ 44 + 1, e := -44 }
  let between (a lo hi : Dy) := !a.lt lo && !hi.lt a
  c.finite && c.normalised &&
  match op with
  | .sqrt => decide (0 ≤ ec.m) && between (ec.mul ec) ((lo1.mul lo1).mul ex) ((hi1.mul hi1).mul ex)
  | .recip => within44 (ec.mul ex) one
  | .rsqrt => decide (0 ≤ ec.m) && between ((ec.mul ec).mul ex) (lo1.mul lo1) (hi1.mul hi1)
  | .pivot => true

/-- A correctly rounded result of a pair operation, for a positive finite operand (recip: any nonzero). -/
def pairRef (op : PruOp) (x : Pair) : Pair :=
  let d := x.dy
  let m := d.m.natAbs
  match op with
  | .sqrt => let r := sqrtDy 60 m d.e; pairOfDy { m := r.1, e := r.2 }
  | .recip => let r := divDy 60 1 0 m d.e; pairOfDy { m := if d.m < 0 then -(r.1 : Int) else r.1, e := r.2 }
  | .rsqrt =>
    let q := divDy 140 1 0 m d.e
    let r := sqrtDy 70 q.1 q.2
    pairOfDy { m := r.1, e := r.2 }
  | .pivot => x

def pruCode : PruOp → Nat
  | .sqrt => 0
  | .recip => 1
  | .rsqrt => 2
  | .pivot => 3

/-- A pair result: any normalised value inside the bound; which one is left open (log entry 12). -/
def pairPru (op : PruOp) (x : Pair) : Pair :=
  match f32Val x.hi with
  | .nan => { hi := f32Nan, lo := 0 }
  | .inf neg =>
    match op with
    | .recip => { hi := if neg then 0x80000000 else 0, lo := 0 }
    | .rsqrt => if neg then { hi := f32Nan, lo := 0 } else {}
    | _ => if neg then { hi := f32Nan, lo := 0 } else { hi := x.hi, lo := 0 }
  | .fin neg _ _ =>
    let d := x.dy
    if d.m = 0 then
      match op with
      | .sqrt => { hi := x.hi, lo := 0 }
      | _ => { hi := if neg then 0xFF800000 else 0x7F800000, lo := 0 }
    else if d.m < 0 ∧ op ≠ .recip then { hi := f32Nan, lo := 0 }
    else
      let g := Config.freePair (pruCode op) x.hi x.lo
      let c : Pair := { hi := g.1, lo := g.2 }
      if pairResultOk op x c then c else pairRef op x

/-- An FX32 result with output point qo, and whether it marks the problem (R74). -/
def fxPru (op : PruOp) (qi qo : Nat) (v : Int) : Int × Bool :=
  let top : Int := 2147483647
  let rnd (m : Nat) (e : Int) : Int × Bool :=
    let (k, r, sh) := alignTo m e 0
    fxRange (if roundsUp 0 false (k % 2 = 1) r sh then (k + 1 : Nat) else k)
  match op with
  | .sqrt => if v < 0 then (0, true) else if v = 0 then (0, false) else
    let r := sqrtDy 40 v.natAbs (-(qi : Int)); rnd r.1 (r.2 + qo)
  | .recip => if v = 0 then (top, true) else
    let r := divDy 70 1 0 v.natAbs (-(qi : Int))
    let x := rnd r.1 (r.2 + qo)
    if v < 0 then (let y := fxRange (-(let (k, rr, sh) := alignTo r.1 (r.2 + qo) 0
                                       if roundsUp 0 true (k % 2 = 1) rr sh then (k + 1 : Nat) else k : Nat)); y) else x
  | .rsqrt => if v < 0 then (0, true) else if v = 0 then (top, true) else
    let q := divDy 140 1 0 v.natAbs (-(qi : Int))
    let r := sqrtDy 70 q.1 q.2
    rnd r.1 (r.2 + qo)
  | .pivot => (v, false)

/-- A fixed-point value moved from one binary point to another. -/
def fxMove (qi qo : Nat) (v : Int) : Int × Bool :=
  fxRange (if qo ≤ qi then shiftRoundInt v (qi - qo) else v * 2 ^ (qo - qi))

/-- Bytes of an element of a PRU request: binary32, pair-32, FX32 coded 0, 1, 2 (R86, R95). -/
def pruBytes (fmt : Nat) : Nat := if fmt = 1 then 8 else 4

/-- PIVOT's test d < τ·s, the product exact; d = 0 is always below, a NaN never (R73, log entry 88). -/
def pivotBelow (d t s : FpVal) (dd td sd : Dy) : Bool :=
  let sgn (v : FpVal) (x : Dy) : Int := match v with
    | .inf neg => if neg then -1 else 1
    | _ => x.m.sign
  if d.isFin && dd.m == 0 then true
  else if d = .nan ∨ t = .nan ∨ s = .nan then false
  else if t.isFin && s.isFin then
    match d with
    | .inf neg => neg
    | _ => dd.lt (sd.mul td)
  else
    match d with
    | .inf neg => neg && decide (0 < sgn t td * sgn s sd)
    | _ => decide (0 < sgn t td * sgn s sd)

/-- The product τ·s of a comparison in STRICT mode is invalid, or an operand signals (R49, log entry 88). -/
def pivotInvalid (d t s : Nat) : Bool :=
  b32.isSNan d || (b32.mul 0 true t s).2.invalid

/-- d′ of a binary32 PIVOT whose flag is clear: d, a NaN as R46 and R49 give it. -/
def pivotKeep (strict : Bool) (d : Nat) : Nat :=
  if b32.isNan d then if strict then b32.quiet d else b32.nanBits else d

/-- PIVOT on binary32 operands d, s, τ, λ. -/
def pivot32 (m : Mode) (d s t l : Nat) : List Byte × BitVec 7 :=
  let fl (x : Nat) : Nat := if m.strict then x else b32.flush x
  let vd := b32.val (fl d)
  let vt := b32.val (fl t)
  let vs := b32.val (fl s)
  let flag := pivotBelow vd vt vs vd.dy vt.dy vs.dy
  let r := b32.add m.rnd m.strict (fl d) (fl l)
  let d' := if flag then (if m.strict then r.1 else b32.flush r.1) else pivotKeep m.strict (fl d)
  let fs : FpFlags := { invalid := pivotInvalid d t s }
  (leBytes 4 d' ++ leBytes 4 (if flag then 0x3F800000 else 0),
    if m.strict then (if flag then fs.or r.2 else fs).sticky else 0)

/-- PIVOT on pairs: the sum is the pair_add of R32. -/
def pivotPair (d s t l : Pair) : List Byte :=
  let flag := pivotBelow (f32Val d.hi) (f32Val t.hi) (f32Val s.hi) d.dy t.dy s.dy
  elemBytes (.pair (if flag then pairAdd d l else pairNormal d)) ++ elemBytes (.pair (pairOf (if flag then 0x3F800000 else 0)))

/-- PIVOT on FX32 numbers at Q_in, with results at Q_out. -/
def pivotFx (q : Fxq) (d s t l : Int) : List Byte × BitVec 7 :=
  let flag := d == 0 || decide (d * 2 ^ q.qpIn < t * s)
  let r := fxMove q.qpIn q.qpOut (if flag then d + l else d)
  let one := if flag then fxRange (2 ^ q.qpOut) else (0, false)
  (leBytes 4 (r.1 % 4294967296).toNat ++ leBytes 4 one.1.toNat, if r.2 || one.2 then stickyFxSat else 0)

/-- One element of a request: the result bytes and sticky bits. PIVOT reads d, s, τ, λ and writes d′ and the flag. -/
def pruElem (m : Mode) (q : Fxq) (op : PruOp) (fmt : Nat) (inp : List Byte) : List Byte × BitVec 7 :=
  match op with
  | .pivot =>
    match fmt with
    | 1 =>
      let p (i : Nat) : Pair := { hi := leWord inp (8 * i), lo := leWord inp (8 * i + 4) }
      (pivotPair (p 0) (p 1) (p 2) (p 3), 0)
    | 2 =>
      let v (i : Nat) : Int := signedOf 32 (leNat (sliceBytes inp (4 * i) 4))
      pivotFx q (v 0) (v 1) (v 2) (v 3)
    | _ =>
      let w (i : Nat) : Nat := (leWord inp (4 * i)).toNat
      pivot32 m (w 0) (w 1) (w 2) (w 3)
  | _ =>
    match fmt with
    | 1 => (elemBytes (.pair (pairPru op { hi := leWord inp 0, lo := leWord inp 4 })), 0)
    | 2 =>
      let r := fxPru op q.qpIn q.qpOut (signedOf 32 (leNat (sliceBytes inp 0 4)))
      (leBytes 4 (r.1 % 4294967296).toNat, if r.2 then stickyFxSat else 0)
    | _ =>
      let x := (leWord inp 0).toNat
      let x := if m.strict then x else b32.flush x
      let r := match op with
        | .sqrt => b32.sqrt m.rnd m.strict x
        | .recip => b32.recip m.rnd m.strict x
        | _ => b32.rsqrt m.rnd m.strict x
      (leBytes 4 (if m.strict then r.1 else b32.flush r.1), if m.strict then r.2.sticky else 0)

/-- Elements read and written per element of an operation (R95). -/
def pruIn : PruOp → Nat
  | .pivot => 4
  | _ => 1

def pruOutN : PruOp → Nat
  | .pivot => 2
  | _ => 1

/-- A whole request on a store: N contiguous elements from SRC to DST. -/
def runPru (st : Store) (r : PruReq) : Store × BitVec 7 :=
  let nb := pruBytes r.fmt
  let src := storeBytes st (r.src.byte 0) (nb * pruIn r.op * r.n)
  let outs := (List.range r.n).map fun i =>
    pruElem r.mode r.fxq r.op r.fmt (sliceBytes src (nb * pruIn r.op * i) (nb * pruIn r.op))
  (storePut st (r.dst.byte 0) (outs.flatMap (·.1)), outs.foldl (fun s o => s ||| o.2) 0)

end Sys2Proof.Machine
end

