-- ==== Sys2Proof/Machine/ArrayRun.lean ====
section
/-! DEFINITION. What the tile instructions share: issue and stall, overlap of store accesses, tokens, segments, placement
of logical pairs, the tile channel, samples, memory transactions of fills (R67–R106, R268, R269, R328, R371–R373). -/

namespace Sys2Proof

/-- Memory offset and array-store byte of row i of run n of a fill entry (R99). -/
def FillEntry.memOff (e : FillEntry) (n i : Nat) : Nat := e.offset + (n * e.rows + i) * e.mstride
def FillEntry.storeByte (e : FillEntry) (n i : Nat) : Nat := 64 * (e.line + ((n % 2) * e.rows + i) * e.stride)

/-- Blocks in a gradient row, its pitch, bytes of one dW, and of its status bitmap with its rounding to 64 (R38, R39). -/
def ObjectDecl.nb (d : ObjectDecl) : Nat := (d.cols + 63) / 64
def ObjectDecl.gradPitch (d : ObjectDecl) : Nat := Machine.blockPitch d.cols
def ObjectDecl.gradBytes (d : ObjectDecl) : Nat := d.rows * d.gradPitch
def ObjectDecl.gradBlocks (d : ObjectDecl) : Nat := d.rows * d.nb
def ObjectDecl.mapBytes (d : ObjectDecl) : Nat := (d.gradBlocks + 511) / 512 * 64

/-- Bytes of each place of a region that has one for each micro-batch slot. -/
def RegionDecl.slotLen (d : RegionDecl) : Nat := d.size / d.slots / 64 * 64

end Sys2Proof

namespace Sys2Proof.Machine

/-! ### Counters and samples -/

/-- Whether the sampler of an array's sector is armed for its work (R371). -/
def State.sampling (s : State) (a : Nat) : Bool :=
  s.rfi .dbgSampleCfg (a / 16) 0 1 == 1 &&
    (s.rfi .dbgSampleCfg (a / 16) 8 8 == 0 || s.rfi .dbgSampleCfg (a / 16) 8 8 == s.arrCtx a)

/-- A sample waits for its sector's sampler, or is dropped when 16 wait (R373). -/
def State.sampleRecord (s : State) (a tag kind addr segment : Nat) (marker : Word) (latency stall : Nat) : State :=
  let sec := a / 16
  let x := tgetD s.samplers sec {}
  let r := [BitVec.ofNat 32 (a + 256 * s.arrCtx a + 65536 * tag + 0x1000000 * kind),
            BitVec.ofNat 32 (addr + 4096 * segment), marker, BitVec.ofNat 32 latency]
  if x.waiting.length < 16 then
    { s with samplers := tset s.samplers sec { x with waiting := x.waiting ++ [r ++ [0, 0, BitVec.ofNat 32 stall, 0]] } }
  else
    ({ s with samplers := tset s.samplers sec { x with dropped := x.dropped + 1 } } : State).pulse 0x10D sec 1 (s.arrCtx a) marker

/-- One cycle of a sampler: it writes one waiting record, stamped as it is recorded (R372, R373), and offers it to the
sluices (R377). -/
def State.samplerTick (s : State) (sec : Nat) : State :=
  let x := tgetD s.samplers sec {}
  match x.waiting with
  | [] => s
  | r :: rest =>
    let w0 := (r.getD 0 0).toNat
    let st := stampWords s.stamp
    let full := r.take 4 ++ st ++ r.drop 6
    let x := { x with waiting := rest }
    if (tget x.records x.wptr).isSome && s.rfi .dbgSampleCfg sec 1 1 == 0 then
      ({ s with samplers := tset s.samplers sec { x with dropped := x.dropped + 1 } } : State).pulse 0x10D sec 1 (bitsOf w0 8 8) (r.getD 2 0)
    else
      let over_ := (tget x.records x.wptr).isSome
      let x := { x with records := tset x.records x.wptr full, wptr := (x.wptr + 1) % 2048, wrapped := x.wrapped || over_ }
      ({ s with samplers := tset s.samplers sec x } : State).sluice 7 (bitsOf w0 8 8) (bitsOf w0 0 7) (r.getD 2 0)
        [r.getD 1 0, r.getD 3 0, r.getD 6 0]

/-! ### Overlap of store accesses (R81) -/

/-- Orientation and packing depth of a buffer as the last load into it leaves it. -/
def Arr.bufShape (x : Arr) (buf : Nat) : Bool × Nat :=
  match x.loads.find? fun l => l.buf == buf with
  | some l => (l.orient, packing l.mode.fs l.mode.fm)
  | none => match tget x.bufs buf with
    | some b => (b.orient, b.k)
    | none => (false, packing x.cfg.fs x.cfg.fm)

/-- Lines an access reads and lines it writes. -/
structure Touch where
  reads : List Nat := []
  writes : List Nat := []
  deriving DecidableEq, Repr, Inhabited

def Touch.union (a b : Touch) : Touch := { reads := a.reads ++ b.reads, writes := a.writes ++ b.writes }

/-- Bytes of a starting accumulator of a mode. -/
def modeAccBytes (m : Mode) : Nat :=
  match arithOf m.fs m.fm m.strict m.rnd m.acc with
  | some a => accBytes a
  | none => 4

/-- Bytes of a row that a pass reads, takes as accumulators, and drains. -/
def Arr.passRows (x : Arr) (p : Pass) : Nat × Nat × Nat :=
  let sh := x.bufShape p.buf
  let n := resLen sh.1 sh.2
  (rowBytes p.mode.fm (if p.gram then 128 else vecLen sh.1 sh.2), modeAccBytes p.mode * n, rowBytes p.drain.fmt n)

def Arr.passTouch (x : Arr) (p : Pass) : Touch :=
  let b := x.passRows p
  if p.gram then
    { reads := p.src.lines p.nvec b.1 ++ if p.same then [] else p.src2.lines p.nvec b.1 }
  else
    let acc := match p.macc with | .store _ => p.maccReg.lines p.nvec b.2.1 | _ => []
    { reads := (if p.take = 0 then p.src.lines p.nvec b.1 else []) ++ acc, writes := p.drainReg.lines p.nvec b.2.2 }

def Load.touch (l : Load) : Touch := { reads := l.areg.lines l.nrows (rowBytes l.mode.fs l.nelem) }

def Twin.touch (t : Twin) : Touch :=
  let ls := t.reg.lines t.nrows (rowBytes t.fmt t.nelem)
  if t.offer then { reads := ls } else { writes := ls }

def PruReq.touch (r : PruReq) : Touch :=
  { reads := r.src.lines 1 (pruBytes r.fmt * pruIn r.op * r.n), writes := r.dst.lines 1 (pruBytes r.fmt * pruOutN r.op * r.n) }

/-- Requests of an array that its sector's PRU has not processed. -/
def State.pruOf (s : State) (a : Nat) : List PruReq := (tgetD s.prus (a / 16) []).filter fun r => r.array == a

/-- Accesses of an array still pending, its passes aside. -/
def State.otherPending (s : State) (a : Nat) : Touch :=
  let x := s.arr a
  ((x.loads.map Load.touch) ++ (x.twins.map Twin.touch) ++ ((s.pruOf a).map PruReq.touch)).foldl Touch.union {}

def State.allPending (s : State) (a : Nat) : Touch :=
  let x := s.arr a
  ((x.passes.map x.passTouch)).foldl Touch.union (s.otherPending a)

/-- Whether a new access must wait for pending ones (R81). -/
def Touch.blocks (pending new : Touch) : Bool :=
  new.reads.any pending.writes.contains || new.writes.any fun l => pending.writes.contains l || pending.reads.contains l

/-! ### Issue (R80) -/

/-- The instruction an array issues next, and its length in words. -/
def Arr.next (x : Arr) : Option (Tile × Nat) :=
  if x.mode = .running then decodeTile (x.program.drop x.pc) else none

/-- The array after issue of an instruction of n words; every 2^PERIOD_LOG2-th one is sampled (R371). -/
def State.issued (s : State) (a n : Nat) : State :=
  let x := s.arr a
  let arm := s.sampling a
  let per := s.rfi .dbgSampleCfg (a / 16) 2 5
  let k := if arm then x.issued + 1 else x.issued
  let hit := arm && per != 0 && k % (1 <<< per) == 0
  (s.setArr a { x with pc := (x.pc + n) % 4096, ord := x.ord + 1, issued := k, idle := false, stallFrom := none,
                       sampled := if hit then x.sampled ++ [(x.pc, x.segment, x.marker)] else x.sampled }).pulseArr a 4 1

/-- Issue stalls: the instruction stays next (R80). -/
def State.stalled (s : State) (a : Nat) : State :=
  (s.modArr a fun x => { x with stallFrom := some (x.stallFrom.getD s.now) }).pulseArr a 5 1

/-- A tile instruction of a row: it issues when it is the array's next instruction and the engine that performs it can
accept it; else nothing happens but the stall. `go` gets the instruction's address and program order. -/
def tileRow (a : Nat) (t : Tile) (ready : State → Arr → Bool) (go : State → Arr → State) (s : State) :
    Host.Outcome State Fault Refusal :=
  if 96 ≤ a then .fault .noSuchUnit
  else
    let x := s.arr a
    match x.next with
    | some (t', n) =>
      if t' = t then
        if !(x.sync && decide (0 < x.pruOut)) && ready s x then .next (go (s.issued a n) x) else .next (s.stalled a)
      else .next s
    | none => .next s

/-! ### Tokens (R98) -/

def State.token (s : State) (c tok : Nat) : Nat := tgetD (s.ctxD c).tileTokens tok 0

def State.setToken (s : State) (c tok v : Nat) : State :=
  s.modCtx c fun x => { x with tileTokens := tset x.tileTokens tok v }

/-- What an array's wait asks of a token: token, count, keep. -/
def ArrWait.need : ArrWait → Nat × Nat × Bool
  | .token tok n keep => (tok, n, keep)
  | .segment tok _ _ => (tok, 1, false)
  | .endTok tok => (tok, 1, false)

/-- The array's part of its stage is finished (R104). -/
def State.endPart (s : State) (a : Nat) : State :=
  let x := s.arr a
  (s.modRun (s.arrCtx a) x.seq fun r => { r with parts := r.parts ++ [(x.stage, x.logical)] }).setArr a
    { x with mode := .halted, wait := none, ended := true }

/-! ### Boundaries (R21, R104) -/

/-- The entries of a run that are left in an array's fill queues go with its work to another array; a run of a queue in progress
begins again there (R99, R104; log entry 97). -/
def State.moveFills (s : State) (a b c : Nat) (seq : Word) : State :=
  if a = b then s
  else
    let mine (i : FillItem) : Bool := i.ctx == c && i.seq == seq
    let x := s.arr a
    let part (q : FillQueue) : FillQueue :=
      { entries := q.entries.filter fun i => !mine i, run := if q.entries.head?.any mine then 0 else q.run, active := q.active && !q.entries.head?.any mine }
    let join (q from_ : FillQueue) : FillQueue :=
      { q with entries := q.entries ++ from_.entries.filter mine, run := if q.entries.isEmpty && from_.entries.head?.any mine then from_.run else q.run }
    let s := s.modArr a fun y => { y with fillIn := part y.fillIn, fillOut := part y.fillOut }
    s.modArr b fun y => { y with fillIn := join y.fillIn x.fillIn, fillOut := join y.fillOut x.fillOut }

/-- The segment an array would load next is left to another pair, with the token it waits for, if any. -/
def State.park (s : State) (a seg : Nat) (tok : Option Nat) : State :=
  let x := s.arr a
  let c := s.arrCtx a
  let s := s.modRun c x.seq fun r => { r with parked := r.parked ++ [(x.logical, seg, x.stage, tok)] }
  let s := match s.physArray c x.slot x.logical with | some h => s.moveFills a h c x.seq | none => s
  s.modArr a fun x => { x.cleared with mode := .halted, program := [] }

/-- The segment that a HALT with WAITT and NEXT_YIELD waits to load, and its token. -/
def Arr.yielding (x : Arr) : Option (Nat × Nat) :=
  match x.wait with
  | some (.segment tok seg true) => some (seg, tok)
  | _ => none

/-- Whether an array stands at END or NEXT_YIELD. -/
def Arr.atBoundary (x : Arr) : Bool := x.mode == .halted || x.yielding.isSome

/-- An array that waits at NEXT_YIELD parks its next segment. -/
def State.parkWaiting (s : State) (a : Nat) : State :=
  match (s.arr a).yielding with
  | some (seg, tok) => ({ s with waiters := s.waiters.filter fun w => !(w.array == a && w.fill.isNone) } : State).park a seg (some tok)
  | none => s

/-! ### The next work of a pair (R21, R165, R322) -/

/-- The problem of a context that a pair runs. -/
def State.problemPair (s : State) (c n : Nat) : Option Nat :=
  (s.pairs.find? fun e => e.2.problem == some (c, n)).map (·.1)

/-- The next problem of a context that no pair runs (R238). -/
def State.nextProblem (s : State) (c : Nat) : Option (Batch × Nat) :=
  (s.batches.filter fun b => b.ctx == c && b.released).findSome? fun b =>
    (b.left.find? fun n => (s.problemPair c n).isNone).map fun n => (b, n)

/-- Whether an owner has a segment ready for one of a pair's arrays. -/
def State.segmentReady (s : State) (c p : Nat) : Bool :=
  s.runs.any fun r => r.ctx == c && r.parked.any fun g =>
    match s.physArray c r.slot g.1 with | some a => a / 2 == p | none => false

/-- Whether a context has a ready fragment that no pair runs, and a slice in the pair's sector (R322). -/
def State.fragmentReady (s : State) (b p : Nat) : Bool :=
  (s.ctxD b).mode == .resident && !(s.ctxD b).suspended && !(s.ctxD b).onHold &&
  (match (s.ctxD b).kind with
   | .solve => (s.nextProblem b).isSome
   | _ => s.runs.any fun r => r.ctx == b && !r.parked.isEmpty) &&
  (s.ctxD b).slices.any fun k => k / 16 == p / 8

/-- A pair begins a fragment of its group's refresh, of at most 65,536 cycles (R165). -/
def State.startFragment (s : State) (p g : Nat) : State :=
  let s := (s.parkWaiting (2 * p)).parkWaiting (2 * p + 1)
  let go (s : State) (a : Nat) : State := s.modArr a fun x => { x with mode := .running, program := [], idle := false }
  (go (go s (2 * p)) (2 * p + 1)).modPair p fun x => { x with refresh := some g, fragment := 65536, noWork := none }

/-- A parked segment of a run starts on an array of a lent pair. -/
def State.startThere (s : State) (a : Nat) (r : Run) (g : Nat × Nat × Nat × Option Nat) : State :=
  let s := s.modRun r.ctx r.seq fun x => { x with parked := x.parked.filter (· != g) }
  let s := match s.physArray r.ctx r.slot g.1 with | some h => s.moveFills h a r.ctx r.seq | none => s
  let s := s.enterStage a r g.1 g.2.2.1 (s.replayStage r g.2.2.1)
  match g.2.2.2 with
  | none => s.loadSegment a g.2.1
  | some tok => s.awaitSegment a g.2.1 tok

/-- A lent pair takes up a ready segment of its borrower, and the twin array's with it (R322). -/
def State.startBorrowed (s : State) (p b : Nat) : State :=
  match s.runs.find? fun r => r.ctx == b && !r.parked.isEmpty with
  | none => s
  | some r => match r.parked with
    | [] => s
    | g :: _ => (r.parked.filter fun h => h.1 / 2 == g.1 / 2).foldl (fun s h =>
        if (s.arr (2 * p + h.1 % 2)).mode = .halted then s.startThere (2 * p + h.1 % 2) r h else s) s

/-- Lends a pair (R322). -/
def State.lend (s : State) (p b : Nat) : State :=
  let s := (s.parkWaiting (2 * p)).parkWaiting (2 * p + 1)
  let s := s.modPair p fun x => { x with lent := true, running := b, returnAt := none, noWork := none }
  ((s.undefineStore (2 * p)).undefineStore (2 * p + 1)).startBorrowed p b

/-- Whether both arrays of a pair are halted, or at END or NEXT_YIELD. -/
def State.pairHalted (s : State) (p : Nat) : Bool := (s.arr (2 * p)).mode == .halted && (s.arr (2 * p + 1)).mode == .halted
def State.pairAtBoundary (s : State) (p : Nat) : Bool := (s.arr (2 * p)).atBoundary && (s.arr (2 * p + 1)).atBoundary

/-- The work of a TRAIN pair at END or NEXT_YIELD with no late refresh and no ready segment: the current refresh and the declared
borrower, in the order CRV_ROOT_CFG.LEND_FIRST gives (R165). -/
def State.spareWork (s : State) (p : Nat) : State :=
  let b := (s.ctxD (s.pairOwner p)).borrower
  let due := s.dueRefresh p false
  let lendable := b != 0 && s.fragmentReady b p
  match due with
  | some g => if s.rf .crvRootCfg 7 1 = 1 ∧ lendable then s.lend p b else s.startFragment p g
  | none => if lendable then s.lend p b else s

/-- A pair at END or NEXT_YIELD takes its next work from the first source that has any; one that finds none halts (R165, R322). -/
def State.takeWork (s : State) (p : Nat) : State :=
  let x := s.pair p
  if x.fallow || x.problem.isSome || x.refresh.isSome || !s.pairAtBoundary p then s
  else if x.lent then
    if x.returnAt.isSome then ((s.parkWaiting (2 * p)).parkWaiting (2 * p + 1)).giveBack p
    else if !s.pairHalted p then s
    else if s.fragmentReady x.running p then s.startBorrowed p x.running
    else s.giveBack p
  else
    let c := s.pairOwner p
    let k := s.ctxD c
    if c = 0 ∨ k.mode ≠ .resident ∨ k.suspended ∨ k.onHold then s
    else match s.dueRefresh p true with
      | some g => s.startFragment p g
      | none =>
        let s := s.startParked c
        if k.kind = .train ∧ s.pairAtBoundary p then s.spareWork p else s

/-- The work an array has done up to END or NEXT_YIELD is over: once both arrays of its pair stand there, the pair takes its next
work (R21, R165, R322). -/
def State.boundary (s : State) (a : Nat) : State := s.takeWork (a / 2)

/-! ### The wait on a token (R98, R104) -/

/-- An array whose wait is satisfied goes on. -/
def State.resume (s : State) (a : Nat) : State :=
  match (s.arr a).wait with
  | some (.token ..) => s.modArr a fun x => { x with mode := .running, wait := none }
  | some (.segment _ seg _) => s.loadSegment a seg
  | some (.endTok _) => (s.endPart a).boundary a
  | none => s

/-- An array begins to wait on a token; the wait is tested at the end of the cycle. -/
def State.waitOn (s : State) (a : Nat) (w : ArrWait) : State :=
  let s := s.modArr a fun x => { x with mode := .waiting, wait := some w }
  { s with waiters := s.waiters ++ [{ array := a, tok := w.need.1, since := s.now }] }

/-- Adds to a token; past 65,535 the context faults. -/
def State.addToken (s : State) (c tok n unit addr : Nat) : State :=
  if s.token c tok + n > 65535 then s.ctxFault c unit addr
  else s.setToken c tok (s.token c tok + n)

/-- Whether every write an array issued before a place in its program order is complete. -/
def State.writesDone (s : State) (a ord : Nat) : Bool :=
  let x := s.arr a
  !(x.passes.any fun p => decide (p.ord < ord)) && !(x.twins.any fun t => !t.offer && decide (t.ord < ord)) &&
    !((s.pruOf a).any fun r => decide (r.ord < ord))

/-- Takes the first signal of a context that may become visible. -/
def State.readySignal (s : State) (c : Nat) : Option TokSignal :=
  (s.signals.find? fun g => g.1 == c && (g.2.fill || s.writesDone g.2.array g.2.ord)).map (·.2)

/-! ### The tile channel (R67, R68, R89) -/

/-- An offer or take pending on the channel. -/
inductive ChanOp where
  | twin (t : Twin)
  | pass (p : Pass)
  deriving DecidableEq, Repr, Inhabited

def ChanOp.ord : ChanOp → Nat
  | .twin t => t.ord
  | .pass p => p.ord

def ChanOp.addr : ChanOp → Nat
  | .twin t => t.addr
  | .pass p => p.addr

/-- The pass at the head of the stream engine, when its buffer is loaded. -/
def Arr.headPass (x : Arr) : Option Pass :=
  match x.passes with
  | [] => none
  | p :: _ => if x.loads.any fun l => l.buf == p.buf then none else some p

def older (a : Option ChanOp) (b : Option ChanOp) : Option ChanOp :=
  match a, b with
  | some x, some y => if x.ord ≤ y.ord then some x else some y
  | some x, none => some x
  | none, y => y

/-- Whether a pass waits for the tile it takes, and whether its tile lies in a buffer of the corner turn. -/
def Pass.wants (p : Pass) : Bool := p.take != 0 && p.taken.isNone
def Pass.turned (p : Pass) : Bool := p.take == 2 && p.taken.isSome

/-- The pass that takes next, in program order: into the streaming input once it streams, or through the corner turn while
one of its two buffers is free (R67). -/
def Arr.takePass (x : Arr) : Option Pass :=
  match x.passes.find? Pass.wants with
  | none => none
  | some p =>
    if p.take = 2 then (if (x.passes.filter Pass.turned).length < 2 then some p else none)
    else if x.headPass = some p then some p else none

/-- The oldest take, and the oldest offer, an array has pending. -/
def Arr.taking (x : Arr) : Option ChanOp :=
  older ((x.twins.find? fun t => !t.offer).map .twin) (x.takePass.map .pass)

def Arr.offering (x : Arr) : Option ChanOp :=
  older ((x.twins.find? fun t => t.offer).map .twin)
    (match x.headPass with
     | some p => if p.offer && !p.offered && (p.take == 0 || p.taken.isSome) then some (.pass p) else none
     | none => none)

/-- Cycles that a TWIN or a TOKW may wait (R68, R98). -/
def waitLimit : Nat := 16777216

/-- Under what a waiting operation's cycles are counted: its place in program order, a pass's offer apart from its take. -/
def ChanOp.waitKey : ChanOp → Nat
  | .twin t => 2 * t.ord
  | .pass p => 2 * p.ord + if p.wants then 0 else 1

/-- What of an array waits under a limit: its oldest take and offer, and its TOKW. -/
def Arr.waitKeys (x : Arr) : List Nat :=
  x.taking.toList.map ChanOp.waitKey ++ x.offering.toList.map ChanOp.waitKey ++
    match x.wait with
    | some (.token ..) => [2 * x.ord]
    | _ => []

/-- The array after one more cycle of waiting; a suspended context's waits count none (R278). -/
def Arr.waitCycle (x : Arr) (held : Bool) : Arr :=
  { x with waited := x.waitKeys.map fun k => (k, tgetD x.waited k 0 + if held then 0 else 1) }

/-- Rows, elements of a row, and format of an operation's tile (R89). -/
def Arr.chanShape (x : Arr) : ChanOp → Nat × Nat × Nat
  | .twin t => (t.nrows, t.nelem, t.fmt)
  | .pass p => let sh := x.bufShape p.buf; (p.nvec, vecLen sh.1 sh.2, p.mode.fm)

/-- A row of elements as bytes of the store, for a format that is not a block format. -/
def encodeRow (fmt : Nat) (es : List Elem) : List Byte :=
  if fmt = 0 then packNibbles (es.map fun e => (elemInt e % 16).toNat) else es.flatMap elemBytes

/-- Rows of an offered tile as they are stored. A pass that took its vectors straight from the tile channel offers the bytes
it received; vectors out of the corner turn have no stored form in a block format, and their bytes are left open (log entry 92). -/
def State.offerRows (s : State) (a : Nat) (o : ChanOp) : List (List Byte) :=
  let x := s.arr a
  let sh := x.chanShape o
  match o with
  | .twin t => (List.range t.nrows).map fun v => rowAt x.store t.reg v (rowBytes t.fmt t.nelem)
  | .pass p =>
    match p.taken with
    | none => (List.range p.nvec).map fun v => rowAt x.store p.src v (rowBytes p.mode.fm sh.2.1)
    | some es =>
      if p.take = 1 then p.takenBytes
      else (List.range p.nvec).map fun v =>
        if isBlock p.mode.fm then (List.range (rowBytes p.mode.fm sh.2.1)).map fun i => Config.freeByte s.free (4096 * v + i)
        else encodeRow p.mode.fm (es.getD v [])

def transpose128 (rows : List (List Elem)) : List (List Elem) :=
  (List.range 128).map fun j => rows.map fun r => r.getD j (.int 0)

/-- The tile a pass takes, as the elements of its rows. -/
def Pass.receive (p : Pass) (rows : List (List Byte)) (es : List (List Elem)) : Pass :=
  { p with taken := some (if p.take = 2 then transpose128 es else es), takenBytes := if p.take = 2 then [] else rows }

/-- The first pass that waits for a tile takes it. -/
def receiveFirst (rows : List (List Byte)) (es : List (List Elem)) : List Pass → List Pass
  | [] => []
  | p :: ps => if p.wants then p.receive rows es :: ps else p :: receiveFirst rows es ps

/-- Moves a tile from the offering array to the taking one; shapes or formats that differ fault the context (R68), and so
does a corner turn of another shape than 128 × 128 (R89; log entry 92). -/
def State.meet (s : State) (src dst : Nat) (o t : ChanOp) : State :=
  let xs := s.arr src
  let xd := s.arr dst
  let so := xs.chanShape o
  let st := xd.chanShape t
  let corner : Bool := match t with | .pass p => p.take == 2 | .twin _ => false
  if so ≠ st ∨ (corner ∧ (so.1 ≠ 128 ∨ so.2.1 ≠ 128)) then s.arrFault dst t.addr
  else
    let rows := s.offerRows src o
    let s := { s with free := s.free + 1 }
    let s := s.modArr src fun x =>
      match o with
      | .twin tw => { x with twins := x.twins.filter (· != tw) }
      | .pass _ => { x with passes := match x.passes with | q :: r => { q with offered := true } :: r | [] => [] }
    s.modArr dst fun x =>
      match t with
      | .twin tw =>
        { x with twins := x.twins.filter (· != tw),
                 store := (List.range tw.nrows).foldl (fun m v => storePut m (tw.reg.byte v) (rows.getD v [])) x.store }
      | .pass p =>
        { x with passes := receiveFirst rows (rows.map fun r => rowElems p.mode.fm p.mode.sgnM r so.2.1) x.passes }

/-! ### Memory transactions of fills (R268, R269, R328) -/

/-- A transaction meets its weir: an open weir, or a bucket at zero or more with nothing of that weir before it, lets it
pass; else it is held (R328). -/
def State.weirEnter (s : State) (m : MemReq) : State :=
  if s.weirLets m.ctx m.weir then ({ s with asking := s.asking ++ [m] } : State).charge m.ctx m.weir m.bytes
  else { s with held := s.held ++ [m] }

/-- Limits of R269: outstanding on the device, of which a part is for P0 contexts only. -/
def State.placeLimit (s : State) : Nat × Nat := if s.isSmall then (18432, 1152) else (32768, 2048)

/-- Whether a request finds a free place. -/
def State.hasPlace (s : State) (m : MemReq) : Bool :=
  let lim := s.placeLimit
  decide ((s.outstanding.filter fun o => o.chan == m.chan).length < 96) &&
    decide (s.outstanding.length < if s.prio m.ctx = 0 then lim.1 else lim.1 - lim.2)

/-- Pieces of n bytes from an offset, each inside one granule and carried by a transaction of at most 512 bytes; `fuel` bounds
their number. -/
def pieces : Nat → Nat → Nat → List (Nat × Nat)
  | 0, _, _ => []
  | f + 1, off, n =>
    if n = 0 then [] else
    let k := min n (512 - off % 64)
    let k := min k (4096 - off % 4096)
    (off, k) :: pieces f (off + k) (n - k)

/-- Size of the transaction that carries a piece: a multiple of 64 bytes, 64 at least (R268). -/
def txnBytes (off n : Nat) : Nat := 64 * ((off % 64 + n + 63) / 64)

/-- Where the parts of a region that belong to a run lie, base and length: the place of its micro-batch slot in a region with
a place for each, its place of a staging region or staging bitmap, else the whole region (R112, R115, R116; log entry 91). -/
def State.runPlace (s : State) (c : Nat) (seq : Word) (reg : Nat) (r : Region) : Nat × Nat :=
  match s.run? c seq with
  | none => (0, r.decl.size)
  | some q =>
    match s.objects.find? fun e => e.2.ctx == c && (e.2.decl.staging == reg || e.2.decl.stagingMap == reg) && !e.2.decl.frozen with
    | some e =>
      let n := if e.2.decl.staging = reg then e.2.decl.gradBytes else e.2.decl.mapBytes
      (tgetD q.places e.1 0 * n, n)
    | none => if r.decl.slots ≤ 1 then (0, r.decl.size) else (q.mb.getD 0 % r.decl.slots * r.decl.slotLen, r.decl.slotLen)

/-- Page table a run of a context sees of a region: a working copy at the version the run pinned (R126). -/
def State.pagesFor (s : State) (c : Nat) (seq : Word) (reg : Nat) (r : Region) : Table (List Nat) :=
  match s.objOfRegion c reg with
  | some (o, 4) =>
    match (s.runs.find? fun x => x.ctx == c && x.seq == seq).bind (·.pins) with
    | none => r.pages
    | some pins =>
      match pins.find? fun p => p.1 == o.decl.num with
      | none => r.pages
      | some p => match o.live.find? fun v => v.number == p.2 with
        | some v => v.pages
        | none => r.pages
  | _ => r.pages

/-- The sampled view that a run's plan declares under a region number, with the rows the run selected (R136). -/
def State.viewOf (s : State) (c : Nat) (seq : Word) (reg : Nat) : Option (ViewDecl × List Nat) :=
  match s.run? c seq with
  | none => none
  | some r =>
    ((s.planOf r.ctx r.slot).bind fun pl => pl.body.views.find? fun v => v.num == reg).map fun v =>
      (v, tgetD r.maps reg [])

/-- Bytes a run of a context reads of a region, from an offset in its place there: the rows beyond NSAMP of a tensor of
samples are zero (R124). -/
def State.runBytes (s : State) (c : Nat) (seq : Word) (reg off n : Nat) : List Byte :=
  match s.region? c reg with
  | none => List.replicate n 0
  | some r =>
    let bs := s.regionBytesBy r (s.pagesFor c seq reg r) ((s.runPlace c seq reg r).1 + off) n
    match s.run? c seq with
    | none => bs
    | some q =>
      let limit := q.nsamp * r.decl.sampleRow
      if r.decl.sampleRow = 0 then bs
      else (List.range n).map fun i => if off + i < limit then bs.getD i 0 else 0

/-- Writes bytes of a run into its place in a region. -/
def State.runPut (s : State) (c : Nat) (seq : Word) (reg off : Nat) (bs : List Byte) : State :=
  match s.region? c reg with
  | none => s
  | some r => s.regionPut c reg ((s.runPlace c seq reg r).1 + off) bs

/-- Bytes a run reads through a sampled view: rows from the selected count up read as zero. -/
def State.viewBytes (s : State) (c : Nat) (seq : Word) (v : ViewDecl) (rows : List Nat) (off n : Nat) : List Byte :=
  let p := if v.pitch = 0 then 1 else v.pitch
  match (s.run? c seq).bind fun r => tget r.viewRows v.num with
  | some all => (List.range n).map fun i => (all.getD ((off + i) / p) []).getD ((off + i) % p) 0
  | none => (List.range n).map fun i =>
    match rows[(off + i) / p]? with
    | none => 0
    | some k => ((s.runBytes c seq v.source (k * p + (off + i) % p) 1).getD 0 0)

/-- Where the memory bytes of a fill row lie: region and offset in the run's place, none for rows of a view without memory
traffic. -/
def State.fillSource (s : State) (i : FillItem) (off : Nat) : Option (Nat × Nat) :=
  match s.viewOf i.ctx i.seq i.entry.region with
  | none => some (i.entry.region, off)
  | some (v, rows) => (rows[off / (if v.pitch = 0 then 1 else v.pitch)]?).map fun k =>
      (v.source, k * v.pitch + off % (if v.pitch = 0 then 1 else v.pitch))

/-- The transactions of a fill run. -/
def State.fillRequests (s : State) (a : Nat) (inbound : Bool) (i : FillItem) (n : Nat) : List MemReq :=
  let e := i.entry
  (List.range e.rows).flatMap fun k =>
    match s.fillSource i (e.memOff n k) with
    | none => []
    | some (reg, off) =>
      match s.region? i.ctx reg with
      | none => []
      | some r =>
        let pages := s.pagesFor i.ctx i.seq reg r
        (pieces (e.rowBytes / 64 + 3) ((s.runPlace i.ctx i.seq reg r).1 + off) e.rowBytes).map fun p =>
          let ch := match r.addrBy pages p.1 with
            | some ad => ad / stackSize * 32 + ad % stackSize / pageSize / 1024
            | none => 0
          { ctx := i.ctx, weir := if e.dir = 0 then 0 else 1, chan := ch, bytes := txnBytes p.1 p.2, array := a, inbound := inbound }

/-- Whether a run stays inside what it names: the region and the array store, or a slice the context owns. -/
def State.fillOk (s : State) (i : FillItem) (n : Nat) : Bool :=
  let e := i.entry
  let c := i.ctx
  let last := e.memOff n (e.rows - 1) + e.rowBytes
  let st := e.storeByte n (e.rows - 1) + e.rowBytes
  decide (st ≤ 64 * storeLines) && decide (e.storeByte n 0 < 64 * storeLines) &&
    if e.dir ≤ 1 then
      match s.viewOf c i.seq e.region with
      | some (v, _) =>
        let members := match (s.run? c i.seq).bind fun r => tget r.viewRows v.num with | some _ => 64 | none => 1
        e.dir == 0 && decide (last ≤ members * v.capacity * v.pitch)
      | none => match s.region? c e.region with
        | some r => decide (last ≤ (s.runPlace c i.seq e.region r).2) && !(e.dir == 1 && s.isVersioned c e.region)
        | none => false
    else (s.ctxD c).slices.contains e.region && decide (last ≤ sliceSize)

/-- Moves the bytes of a run. -/
def State.fillMove (s : State) (a : Nat) (i : FillItem) (n : Nat) : State :=
  let e := i.entry
  (List.range e.rows).foldl (fun s k =>
    let mo := e.memOff n k
    let so := e.storeByte n k
    match e.dir with
    | 0 =>
      let bs := match s.viewOf i.ctx i.seq e.region with
        | some (v, rows) => s.viewBytes i.ctx i.seq v rows mo e.rowBytes
        | none => s.runBytes i.ctx i.seq e.region mo e.rowBytes
      s.modArr a fun x => { x with store := storePut x.store so bs }
    | 1 => s.runPut i.ctx i.seq e.region mo (storeBytes (s.arr a).store so e.rowBytes)
    | 2 =>
      let bs := memBytes (s.slice e.region) mo e.rowBytes
      s.modArr a fun x => { x with store := storePut x.store so bs }
    | _ => s.setSlice e.region (memPut (s.slice e.region) mo (storeBytes (s.arr a).store so e.rowBytes))) s

/-! ### Fill queues, and the order of waits (R98, R99) -/

def Arr.fillQ (x : Arr) (inbound : Bool) : FillQueue := if inbound then x.fillIn else x.fillOut

def Arr.setFillQ (x : Arr) (inbound : Bool) (q : FillQueue) : Arr :=
  if inbound then { x with fillIn := q } else { x with fillOut := q }

/-- The entry at the head of a queue whose run may start: its context's work runs on the array and no run is in progress. -/
def State.fillHead (s : State) (a : Nat) (inbound : Bool) : Option FillItem :=
  let q := (s.arr a).fillQ inbound
  match q.entries with
  | [] => none
  | i :: _ => if q.active || s.arrCtx a != i.ctx then none else some i

/-- A run begins: its memory transactions meet the weirs. -/
def State.fillStart (s : State) (a : Nat) (inbound : Bool) (i : FillItem) : State :=
  let q := (s.arr a).fillQ inbound
  if !s.fillOk i q.run then s.arrFault a (s.arr a).pc
  else
    let s := s.modArr a fun x => x.setFillQ inbound { q with active := true }
    if i.entry.dir ≤ 1 then (s.fillRequests a inbound i q.run).foldl (fun s m => s.weirEnter m) s else s

/-- What a waiter asks of its token: count, and whether the count stays; none for one that waits no more. -/
def State.needOf (s : State) (w : Waiter) : Option (Nat × Bool) :=
  match w.fill with
  | none => (s.arr w.array).wait.map fun k => (k.need.2.1, k.need.2.2)
  | some b => (s.fillHead w.array b).map fun _ => (1, false)

/-- A waiter whose token allows goes on. -/
def State.goOn (s : State) (w : Waiter) : State :=
  match w.fill with
  | none => s.resume w.array
  | some b => match s.fillHead w.array b with
    | some i => s.fillStart w.array b i
    | none => s

/-- Serves waiters in an order; a token whose oldest waiter is not satisfied serves no later one. -/
def State.serveList (s : State) (c : Nat) : List Waiter → List Nat → State
  | [], _ => s
  | w :: rest, blocked =>
    if s.arrCtx w.array ≠ c then s.serveList c rest blocked
    else match s.needOf w with
      | none => ({ s with waiters := s.waiters.filter (· != w) } : State).serveList c rest blocked
      | some (n, keep) =>
        if blocked.contains w.tok || decide (s.token c w.tok < n) then s.serveList c rest (w.tok :: blocked)
        else
          let s := if keep then s else s.setToken c w.tok (s.token c w.tok - n)
          (({ s with waiters := s.waiters.filter (· != w) } : State).goOn w).serveList c rest blocked

/-- Order of waits: the cycle in which they began, then the logical array number (R98). -/
def State.waitsBefore (s : State) (v w : Waiter) : Bool :=
  decide (v.since < w.since) || (v.since == w.since && decide ((s.arr v.array).logical ≤ (s.arr w.array).logical))

/-- The end of a cycle for the waits of a context. -/
def State.serveTokens (s : State) (c : Nat) : State :=
  if (s.ctxD c).thermalHold then s else s.serveList c (s.waiters.mergeSort s.waitsBefore) []

end Sys2Proof.Machine
end

