-- ==== Sys2Proof/Machine/Debug.lean ====
section
/-! DEFINITION. Counters, bandwidth windows and the sluice's own happenings (R364–R370, R377–R381). -/

namespace Sys2Proof.Machine

/-! ### Counters (R364–R368) -/

/-- Selection, value and overflow registers of a bank (0 array, 1 sector, 2 global), its counters per unit, its units. -/
structure CtrBank where
  evsel : Reg
  ctr : Reg
  ovf : Reg
  mark : Reg
  per : Nat
  units : Nat
  deriving DecidableEq, Repr

def ctrBank : Nat → Option CtrBank
  | 0 => some { evsel := .pmcEvselArray, ctr := .pmcCtrArray, ovf := .pmcOvfArray, mark := .pmcMarkArray, per := 8, units := 96 }
  | 1 => some { evsel := .pmcEvselSector, ctr := .pmcCtrSector, ovf := .pmcOvfSector, mark := .pmcMarkSector, per := 16,
                units := 6 }
  | 2 => some { evsel := .pmcEvselGlobal, ctr := .pmcCtrGlobal, ovf := .pmcOvfGlobal, mark := .pmcMarkGlobal, per := 64,
                units := 1 }
  | _ => none

/-- Whether a counter is of a sector that spring mode powers down (R368). -/
def State.ctrDark (s : State) (bank unit : Nat) : Bool :=
  s.power.state == 2 && ((bank == 0 && decide (16 ≤ unit)) || (bank == 1 && decide (1 ≤ unit)))

/-- Whether a counter is enabled and not stopped by FREEZE, by a fallow pair or by spring mode (R366, R368). -/
def State.ctrRuns (s : State) (bank : Nat) (b : CtrBank) (unit idx : Nat) : Bool :=
  s.rfi b.evsel (b.per * unit + idx) 24 1 == 1 && s.rf .pmcCtl bank 1 == 0 &&
    !(bank == 0 && (s.pair (unit / 2)).fallow) && !s.ctrDark bank unit

/-- An odd counter with CHAIN set (R367). -/
def State.ctrChained (s : State) (b : CtrBank) (unit idx : Nat) : Bool :=
  idx % 2 == 1 && s.rfi b.evsel (b.per * unit + idx) 25 1 == 1

/-- Adds to one counter; past 2^48 − 1 it wraps, sets its overflow bit, and a bit becoming set can trigger the steward
port's sluice (R367, R379, R382). -/
def State.ctrAdd1 (s : State) (b : CtrBank) (unit idx v : Nat) : State :=
  let k := b.per * unit + idx
  let n := s.rawReg b.ctr k .steward + v
  let s := s.setReg b.ctr k .steward (n % 2 ^ 48)
  if n < 2 ^ 48 then s
  else
    let was := s.rfi b.ovf unit idx 1
    let s := s.setField b.ovf unit .steward idx 1 1
    if was = 1 then s else s.trigger .steward 5

/-- Adds to a counter, and 1 to the chained odd counter beside an even one that wraps (R367). -/
def State.ctrAdd (s : State) (bank : Nat) (b : CtrBank) (unit idx v : Nat) : State :=
  let wraps := decide (2 ^ 48 ≤ s.rawReg b.ctr (b.per * unit + idx) .steward + v)
  let s := s.ctrAdd1 b unit idx v
  if wraps && idx % 2 == 0 && s.ctrChained b unit (idx + 1) && s.ctrRuns bank b unit (idx + 1) then
    s.ctrAdd1 b unit (idx + 1) 1
  else s

/-- COUNTER_OVERFLOW (R367): a running counter that passes 2^48 − 1 by the value its event presents. -/
def execCounterOverflow (bank unit idx value : Nat) (s : State) : Host.Outcome State Fault Refusal :=
  match ctrBank bank with
  | none => .fault .noSuchUnit
  | some b =>
    if b.units ≤ unit ∨ b.per ≤ idx then .fault .noSuchUnit
    else if s.ctrRuns bank b unit idx && !s.ctrChained b unit idx &&
        decide (2 ^ 48 ≤ s.rawReg b.ctr (b.per * unit + idx) .steward + value) then
      .next (s.ctrAdd bank b unit idx value)
    else .next s

/-- CLEAR of PMC_CTL: every counter of a bank at zero (R382). -/
def State.ctrClear (s : State) (bank : Nat) : State :=
  match ctrBank bank with
  | none => s
  | some b => { s with regs := s.regs.filter fun (e : RegKey × DWord) => e.1.reg != b.ctr }

/-- Disables and clears a unit's counters (R365, R368). -/
def State.ctrDisable (s : State) (bank unit : Nat) : State :=
  match ctrBank bank with
  | none => s
  | some b =>
    (List.range b.per).foldl (fun s i =>
      (s.setField b.evsel (b.per * unit + i) .steward 24 1 0).setReg b.ctr (b.per * unit + i) .steward 0) s

/-! ### Bandwidth windows (R370) -/

/-- Result of a port of the window just ended. Which bytes pass in a window is timing, so the counts are free, but for
stacks in self-refresh, whose count is 0 (log entry 40). -/
def State.bwResult (s : State) (port : Nat) : DWord :=
  if decide (port < 12) && (!s.populated port || (s.site port).selfRefresh) then 0
  else (Config.freeWord 13 (2 * (20 * s.free + port) + 1)) ++ (Config.freeWord 13 (2 * (20 * s.free + port)))

/-- Whether the window in progress has lasted its length. -/
def State.bwOver (s : State) : Bool := s.rf .pmcBwCfg 0 1 == 1 && decide (s.bwSince + cyclesPerUs * s.bwLength ≤ s.now)

/-- BW_WINDOW (R370): at the end of a window all 20 results are latched together, and the next window takes the length that
WINDOW then holds. -/
def execBwWindow (s : State) : Host.Outcome State Fault Refusal :=
  if s.bwOver then
    .next { s with bwLatched := (List.range 20).map (fun (n : Nat) => (n, s.bwResult n)), bwSeq := (s.bwSeq + 1) % 2 ^ 32,
                   free := s.free + 1, bwSince := s.now, bwLength := s.rf .pmcBwCfg 1 16 }
  else .next s

/-! ### The sluice (R379–R381) -/

/-- Writes waiting records while there are any and recording goes on; `n` bounds the queue's 256 places. -/
def State.sluiceDrain (s : State) (p : Port) : Nat → State
  | 0 => s
  | n + 1 =>
    let x := s.portSt p
    if x.frozen || (x.sluiceQueue.isEmpty && x.lostSince == 0) then s else (s.sluiceTick p).sluiceDrain p n

/-- SLUICE_TRIGGER (R379): an enabled condition becomes true. Bit 5 is honoured on the steward port's copy alone (R382). -/
def execSluiceTrigger (p : Port) (cond : Nat) (s : State) : Host.Outcome State Fault Refusal :=
  if cond = 0 ∨ 5 < cond ∨ (cond = 5 ∧ p = .tenant) then .next s else .next (s.trigger p cond)

/-- SLUICE_FREEZE (R379): the records that still wait are written until POST of them follow the trigger, and recording
stops; before that nothing freezes. -/
def execSluiceFreeze (p : Port) (s : State) : Host.Outcome State Fault Refusal :=
  let t := s.sluiceDrain p 257
  .next (if (s.portSt p).triggered && (t.portSt p).frozen then t else s)

/-- EN written as 1 begins a recording (R379). Records that waited belong to the recording before and are discarded. -/
def State.sluiceStart (s : State) (p : Port) : State :=
  s.modPort p fun x => { x with sluiceWptr := 0, triggered := false, frozen := false, wrapped := false, ringFull := false,
                                post := none, sluiceQueue := [], lostSince := 0 }

/-- Whether DUMP is obeyed (R381). -/
def State.canDump (s : State) (p : Port) : Bool := (s.portSt p).frozen || s.rfp .dbgSluiceCfg p 0 1 == 0

/-- The ring copied to host memory, oldest record first (R381). -/
def State.dumpSluice (s : State) (p : Port) : State :=
  let x := s.portSt p
  let first := if x.ringFull then 32 * x.sluiceWptr else 0
  let bs := memBytes s.hbm (sluiceBase p + first) (2 ^ 25 - first) ++ memBytes s.hbm (sluiceBase p) first
  s.hostWrite p (s.rfp .dbgSluiceDump p 12 52 * 4096) bs

/-- A sluice and its trigger as a port reset leaves the tenant's, without its registers (R381). -/
def PortState.sluiceCleared (x : PortState) : PortState :=
  { x with sluiceQueue := [], sluiceWptr := 0, triggered := false, frozen := false, dumping := false, wrapped := false,
           ringFull := false, sluiceLost := 0, lostSince := 0, post := none }

end Sys2Proof.Machine
end

