-- ==== Sys2Proof/Machine/RegRead.lean ====
section
/-! DEFINITION. What a read of each register returns (R5–R7, R443–R445, R448–R453), the values of read-only
fields being computed from the part of the state they report. -/

namespace Sys2Proof.Machine

def b2n (b : Bool) : Nat := if b then 1 else 0

/-- A number cut to a width, saturating (fields that saturate). -/
def satN (w n : Nat) : Nat := min n (2 ^ w - 1)

/-! ### Status values -/

/-- STATE of CTX_PART_MAP (R331). -/
def State.pairState (s : State) (p : Nat) : Nat :=
  let o := s.pairOwner p
  if (s.ctxD o).mode = .tornDown ∧ o ≠ 0 then 4
  else if (s.pair p).fallow then 3
  else if (s.pair p).lent then 2
  else if o = 0 then 0 else 1

/-- CTX_STATE (R315, R331). -/
def State.ctxStateWord (s : State) (c : Nat) : Nat :=
  match s.ctx? c with
  | none => 0
  | some x =>
    let m := match x.mode with | .resident => 1 | .swapped => 2 | .tornDown => 3
    let k := match x.kind with | .train => 0 | .solve => 1 | .aux => 2 | .management => 3
    m + 4 * k + 16 * x.port.code + 32 * b2n x.blocked

/-- ARR_STATUS (R453). -/
def State.arrStatusWord (s : State) (a : Nat) : Nat :=
  let x := s.arr a
  let m := if (s.pair (a / 2)).fallow then 3 else match x.mode with
    | .halted => 0 | .running => 1 | .waiting => 2 | .fallow => 3
  m + 256 * s.arrCtx a + 65536 * x.sticky.toNat

/-- A signed number as a field of w bits. -/
def signedField (w : Nat) (v : Int) : Nat := (v % (2 ^ w : Nat)).toNat

/-- Bits [31:14] of TXN_STATUS: the fewest free pool pages of any stack share and that stack; which of several is
left open (log entry 10). -/
def State.minShare (s : State) : Nat :=
  match s.stackList with
  | [] => 0
  | l =>
    let best := l.foldl (fun m n => min m (s.poolFree n)) 16383
    let who := (pickFree 4 [best] (l.filter fun n => s.poolFree n ≤ best)).getD 0
    best * 16384 + who * 0x10000000

/-- Entries of the structure table in use (R240, R265). -/
def State.slvEntries (s : State) : Nat :=
  s.problems.foldl (fun n e => n + e.2.entries.length) 0

def State.workingTotal (s : State) : Nat := s.stackList.foldl (fun n k => n + (s.workingChans k).length) 0

def State.cadStatusWord (s : State) : Nat :=
  let c := s.cad
  b2n c.anchored + 2 * b2n (c.mode == .locked) + 4 * b2n (c.mode == .holdover) + 8 * b2n c.misaligned +
    16 * b2n c.ppsOk + 256 * satN 8 c.stray + 65536 * satN 16 c.holdFrames

/-- MEM_STACK_STATUS (R285). -/
def Stack.statusWord (x : Stack) : Nat :=
  b2n x.present + 2 * b2n x.trained + 4 * b2n x.selfRefresh + 8 * (x.rate % 4) + 32 * (x.offset % 8) +
    256 * (x.temp % 256) + 65536 * satN 8 x.lanes

def State.sluiceStatusWord (s : State) (p : Port) : Nat :=
  let x := s.portSt p
  x.sluiceWptr + 0x100000 * b2n x.triggered + 0x200000 * b2n x.frozen + 0x400000 * b2n x.dumping +
    0x800000 * b2n x.wrapped + 0x100000000 * satN 32 x.sluiceLost

def State.fallowCount (s : State) : Nat := ((List.range 48).filter fun p => (s.pair p).fallow).length

/-- PWR_STATE (R400). -/
def State.pwrStateWord (s : State) : Nat :=
  s.power.state + 8 * s.fallowCount +
    512 * (List.range 12).foldl (fun m n => if (s.site n).selfRefresh then m + 2 ^ n else m) 0

/-- PORT, SPEED, WIDTH of HIF_PORT_CFG. -/
def State.portCfgWord (s : State) (p : Port) : Nat :=
  p.code + 2 * ((s.portSt p).speed % 8) + 16 * ((s.portSt p).width % 32)

/-- Owner bytes of a word of CTX_SLICE_MAP: all, or those a tenant may see (R451). -/
def State.sliceMapWord (s : State) (idx : Nat) (tenant : Bool) : Nat :=
  (List.range 4).foldl (fun m k =>
    let o := s.sliceOwner (4 * idx + k)
    if tenant && !s.ctxOnPort o .tenant then m else m + o * 2 ^ (8 * k)) 0

/-- Recipe slots of the TRAIN context that hold a microprogram (R192). -/
def State.recipeSlots (s : State) : Nat :=
  match s.trainCtx? with
  | some c => (s.ctxD c).recipes.foldl (fun m e => m + 2 ^ (e.1 % 16)) 0
  | none => 0

/-- A word of the device identity: the labels of the keys, and so the identity, differ in a start with TEST_MODE high (R417). -/
def State.deviceWord (s : State) (n : Nat) : Nat := (Config.deviceId (2 * b2n s.testMode + n)).toNat

/-- Hardware-set bits of a register: its read-only fields, from the part of the state they report. Fields that the
register file itself holds stand as they were stored. -/
def State.hwValue (s : State) (r : Reg) (idx : Nat) (p : Port) : Nat :=
  match r with
  | .hifId => match s.boot.variant with
    | some small => (if small then 0x7384 else 0x7768) + 65536 * (Config.freeNat 5 [] % 16)
    | none => 0
  | .hifPortCfg => s.portCfgWord p
  | .hifEvtStatus => satN 16 (s.portSt p).lostTotal + 65536 * satN 8 (s.portSt p).lostAttnTotal + 0x1000000 * b2n (s.portSt p).attn
  | .ctxTableBase => if 6 < s.boot.stage ∧ s.boot.stage ≠ 15 then 8 else 0
  | .ctxPartMap =>
    let x := s.pair idx
    s.pairOwner idx + 256 * (if x.lent then x.running else 0) + 65536 * s.pairState idx
  | .ctxSliceMap => s.sliceMapWord idx false
  | .ctxState => s.ctxStateWord idx
  | .cadPeriod => s.cad.period
  | .cadStatus => s.cadStatusWord
  | .cadFrame => s.stamp
  | .cadJitter => signedField 16 s.cad.jitterLast + 65536 * satN 16 s.cad.jitterMax
  | .cadPps => satN 32 s.cad.ppsCycles
  | .arrStatus => s.arrStatusWord idx
  | .crvStatus => s.curv.thetaEff + 65536 * satN 16 s.curv.deferred
  | .crvCredit => signedField 32 (s.curv.credit / 1024)
  | .grnRecipe => 65536 * s.recipeSlots
  | .grnStatus => b2n (s.site idx).present + 2 * b2n (!(s.granary idx).items.isEmpty) +
      if idx = 0 then 65536 * satN 16 (s.granary 0).skips else 0
  | .txnStatus => s.openTxns + 128 * b2n s.shadowDue.isSome + s.minShare
  | .slvStatus => s.slvEntries
  | .memCapacity => 2 * s.workingTotal + 1024 * s.workingTotal
  | .memStackStatus => (s.site idx).statusWord
  | .memChanMap => (s.site idx).out.toNat
  | .memChanFail => (s.site idx).failing.toNat
  | .memErrCnt => satN 24 (s.site idx).corrected + 0x1000000 * satN 8 (s.site idx).uncorr
  | .colStatus =>
    if idx = 0 then s.group.flights.length % 32 + 32 * b2n (!s.group.waiting.isEmpty)
    else bitsOf s.group.lost.toNat (32 * (idx - 1)) 32
  | .colCutTable => (List.range 64).foldl (fun m r => if s.rfi .colTopoTable (4 * r) 0 1 = 1 then m + 2 ^ r else m) 0
  | .numStatus => s.num.hEff + 65536 * satN 16 s.num.replays
  | .pmcBwSeq => s.bwSeq % 2 ^ 32
  | .pmcBw => (tgetD s.bwLatched idx 0).toNat
  | .dbgSluiceStatus => s.sluiceStatusWord p
  | .dbgSampleStatus =>
    let x := tgetD s.samplers idx {}
    x.wptr % 2048 + 2048 * b2n x.wrapped + 65536 * satN 16 x.dropped
  | .dbgSampleBuf =>
    let x := tgetD s.samplers (idx / 16384) {}
    ((tgetD x.records (idx % 16384 / 8) []).getD (idx % 8) 0).toNat
  | .rasLogCtl => s.ras.wptr + 32 * b2n s.ras.overflow
  | .rasCfgErr => b2n s.ras.cfgErr + 2 * s.ras.cfgPort.code + 64 * s.ras.cfgOffset
  | .rasCorr => satN 24 s.ras.sram + 0x1000000 * satN 8 s.ras.path
  | .rasLog => ((tgetD s.ras.log (idx / 4) []).getD (idx % 4) 0).toNat
  | .pwrState => s.pwrStateWord
  | .pwrBoot => s.boot.stage + 16 * s.boot.err + 512 * b2n s.boot.warm
  | .pwrStatus => satN 11 s.power.watts + 2048 * satN 8 s.power.junction + 0x80000 * s.power.gate +
      0x1000000 * b2n s.power.byTemp + 0x2000000 * b2n s.power.byPower
  | .pwrSpring => s.power.spring + 4 * s.power.cause.toNat + 64 * s.power.cleared.toNat
  | .secAttest => 2 * b2n (!s.attestQueue.isEmpty) + 65536 * satN 16 s.attestCount
  | .secStatus => b2n s.boot.identity + 2 * b2n s.testMode
  | .secDevid => if s.boot.identity then s.deviceWord 0 + 2 ^ 32 * s.deviceWord 1 else 0
  | .secFwVer => s.boot.version.toNat + 2 ^ 32 * s.boot.svn.toNat
  | .secFwMeas => bitsOf s.boot.measurement.toNat (32 * idx) 32
  | _ => 0

/-- Whether a field's value is held in the register file: what a write sets, and the counters, overflow bits and
effective weir rates. -/
def heldInFile (r : Reg) (f : RField) : Bool :=
  (match f.acc with | .rw => true | _ => false) || r == .pmcOvfGlobal || r == .pmcOvfSector || r == .pmcOvfArray ||
    r == .ctxWeirEff

/-- A register's present value, reserved bits zero, WO fields zero. -/
def State.regValue (s : State) (r : Reg) (idx : Nat) (p : Port) : Nat :=
  let fs := fieldsAt r idx
  let fileMask := maskOf fs (heldInFile r)
  let hwMask := maskOf fs fun f => !heldInFile r f && f.acc != .wo
  (s.rawReg r idx (copyOf r p) &&& fileMask) ||| (s.hwValue r idx p &&& hwMask)

/-! ### What a port may see (R7, R331, R365, R451) -/

/-- Bits of a register that the tenant port may read. -/
def State.tenantMask (s : State) (r : Reg) (idx : Nat) : Nat :=
  let fs := fieldsAt r idx
  let plain := maskOf fs fun f => !f.steward
  let gate (b : Bool) : Nat := if b then plain else 0
  let own (pair : Nat) : Bool := s.ctxOnPort (s.pairOwner pair) .tenant
  match r with
  | .ctxState => gate (s.ctxOnPort idx .tenant)
  | .ctxWeirEff => gate (s.ctxOnPort (idx / 4) .tenant)
  | .ctxPartMap => gate (own idx)
  | .arrStatus => gate (own (idx / 2))
  | .pmcEvselArray => gate (own (idx / 16))
  | .pmcCtrArray => gate (own (idx / 16))
  | .pmcOvfArray => gate (own (idx / 2))
  | .pmcMarkArray => gate (own (idx / 2))
  | .pmcEvselSector => gate (s.ctxOnPort (s.rfi .pmcEvselSector idx 32 8) .tenant)
  | .pmcCtrSector => gate (s.ctxOnPort (s.rfi .pmcEvselSector idx 32 8) .tenant)
  | .pmcOvfSector => (List.range 16).foldl (fun m k =>
      if s.ctxOnPort (s.rfi .pmcEvselSector (16 * idx + k) 32 8) .tenant then m + 2 ^ k else m) 0
  | .dbgSampleBuf => gate (s.ctxOnPort (s.rfi .dbgSampleCfg (idx / 16384) 8 8) .tenant)
  | _ => plain

/-- What a port reads of a register. -/
def State.regSeen (s : State) (r : Reg) (idx : Nat) (p : Port) : Nat :=
  match p with
  | .steward => s.regValue r idx p
  | .tenant => if r = .ctxSliceMap then s.sliceMapWord idx true else s.regValue r idx p &&& s.tenantMask r idx

/-! ### Offsets (R443, R448–R450) -/

/-- What a port reaches at an offset: a register's copy, or nothing. -/
inductive Target where
  | reg (r : Reg) (idx word bytes : Nat) (copy : Port) (mirror : Bool)
  | nothing
  deriving DecidableEq, Repr

/-- Number of the slice an offset of the GRN or MEM block lies in. -/
def sliceSite (off : Nat) : Option Nat :=
  if (0x500000 ≤ off ∧ off < 0x5C0000) ∨ (0x800000 ≤ off ∧ off < 0x8C0000) then some (off % 0x100000 / 0x10000) else none

/-- Whether the slice at an offset is served: populated, or not yet known, from a cold reset to the end of training
(R450). -/
def State.siteServed (s : State) (off : Nat) (r : Reg) : Bool :=
  match sliceSite off with
  | none => true
  | some n => r == .memBar2Base || (!s.boot.warm && decide (s.boot.stage < 5)) || s.populated n

/-- The register at an offset, as a port reaches it. -/
def State.target (s : State) (p : Port) (off : Nat) : Target :=
  match regAt off with
  | some h => if s.siteServed off h.row.reg then .reg h.row.reg h.idx h.word h.row.bytes p false else .nothing
  | none =>
    if off < 0x8000 then .nothing else
    match regAt (off - 0x8000) with
    | some h =>
      if h.row.perPort && p == .steward then .reg h.row.reg h.idx h.word h.row.bytes .tenant true else .nothing
    | none => .nothing

/-- Registers served before READY (R389). -/
def earlyReg : Reg → Bool
  | .pwrBoot => true
  | .pwrState => true
  | .hifId => true
  | .hifEvtRing => true
  | .hifDoorbellBase => true
  | .memChanForce => true
  | .mem1500En => true
  | _ => false

/-- Registers served in a halt (R406, R448). -/
def haltReg : Reg → Bool
  | .rasLog => true
  | .rasLogCtl => true
  | .pwrState => true
  | .pwrSpring => true
  | _ => false

/-- Registers that show why start-up stopped (R273, and STAGE 15 of R389). -/
def stoppedReg : Reg → Bool
  | .memStackStatus => true
  | .rasLog => true
  | .rasLogCtl => true
  | _ => false

/-- Whether the device is past READY. -/
def State.isReady (s : State) : Bool := s.boot.stage == 7

/-- Whether a register is served now (R448; R273 and R389 for a start-up that stopped, log entry 103). -/
def State.served (s : State) (r : Reg) : Bool :=
  if s.power.state = 3 then haltReg r
  else if s.isReady then true
  else earlyReg r || (s.boot.stage == 15 && stoppedReg r)

/-- Whether a port's BAR0 answers: power good, no reset held, its link up, past the mask ROM, and with IDE_REQ its link
stream established (R289, R389, R423, R448). -/
def State.barOpen (s : State) (p : Port) : Bool :=
  s.pwrok && s.rstHigh && s.steward.perstHigh && (s.portSt p).perstHigh && s.portOpen p && decide (0 < s.boot.stage)

/-- One aligned 32-bit word as a port reads it. -/
def State.readWord (s : State) (p : Port) (off : Nat) : Nat :=
  match s.target p off with
  | .reg r idx word _ copy mirror =>
    if !s.served r then 0
    else bitsOf (if mirror then s.regValue r idx copy else s.regSeen r idx p) (32 * word) 32
  | .nothing => 0

/-- Whether an offset is the low word of a 64-bit register (R445). -/
def State.isLow64 (s : State) (p : Port) (off : Nat) : Bool :=
  match s.target p off with
  | .reg _ _ word bytes _ _ => bytes == 8 && word == 0
  | .nothing => false

/-- One 32-bit read: the capture is used, made or discarded (R445). -/
def State.read32 (s : State) (p : Port) (off : Nat) : Nat × State :=
  let x := s.portSt p
  let s := s.setPort p { x with captured := none, held := none }
  match x.captured with
  | some (o, v) =>
    if o = off then (v.toNat, s)
    else if s.isLow64 p off then
      (s.readWord p off, s.modPort p fun x => { x with captured := some (off + 4, BitVec.ofNat 32 (s.readWord p (off + 4))) })
    else (s.readWord p off, s)
  | none =>
    if s.isLow64 p off then
      (s.readWord p off, s.modPort p fun x => { x with captured := some (off + 4, BitVec.ofNat 32 (s.readWord p (off + 4))) })
    else (s.readWord p off, s)

/-- One aligned 64-bit read. -/
def State.read64 (s : State) (p : Port) (off : Nat) : Nat × State :=
  (s.readWord p off + 2 ^ 32 * s.readWord p (off + 4), s.modPort p fun x => { x with captured := none, held := none })

/-- A read of whole words from an offset that is a multiple of 4, in increasing order (R444); `n` words. -/
def State.readWords (s : State) (p : Port) (off : Nat) : Nat → List Byte × State
  | 0 => ([], s)
  | 1 => let r := s.read32 p off; (leBytes 4 r.1, r.2)
  | n + 2 =>
    if off % 8 = 0 then
      let r := s.read64 p off
      let t := r.2.readWords p (off + 8) n
      (leBytes 8 r.1 ++ t.1, t.2)
    else
      let r := s.read32 p off
      let t := r.2.readWords p (off + 4) (n + 1)
      (leBytes 4 r.1 ++ t.1, t.2)

/-- A read of BAR0 (R443–R445): the bytes, and the state after. -/
def State.busRead (s : State) (p : Port) (off width : Nat) : List Byte × State :=
  if width = 1 ∨ width = 2 then
    let s' := s.modPort p fun x => { x with captured := none, held := none }
    if off % width ≠ 0 then (List.replicate width 0, s'.cfgError p off)
    else (((leBytes 4 (s.readWord p (off - off % 4))).drop (off % 4)).take width, s')
  else if off % 4 ≠ 0 ∨ width % 4 ≠ 0 then
    (List.replicate width 0, (s.modPort p fun x => { x with captured := none, held := none }).cfgError p off)
  else s.readWords p off (width / 4)

/-- REGISTER_READ (R445): a read of BAR0 is answered; no answer comes from a port that does not answer. -/
def execRegisterRead (p : Port) (offset width : Nat) (s : State) : Host.Outcome State Fault Refusal :=
  if s.barOpen p then
    let r := s.busRead p offset width
    .next (r.2.modPort p fun x => { x with readData := r.1 })
  else .next s

end Sys2Proof.Machine
end

