-- ==== Sys2Proof/Machine/Plan.lean ====
section
/-! DEFINITION. PLAN_LOAD: the checks of a container, and what loading it allocates (R105–R108, R118, R123, R134, R183,
R227, R272, R314, R345, R456). -/

namespace Sys2Proof

/-- Regions of an object's components and working state (R182, R183, R343). -/
def ObjectDecl.regions (d : ObjectDecl) : List Nat :=
  (if d.frozen then [d.wc]
   else [d.master] ++ (if d.hasM then [d.mReg] else []) ++ (if d.hasV then [d.vReg] else []) ++ [d.wc, d.grad, d.err, d.staging,
     d.gradMap, d.stagingMap]) ++ (if d.wcFmt = 8 then [d.wcMap] else []) ++ (if d.shard = 2 then [d.scratch] else [])

/-- Components whose elements must share a stack (R183). -/
def ObjectDecl.together (d : ObjectDecl) : List Nat :=
  [d.master] ++ (if d.hasM then [d.mReg] else []) ++ (if d.hasV then [d.vReg] else []) ++ [d.wc, d.grad, d.err, d.staging]

/-- What two declarations of a weight object must have in common: shape, formats, components and FROZEN marking (R456). -/
def ObjectDecl.identity (d : ObjectDecl) : List Nat :=
  [d.num, if d.frozen then 1 else 0, d.cols, d.rows, if d.pairMaster then 1 else 0, if d.hasM then 1 else 0, if d.hasV then 1 else 0,
   d.wcFmt, d.shard, d.shardCut] ++ d.regions

/-- What two declarations of a region must have in common: placement attribute, byte length, shape and format (R456). -/
def RegionDecl.identity (d : RegionDecl) : Placement × Nat × Bool × Nat × Option (Bool × Nat × Nat × Nat) :=
  (d.place, d.size, d.versioned, d.slots, d.carried.map fun k => (k.wide, k.rows, k.nb, k.bitmap))

/-- Objects with statistics or GRAM steps in a plan (R118). -/
def PlanBody.gramObjects (b : PlanBody) : List Nat :=
  b.stats.map (·.obj) ++ b.stages.flatMap (fun t => t.grams.map (·.1)) ++ b.views.map (·.obj)

/-- A fill entry as its eight words (R99); none for a reserved bit, a field outside its range, or an OFFSET that is no multiple
of 64 (log entry 94). -/
def decodeFill (ws : List Word) : Option FillEntry :=
  let w (i : Nat) : Nat := (ws.getD i 0).toNat
  let f (i lo n : Nat) : Nat := w i / 2 ^ lo % 2 ^ n
  if ws.length ≠ 8 ∨ f 0 2 6 ≠ 0 ∨ f 0 26 6 ≠ 0 ∨ f 1 15 1 ≠ 0 ∨ f 3 8 24 ≠ 0 ∨ f 7 16 16 ≠ 0 ∨ f 1 16 16 = 0 ∨ f 2 0 16 = 0 ∨
      w 4 % 64 ≠ 0 then none
  else some { dir := f 0 0 2, waitTok := f 0 8 8, sigTok := f 0 16 8, waitEn := f 0 24 1 = 1, sigEn := f 0 25 1 = 1, line := f 1 0 15,
              rows := f 1 16 16, rowBytes := f 2 0 16, stride := f 2 16 16, region := f 3 0 8, offset := w 4 + 2 ^ 32 * w 5,
              mstride := w 6, repeats := f 7 0 16 }

/-- The fill entries of a list that decode. -/
def fillEntries (l : List (List Word)) : List FillEntry := l.filterMap decodeFill

/-- Blocks of a statistic (R132). -/
def StatDecl.blocks (d : StatDecl) : Nat := if d.blockSize = 0 then 0 else (d.dim + d.blockSize - 1) / d.blockSize

/-- Real and stored size of block q. -/
def StatDecl.real (d : StatDecl) (q : Nat) : Nat := min d.blockSize (d.dim - q * d.blockSize)
def StatDecl.stored (d : StatDecl) (q : Nat) : Nat := (d.real q + 127) / 128 * 128

/-- Bytes of a block of stored size b: its tiles of 128 KiB. -/
def blockBytes (b : Nat) : Nat := (b / 128) * (b / 128) * 131072

/-- Root memory of a block of a size: the inverse root, its binary16 copy, the root (R160; log entry 96). -/
def rootBytes (b : Nat) : Nat := 10 * b * b

end Sys2Proof

namespace Sys2Proof.Machine

/-! ### Cuts (R333, R334) -/

def State.rankValid (s : State) (r : Nat) : Bool := s.rawReg .colTopoTable (4 * r) .steward % 2 == 1

/-- Ranks of a cut in increasing order; cut 0 is the set of VALID ranks. -/
def State.cutRanks (s : State) (cut : Nat) : List Nat :=
  (List.range 64).filter fun r => if cut = 0 then s.rankValid r else bitsOf (s.rawReg .colCutTable cut .steward) r 1 == 1

def State.ownRank (s : State) : Nat := s.rf .colCfg 1 6
def State.groupSize (s : State) : Nat := s.rf .colCfg 7 7

/-- Position of the device in a cut. -/
def State.cutPos (s : State) (cut : Nat) : Nat := ((s.cutRanks cut).filter (· < s.ownRank)).length

/-- Whether the device holds block q of a statistic: the owner of a shared one (R345). -/
def State.ownsBlock (s : State) (d : StatDecl) (q : Nat) : Bool :=
  match d.shared with
  | none => true
  | some cut => q % max 1 (s.cutRanks cut).length == s.cutPos cut

/-- Code of a collective: the sub-operation of COLL, or the number of an exchange the device makes itself: 5 norm, 6 grafting
sums, 7 working copy of H mode, 8 of L mode, 9 roots, 10 sampled view (log entry 25). -/
def Coll.code (f : Coll) : Nat := if f.desc.opcode = 0x28 then f.desc.f 2 0 3 else f.desc.f 2 0 8

/-! ### Sending and credit (R335) -/

def windowSize : Nat := 2 ^ 20

/-- Bytes owed to a peer go out while less than 1 MiB is outstanding. -/
def Group.send (g : Group) (rank n : Nat) : Group :=
  let owed := tgetD g.unsent rank 0 + n
  let room := windowSize - tgetD g.outstanding rank 0
  { g with outstanding := tadd g.outstanding rank (min owed room), unsent := tset g.unsent rank (owed - min owed room) }

/-- The device's operand goes to the other members of a cut, charged to the context's collective weir (R328). -/
def State.sendTo (s : State) (c : Nat) (ranks : List Nat) (n : Nat) : State :=
  let others := ranks.filter (· != s.ownRank)
  let s := (s.charge c 3 (others.length * n)).pulse 0x247 0 (others.length * n) c 0
  { s with group := others.foldl (fun (g : Group) r => g.send r n) s.group }

/-- Collectives the engine runs at once (R335). -/
def collPlaces : Nat := 16

/-- Whether the collective engine runs: enabled, and not in spring mode (R351, R409; log entry 104). -/
def State.collOn (s : State) : Bool := s.rf .colCfg 0 1 == 1 && s.power.state != 2

/-- An exchange the device makes itself begins. -/
def State.beginExchange (s : State) (f : Coll) : State :=
  let s := s.sendTo f.ctx f.cut f.own.length
  { s with group := { s.group with flights := s.group.flights ++ [f] } }

/-- Starts an exchange the device makes itself over a cut, once a place is free (R193, R335, R342–R345). -/
def State.exchange (s : State) (c : Nat) (seq : Word) (code : Nat) (key : Word) (obj arg cut : Nat) (own : List Byte) : State :=
  let f : Coll := { ctx := c, seq := seq, desc := Desc.ofWords [0, 0, BitVec.ofNat 32 code, key, 0, 0, BitVec.ofNat 32 obj, BitVec.ofNat 32 arg],
                    cut := s.cutRanks cut, own := own }
  if s.collOn ∧ s.group.flights.length < collPlaces then s.beginExchange f
  else { s with group := { s.group with queue := s.group.queue ++ [f] } }

/-- Whether such an exchange is in flight or waits for a place. -/
def State.exchanging (s : State) (seq : Word) (code obj arg : Nat) : Bool :=
  (s.group.flights ++ s.group.queue).any fun f => f.desc.opcode == 0 && f.seq == seq && f.code == code && f.desc.w 6 == obj && f.desc.w 7 == arg

/-- Whether the device belongs to a cut of a group. -/
def State.inCut (s : State) (cut : Nat) : Bool := s.groupSize != 0 && (s.cutRanks cut).contains s.ownRank

def State.ownedBlocks (s : State) (d : StatDecl) : List Nat := (List.range d.blocks).filter (s.ownsBlock d)

/-! ### The container (R105, R106) -/

def planField (bs : List Byte) (off n : Nat) : Nat := leNat (sliceBytes bs off n)

/-- The container's bytes; of one whose header gives another size than the descriptor, or too large a one, the header alone. -/
def State.planBytes (s : State) (c : Nat) (d : Desc) : List Byte :=
  let head := s.hostRead (s.ctxD c).port (d.w64 3) 64
  if planField head 8 8 = d.w64 5 ∧ d.w64 5 ≤ 2 ^ 28 then s.hostRead (s.ctxD c).port (d.w64 3) (d.w64 5) else head

/-- Entry i of the section table: type, offset, size. -/
def planSection (bs : List Byte) (i : Nat) : Nat × Nat × Nat :=
  (planField bs (64 + 24 * i) 4, planField bs (64 + 24 * i + 8) 8, planField bs (64 + 24 * i + 16) 8)

/-- Magic, format, sizes and section table, and a body that fits them. -/
def planHeaderOk (bs : List Byte) (size : Nat) (b : PlanBody) : Bool :=
  let nsect := planField bs 40 4
  let secs := (List.range nsect).map (planSection bs)
  let first := 64 + 24 * nsect
  planField bs 0 4 == 0x4C50424D && planField bs 4 4 == 0x00010000 && planField bs 8 8 == size && decide (size ≤ 2 ^ 28) &&
    decide (first + 32 ≤ size) && decide (1 ≤ planField bs 16 4) && decide (planField bs 16 4 ≤ 48) &&
    decide (1 ≤ planField bs 20 4) && decide (planField bs 20 4 ≤ 6) && decide (1 ≤ planField bs 24 4) &&
    decide (planField bs 24 4 ≤ 65535) && decide (planField bs 28 4 ≤ 2) &&
    (secs.all fun e => decide (1 ≤ e.1) && decide (e.1 ≤ 3) && decide (first ≤ e.2.1) && decide (e.2.1 + e.2.2 ≤ size - 32)) &&
    (secs.filter fun e => e.1 == 1).length == 2 * planField bs 16 4 &&
    b.programs.length == 2 * planField bs 16 4 && b.groups.length == planField bs 16 4 &&
    (groupSizes b.groups).length == planField bs 20 4 && b.stages.length == planField bs 24 4 &&
    ((b.programs ++ b.replays).all fun p =>
      (p.segments.all fun g => decide (g.2 ≤ 4096) && decide (first ≤ g.1) && decide (g.1 + 4 * g.2 ≤ size - 32)) &&
        (p.fillsIn ++ p.fillsOut).all fun ws => (decodeFill ws).isSome)

def planMeasure (bs : List Byte) (size : Nat) : BitVec 256 := sha3 (sliceBytes bs 0 (size - 32))

/-- Words of a container from a byte on. -/
def planWords (bs : List Byte) (off n : Nat) : List Word :=
  (List.range n).map fun i => BitVec.ofNat 32 (planField bs (off + 4 * i) 4)

/-- Every instruction of every program under R84 to R96, and tiles whose rows begin at multiples of 128 of the reduction (R58). -/
def planInstrOk (bs : List Byte) (b : PlanBody) : Bool :=
  ((b.programs ++ b.replays).all fun p => programOk (p.segments.map fun g => planWords bs g.1 g.2)) && b.tiles.all fun t => t % 128 == 0

/-! ### Checks of the declarations -/

/-- Weight objects declared where the context's kind does not allow them (R314). -/
def State.planKindBad (s : State) (c : Nat) (b : PlanBody) : Bool :=
  match (s.ctxD c).kind with
  | .train => false
  | .aux =>
    match s.trainCtx? with
    | none => true
    | some t =>
      let known (n : Nat) : Bool := s.objects.any fun e => e.1 == n && e.2.ctx == t
      (b.objects.any fun d => d.writes || !known d.num) || b.stages.any fun g => g.weights.any fun n => !known n
  | _ => !b.objects.isEmpty

/-- Whether a region number of an AUX plan is a component of an object it names. -/
def State.isForeign (s : State) (c : Nat) (b : PlanBody) (n : Nat) : Bool :=
  (s.ctxD c).kind == .aux && b.objects.any fun d => d.regions.contains n

/-- The region a declaration of the plan refers to, when it exists, with the context that holds it. -/
def State.declared (s : State) (c : Nat) (b : PlanBody) (n : Nat) : Option (Nat × Region) :=
  let h := if s.isForeign c b n then s.trainCtx?.getD c else c
  (tget (s.ctxD h).regions n).map fun r => (h, r)

/-- Disagreement with earlier declarations (R456, R134). -/
def State.planConflict (s : State) (c : Nat) (b : PlanBody) : Option Nat :=
  firstBad [
    (b.objects.any fun d => match tget s.objects d.num with
      | some o => o.decl.identity != d.identity
      | none => false, 0x0308),
    (b.stats.any fun d => match tget s.stats (statKey d.obj d.side) with
      | some t => t.decl.dim != d.dim || t.decl.blockSize != d.blockSize
      | none => false, 0x0402),
    (b.stats.any fun d => match tget s.stats (statKey d.obj d.side) with
      | some t => t.decl.region != d.region || t.decl.roots != d.roots
      | none => false, 0x0308),
    (b.regions.any fun d => match s.declared c b d.num with
      | some e => e.2.decl.identity != d.identity || s.placeStacks (s.ctxD e.1).pairs d.place != e.2.stacksOf
      | none => false, 0x0308)]

/-- Whether an object that a plan names is frozen: by its own declaration, or by an earlier one (R118, R456). -/
def State.frozenObj (s : State) (c : Nat) (b : PlanBody) (n : Nat) : Bool :=
  (b.objects.any fun o => o.num == n && o.frozen) ||
    match tget s.objects n with
    | some o => o.ctx == (if (s.ctxD c).kind = .aux then s.trainCtx?.getD c else c) && o.decl.frozen
    | none => false

/-- Two weight objects with a region in common (R123). -/
def aliased (ds : List ObjectDecl) : Bool :=
  ds.any fun a => ds.any fun b => a.num != b.num && a.regions.any fun r => b.regions.contains r

/-- Components of a trained object on different stacks (R183). -/
def State.planSplit (s : State) (c : Nat) (b : PlanBody) : Bool :=
  b.objects.any fun d => !d.frozen &&
    match d.together.map fun n => (b.regions.find? fun r => r.num == n).map fun r => s.placeStacks (s.ctxD c).pairs r.place with
    | [] => false
    | x :: xs => x.isNone || xs.any (· != x)

/-- Statistics the plan creates: those of a TRAIN context that do not exist yet. -/
def State.newStats (s : State) (c : Nat) (b : PlanBody) : List StatDecl :=
  if (s.ctxD c).kind = .train then b.stats.filter fun d => (tget s.stats (statKey d.obj d.side)).isNone else []

/-- Regions the plan allocates. -/
def State.newRegions (s : State) (c : Nat) (b : PlanBody) : List RegionDecl :=
  b.regions.filter fun d => (s.declared c b d.num).isNone && !s.isForeign c b d.num

/-- The plan cache as a region placed NEAR (R108). -/
def cacheDecl (size : Nat) : RegionDecl :=
  { num := 0, place := .near, size := size, versioned := false, carried := none, sampleRow := 0, slots := 1 }

/-- Allocates regions in turn; the detail of the first that cannot be (R272). -/
def State.allocAll (s : State) (pairs : List Nat) : List RegionDecl → Except Nat (State × List Region)
  | [] => .ok (s, [])
  | d :: ds =>
    let stks := s.placeStacks pairs d.place
    if !stks.all s.populated then .error 0x0801
    else if !s.regionFits stks d.size then .error 0x0802
    else
      let r := s.allocRegion pairs d
      match r.1.allocAll pairs ds with
      | .error e => .error e
      | .ok x => .ok (x.1, r.2 :: x.2)

/-- An incomplete PLAN_RUN uses a slot. -/
def State.slotBusy (s : State) (c slot : Nat) : Bool :=
  (s.ctxD c).opens.any fun o => o.desc.opcode == 0x09 && o.desc.f 2 0 3 == slot

/-- The checks of a container whose sections hold a given content. -/
def State.checkPlan (s : State) (c : Nat) (d : Desc) (b : PlanBody) : Checks :=
  let bs := s.planBytes c d
  let size := d.w64 5
  let pairs := (s.ctxD c).pairs
  { fmt := (firstBad [
      (badFor0 c d, dCtxKind), (d.inTxn, dTxnMember), (reservedSet d [7, full, full, full, full], dReserved),
      (!planHeaderOk bs size b, 0x0201), (planMeasure bs size != BitVec.ofNat 256 (planField bs (size - 32) 32), 0x0202),
      (!planInstrOk bs b, 0x0203), (s.planKindBad c b, dCtxKind)]).or
      ((s.planConflict c b).or (firstBad [
        (aliased b.objects, 0x0306), (s.planSplit c b, 0x0501),
        (b.gramObjects.any (s.frozenObj c b), 0)]))
    lim := (firstBad [
      ((groupSectors pairs b.groups).isNone, 0x0204),
      ((planField bs 28 4 == 1 && s.isSmall) || (planField bs 28 4 == 2 && !s.isSmall), 0x0205),
      (decide (8 ≤ (s.ctxD c).plans.length) && (tget (s.ctxD c).plans (d.f 2 0 3)).isNone, 0x0206),
      (s.slotBusy c (d.f 2 0 3), 0x0207),
      (decide (4096 < s.blocks.length + ((s.newStats c b).map fun t => (s.ownedBlocks t).length).sum), 0x0401)]).or
      (match s.allocAll pairs (s.newRegions c b ++ [cacheDecl size]) with | .error e => some e | .ok _ => none) }

def State.checkPlanLoad (s : State) (c : Nat) (d : Desc) : Checks := s.checkPlan c d (Config.planBody (s.planBytes c d))

/-! ### What loading does -/

/-- Initial writes of a CARRIED tensor, in each of its places (R227). -/
def State.initCarried (s : State) (c : Nat) (d : RegionDecl) : State :=
  match d.carried with
  | none => s
  | some t =>
    let pitch := blockPitch (64 * t.nb)
    let row := (List.range t.nb).flatMap fun _ => List.replicate 64 0 ++ [BitVec.ofNat 8 t.exponent, 0]
    let base (r k : Nat) : Nat := match s.region? c r with
      | some g => if g.decl.slots ≤ 1 then 0 else k * g.decl.slotLen
      | none => 0
    (List.range (max 1 d.slots)).foldl (fun s k =>
      let s := (List.range t.rows).foldl (fun s r => s.regionPut c d.num (base d.num k + r * pitch) row) s
      s.regionPut c t.bitmap (base t.bitmap k) (List.replicate ((t.rows * t.nb + 7) / 8) 0)) s

/-- An object as PLAN_LOAD creates it: version 0, a frozen one version 1 (R208, R118). -/
def State.createObject (s : State) (c : Nat) (d : ObjectDecl) : State :=
  match tget s.objects d.num with
  | some _ => s
  | none =>
    let n := if d.frozen then 1 else 0
    let pages := match tget (s.ctxD c).regions d.wc with | some r => r.pages | none => []
    { s with objects := tset s.objects d.num { decl := d, ctx := c, version := n, live := [{ number := n, pages := pages }] } }

/-- First block number beyond those in use. -/
def State.nextBlock (s : State) : Nat := s.blocks.foldl (fun n e => max n (e.1 + 1)) 0

/-- A statistic with its blocks, empty (R131, R134). -/
def State.createStat (s : State) (d : StatDecl) : State :=
  let s := { s with stats := tset s.stats (statKey d.obj d.side) { decl := d, f := d.fraction } }
  (s.ownedBlocks d).foldl (fun s q =>
    { s with blocks := tset s.blocks s.nextBlock { obj := d.obj, side := d.side, q := q, size := d.stored q, real := d.real q, offset := q * blockBytes d.blockSize,
                                                   rootAt := q * rootBytes d.blockSize } }) s

/-- Regions of a context that outlive its plans: components of objects and statistics (R456). -/
def State.permanent (s : State) (c : Nat) : List Nat :=
  (s.objects.flatMap fun e => if e.2.ctx = c then e.2.decl.regions else []) ++
    (s.stats.flatMap fun e => match tget s.objects e.2.decl.obj with
      | some o => if o.ctx = c then [e.2.decl.region, e.2.decl.roots] else []
      | none => [])

/-- Releases the regions that no loaded plan of a context declares any longer. -/
def State.releaseRegions (s : State) (c : Nat) : State :=
  let x := s.ctxD c
  let keep := s.permanent c ++ x.plans.flatMap fun e => e.2.body.regions.map (·.num)
  let gone := x.regions.filter fun e => !keep.contains e.1
  (gone.foldl (fun s e => s.freeTable e.2.pages) s).modCtx c fun x =>
    { x with regions := x.regions.filter fun e => keep.contains e.1 }

/-- A plan that is discarded or reloaded disarms the points on its stages (R374). -/
def State.disarm (s : State) (c slot : Nat) : State :=
  s.modCtx c fun x => { x with watches := x.watches.filter fun e => e.2.plan != slot }

/-- Empties a slot: its cache pages and the regions it alone declared are released. -/
def State.dropPlan (s : State) (c slot : Nat) : State :=
  match tget (s.ctxD c).plans slot with
  | none => s
  | some p =>
    let s := s.freeTable p.cache.pages
    ((s.modCtx c fun x => { x with plans := tdel x.plans slot }).disarm c slot).releaseRegions c

/-- Reloading a plan of the TRAIN context resets the refresh credit and abandons its refreshes (R146, R161). -/
def State.reloaded (s : State) (c slot : Nat) : State :=
  match tget (s.ctxD c).plans slot with
  | none => s
  | some p =>
    if (s.ctxD c).kind ≠ .train then s
    else
      let s := s.abandon fun r => match tget s.blocks r.block with
        | some b => p.body.stats.any fun t => t.obj == b.obj && t.side == b.side
        | none => false
      { s with curv := { s.curv with credit := 0 } }

/-- Loads a plan whose checks have passed. -/
def State.loadPlan (s : State) (c : Nat) (d : Desc) (b : PlanBody) : State :=
  let bs := s.planBytes c d
  let size := d.w64 5
  let slot := d.f 2 0 3
  let fresh := s.newRegions c b
  let stats := s.newStats c b
  match s.allocAll (s.ctxD c).pairs (fresh ++ [cacheDecl size]) with
  | .error _ => s
  | .ok (s, rs) =>
    let cache := rs.getLastD default
    let s := s.modCtx c fun x => { x with regions := (rs.take fresh.length).foldl (fun t r => tset t r.decl.num r) x.regions }
    let s := s.regionPutBy cache cache.pages 0 bs
    let s := if (s.ctxD c).kind = .train then b.objects.foldl (fun s o => s.createObject c o) s else s
    let s := stats.foldl (fun s t => s.createStat t) s
    let s := b.regions.foldl (fun s r => s.initCarried c r) s
    let s := s.reloaded c slot
    let s := match tget (s.ctxD c).plans slot with | some p => s.freeTable p.cache.pages | none => s
    let pl : Plan := { measurement := planMeasure bs size, body := b, size := size, cache := cache,
                       freshFor := List.range (2 * b.groups.length) }
    let s := ((s.modCtx c fun x => { x with plans := tset x.plans slot pl }).disarm c slot).releaseRegions c
    s.settleStacks.thermalMark.finish c d stDone 0 0

def State.startPlanLoad (s : State) (c : Nat) (d : Desc) : State := s.loadPlan c d (Config.planBody (s.planBytes c d))

end Sys2Proof.Machine
end

