-- ==== Sys2Proof/Machine/Tile.lean ====
section
/-! DEFINITION. The tile instructions and the steps of the arrays, fill engines, PRU and memory places that complete them
(R19, R58, R61, R66–R68, R73, R79–R100, R104, R269, R328). -/

namespace Sys2Proof.Machine

/-- The register an instruction names. -/
def Arr.areg (x : Arr) (r : Nat) : AddrReg := tgetD x.aregs r {}
def Arr.preg (x : Arr) (r : Nat) : PosReg := tgetD x.pregs r {}
def Arr.setAreg (x : Arr) (r : Nat) (v : AddrReg) : Arr := { x with aregs := tset x.aregs r v }
def Arr.setPreg (x : Arr) (r : Nat) (v : PosReg) : Arr := { x with pregs := tset x.pregs r v }

/-- Advances each of some registers once, by n rows. -/
def Arr.advanceAll (x : Arr) (n : Nat) (rs : List Nat) : Arr :=
  rs.eraseDups.foldl (fun x r => x.setAreg r ((x.areg r).advance n)) x

def always (_ : State) (_ : Arr) : Bool := true

/-- No pass is queued or active. -/
def idlePasses (_ : State) (x : Arr) : Bool := x.passes.isEmpty

/-! ### CFG (R82, R83, R86, R87) -/

def execCfgMode (a fs fm : Nat) (strict : Bool) (rnd acc : Nat) (sgnS sgnM : Bool) (s : State) :
    Host.Outcome State Fault Refusal :=
  tileRow a (.cfgMode fs fm strict rnd acc sgnS sgnM) always (fun s _ => s.modArr a fun x =>
    { x with cfg := { fs := fs, fm := fm, strict := strict, rnd := rnd, acc := acc, sgnS := sgnS, sgnM := sgnM } }) s

def execCfgAddr (a areg origin : Nat) (stride : Int) (wrap : Nat) (s : State) : Host.Outcome State Fault Refusal :=
  tileRow a (.cfgAddr areg origin stride wrap) always (fun s _ => s.modArr a fun x =>
    x.setAreg areg { origin := origin, offset := 0, stride := stride, wrap := wrap }) s

def execCfgPos (a preg base rowlen : Nat) (adv : Int) (s : State) : Host.Outcome State Fault Refusal :=
  tileRow a (.cfgPos preg base rowlen adv) always (fun s _ => s.modArr a fun x =>
    x.setPreg preg { base := base, rowlen := rowlen, adv := adv }) s

def execCfgFxq (a qa qb qpIn qpOut : Nat) (s : State) : Host.Outcome State Fault Refusal :=
  tileRow a (.cfgFxq qa qb qpIn qpOut) always (fun s _ => s.modArr a fun x =>
    { x with fxq := { qa := qa, qb := qb, qpIn := qpIn, qpOut := qpOut } }) s

def execCfgStream (a stream : Nat) (s : State) : Host.Outcome State Fault Refusal :=
  tileRow a (.cfgStream stream) always (fun s _ => s.modArr a fun x => { x with stream := stream }) s

/-! ### Loads and passes (R58, R61, R81, R88–R90) -/

/-- A load takes the stationary format, packing and sign of the CFG.MODE in force when the LDS issues (log entry 92). -/
def Arr.mkLoad (x : Arr) (areg buf : Nat) (orient : Bool) (nrows nelem : Nat) : Load :=
  { areg := x.areg areg, buf := buf, orient := orient, nrows := nrows, nelem := nelem, mode := x.cfg }

/-- LDS: the buffer is free of loads and of passes in flight, and no pending write overlaps the rows. -/
def execLds (a areg buf : Nat) (orient : Bool) (nrows nelem : Nat) (s : State) : Host.Outcome State Fault Refusal :=
  tileRow a (.lds areg buf orient nrows nelem)
    (fun s x => !(x.loads.any fun l => l.buf == buf) && !(x.passes.any fun p => !p.gram && p.buf == buf) &&
      !(s.allPending a).blocks (x.mkLoad areg buf orient nrows nelem).touch)
    (fun s x =>
      let l := x.mkLoad areg buf orient nrows nelem
      if !l.areg.rowsOk nrows (rowBytes l.mode.fs nelem) then s.arrFault a x.pc
      else s.modArr a fun x => { x.setAreg areg (l.areg.advance nrows) with loads := x.loads ++ [l] }) s

/-- The register MACC STORE names. -/
def Macc.areg (m : Macc) : List Nat :=
  match m with
  | .store r => [r]
  | _ => []

/-- The status latch as a pass sees it: bit BITOFF + v × BSTRIDE + j for block j of vector v, for its first 64 blocks (R79, R93). -/
def Arr.latchFor (x : Arr) (p : Pass) : List Bool :=
  let sh := x.bufShape p.buf
  let nb := blocksOf (resLen sh.1 sh.2)
  ((List.range (min p.nvec 64)).flatMap fun v => (List.range nb).map fun j =>
    x.latch.getD (x.latchOff + v * x.latchStride + j) false).take 64

/-- The pass a STRM launches, with the settings it latches (R88). -/
def Arr.mkPass (x : Arr) (d : Drain) (areg buf nvec : Nat) (offer : Bool) (take addr : Nat) : Pass :=
  { src := x.areg areg, buf := buf, nvec := nvec, offer := offer, take := take, mode := x.cfg, fxq := x.fxq, macc := x.macc,
    maccReg := match x.macc with | .store r => x.areg r | _ => {},
    drain := d, drainReg := x.areg d.areg, pos := x.preg d.preg, stream := x.stream,
    addr := addr, ord := x.ord }

/-- Whether every row a pass moves lies in the array store (R82). -/
def Arr.passOk (x : Arr) (p : Pass) : Bool :=
  let b := x.passRows p
  (p.take != 0 || p.src.rowsOk p.nvec b.1) && p.drainReg.rowsOk p.nvec b.2.2 &&
    (match p.macc with | .store _ => p.maccReg.rowsOk p.nvec b.2.1 | _ => true)

def execStrm (a areg buf nvec : Nat) (offer : Bool) (take : Nat) (s : State) : Host.Outcome State Fault Refusal :=
  tileRow a (.strm areg buf nvec offer take)
    (fun s x => match x.drn with
      | none => true
      | some d =>
        decide (x.passes.length < 4) && !(s.otherPending a).blocks (x.passTouch (x.mkPass d areg buf nvec offer take x.pc)))
    (fun s x => match x.drn with
      | none => s.arrFault a x.pc
      | some d =>
        let p := x.mkPass d areg buf nvec offer take x.pc
        let p := if isBlock d.fmt then { p with latch := x.latchFor p } else p
        if !x.passOk p then s.arrFault a x.pc
        else s.modArr a fun y =>
          let y := y.advanceAll nvec ((if take = 0 then [areg] else []) ++ x.macc.areg ++ [d.areg])
          let y := if d.stoch then y.setPreg d.preg (x.preg d.preg).advance else y
          { y with passes := y.passes ++ [p], latch := if isBlock d.fmt then [] else y.latch }) s

/-- MACC in the Gram configuration acts at once, after the passes ahead of it (R90); else it is a setting. -/
def maccReady (s : State) (x : Arr) : Bool := !isGramMode x.cfg || idlePasses s x

def execMaccZero (a : Nat) (s : State) : Host.Outcome State Fault Refusal :=
  tileRow a .maccZero maccReady (fun s x => s.modArr a fun y =>
    if isGramMode x.cfg then { y with gramAcc := [] } else { y with macc := .zero }) s

def execMaccStore (a areg : Nat) (s : State) : Host.Outcome State Fault Refusal :=
  tileRow a (.maccStore areg)
    (fun s x => maccReady s x && !(isGramMode x.cfg && (s.allPending a).blocks { reads := (x.areg areg).lines 128 1024 }))
    (fun s x =>
      if isGramMode x.cfg then
        if !(x.areg areg).rowsOk 128 1024 then s.arrFault a x.pc
        else s.modArr a fun y => { y.setAreg areg ((y.areg areg).advance 128) with gramAcc := gramLoad y.store (y.areg areg) }
      else s.modArr a fun y => { y with macc := .store areg }) s

def execMaccKeep (a : Nat) (s : State) : Host.Outcome State Fault Refusal :=
  tileRow a .maccKeep maccReady (fun s x => s.modArr a fun y =>
    if isGramMode x.cfg then y else { y with macc := .keep }) s

def execDrn (a areg fmt : Nat) (stoch carried : Bool) (preg sh : Nat) (s : State) : Host.Outcome State Fault Refusal :=
  tileRow a (.drn areg fmt stoch carried preg sh) always (fun s _ => s.modArr a fun x =>
    { x with drn := some { areg := areg, fmt := fmt, stoch := stoch, carried := carried, preg := preg, sh := sh } }) s

/-- DRN with NOW: the Gram accumulators go to 128 rows of the register (R76, R90). -/
def execDrnNow (a areg fmt : Nat) (stoch carried : Bool) (preg sh : Nat) (s : State) : Host.Outcome State Fault Refusal :=
  tileRow a (.drnNow areg fmt stoch carried preg sh)
    (fun s x => idlePasses s x && !(s.allPending a).blocks { writes := (x.areg areg).lines 128 (rowBytes fmt 128) })
    (fun s x =>
      let r := x.areg areg
      if !r.rowsOk 128 (rowBytes fmt 128) then s.arrFault a x.pc
      else
        let d : Drain := { areg := areg, fmt := fmt, stoch := stoch, carried := carried, preg := preg, sh := sh }
        let o := gramDrain x.store x.hist d r x.gramAcc
        (s.modArr a fun y =>
          { y.setAreg areg (r.advance 128) with store := o.store, hist := o.hist, sticky := y.sticky ||| o.sticky }).pulseArr
            a 0xC o.bytes) s

def Arr.mkGram (x : Arr) (ra rb : Nat) (same : Bool) (nstep : Nat) (masken : Bool) (fdiv preg addr : Nat) : Pass :=
  { gram := true, src := x.areg ra, src2 := x.areg rb, same := same, nvec := nstep, mode := x.cfg, pos := x.preg preg,
    stream := x.stream, masken := masken, fdiv := fdiv, addr := addr, ord := x.ord }

def execGram (a ra rb : Nat) (same : Bool) (nstep : Nat) (masken : Bool) (fdiv preg : Nat) (s : State) :
    Host.Outcome State Fault Refusal :=
  tileRow a (.gram ra rb same nstep masken fdiv preg)
    (fun s x => decide (x.passes.length < 4) &&
      !(s.otherPending a).blocks (x.passTouch (x.mkGram ra rb same nstep masken fdiv preg x.pc)))
    (fun s x =>
      let p := x.mkGram ra rb same nstep masken fdiv preg x.pc
      let nb := rowBytes x.cfg.fm 128
      if !p.src.rowsOk nstep nb || (!same && !p.src2.rowsOk nstep nb) then s.arrFault a x.pc
      else s.modArr a fun y =>
        let y := y.advanceAll nstep (if same then [ra] else [ra, rb])
        let y := if masken then y.setPreg preg p.pos.advance else y
        { y with passes := y.passes ++ [p] }) s

/-! ### TWIN (R67) -/

def Arr.mkTwin (x : Arr) (offer : Bool) (areg nrows nelem fmt : Nat) : Twin :=
  { offer := offer, reg := x.areg areg, nrows := nrows, nelem := nelem, fmt := fmt, addr := x.pc, ord := x.ord }

/-- A standalone offer or take enters the channel's waiting place, one of each direction. -/
def twinRow (offer : Bool) (a areg nrows nelem fmt : Nat) (t : Tile) (s : State) : Host.Outcome State Fault Refusal :=
  tileRow a t
    (fun s x => !(x.twins.any fun w => w.offer == offer) &&
      !(s.allPending a).blocks (x.mkTwin offer areg nrows nelem fmt).touch)
    (fun s x =>
      let w := x.mkTwin offer areg nrows nelem fmt
      if !w.reg.rowsOk nrows (rowBytes fmt nelem) then s.arrFault a x.pc
      else s.modArr a fun y => { y.setAreg areg (w.reg.advance nrows) with twins := y.twins ++ [w] }) s

def execTwinOffer (a areg nrows nelem fmt : Nat) (s : State) : Host.Outcome State Fault Refusal :=
  twinRow true a areg nrows nelem fmt (.twinOffer areg nrows nelem fmt) s

def execTwinTake (a areg nrows nelem fmt : Nat) (s : State) : Host.Outcome State Fault Refusal :=
  twinRow false a areg nrows nelem fmt (.twinTake areg nrows nelem fmt) s

/-! ### HIST (R94, R225, R226) -/

/-- Whether a context's step is sealed. -/
def State.isSealed (s : State) (c step : Nat) : Bool :=
  match tget s.lastSealed c with | some n => decide (step ≤ n) | none => false

/-- Whether a step of a context is still unsealed: a later one than the last sealed; while the context has sealed none, one
that gathers gradients or has a micro-batch (log entry 93). -/
def State.unsealed (s : State) (c step : Nat) : Bool :=
  match tget s.lastSealed c with
  | some n => decide (n < step)
  | none => (s.objects.any fun e => e.2.ctx == c && e.2.buf == .openFor step) || s.runs.any fun r => r.ctx == c && r.step == step

/-- Where a bank of a stage histogram lies: region and byte; bank STEP mod 2 in a TRAIN context, the one bank else (R94, R225,
R226; log entry 93). -/
def State.histPlace (s : State) (c slot stage step : Nat) : Option (Nat × Nat) :=
  match s.planOf c slot with
  | none => none
  | some pl => (pl.body.hists.find? fun h => h.1 == stage).map fun h =>
      (h.2.1, h.2.2 + if (s.ctxD c).kind = .train then 272 * (step % 2) else 0)

/-- The 68 words at a place. -/
def State.histRead (s : State) (c reg off : Nat) : List Nat :=
  let bs := s.regionBytes c reg off 272
  (List.range 68).map fun i => leNat (sliceBytes bs (4 * i) 4)

def State.histPut (s : State) (c reg off : Nat) (h : List Nat) : State := s.regionPut c reg off (histBytes h)

/-- A histogram added by saturating addition into a stage's bank (R94); a merge for a sealed step is discarded, and contexts
of other kinds than TRAIN have no merge (R226). -/
def State.histMerge (s : State) (c slot stage step : Nat) (h : List Nat) : State :=
  if (s.ctxD c).kind ≠ .train ∨ s.isSealed c step then s
  else match s.histPlace c slot stage step with
    | none => s
    | some (reg, off) => s.histPut c reg off (histMergeLists (s.histRead c reg off) h)

/-- The one bank of a stage in a context of another kind, written by HIST with TGT = 0 (R226). -/
def State.histOwn (s : State) (a : Nat) (h : List Nat) : State :=
  let x := s.arr a
  let c := s.arrCtx a
  if (s.ctxD c).kind = .train then s
  else match s.histPlace c x.slot x.stage x.step with
    | none => s
    | some (reg, off) => s.histPut c reg off h

def execHistWrite (a areg : Nat) (clr : Bool) (s : State) : Host.Outcome State Fault Refusal :=
  tileRow a (.histWrite areg clr)
    (fun s x => idlePasses s x && !(s.allPending a).blocks { writes := (x.areg areg).lines 1 272 })
    (fun s x =>
      let r := x.areg areg
      if !r.rowsOk 1 272 then s.arrFault a x.pc
      else (s.histOwn a x.hist).modArr a fun y =>
        { y.setAreg areg (r.advance 1) with
          store := storePut y.store (r.byte 0) (histBytes y.hist), hist := if clr then [] else y.hist }) s

/-- Whether a merge must wait: in a TRAIN context, while step − 2 is unsealed (R226). -/
def State.histWaits (s : State) (c step : Nat) : Bool :=
  (s.ctxD c).kind == .train && decide (2 ≤ step) && s.unsealed c (step - 2) && !s.isSealed c step

def execHistMerge (a stg : Nat) (clr : Bool) (s : State) : Host.Outcome State Fault Refusal :=
  tileRow a (.histMerge stg clr)
    (fun s x => idlePasses s x && !s.histWaits (s.arrCtx a) x.step)
    (fun s x => (s.histMerge (s.arrCtx a) x.slot stg x.step x.hist).modArr a fun y => { y with hist := if clr then [] else y.hist }) s

/-! ### BCHK (R93) -/

/-- No block-format pass is still to drain. -/
def blocksDrained (_ : State) (x : Arr) : Bool := !(x.passes.any fun p => !p.gram && isBlock p.drain.fmt)

/-- Lines from the register's row that hold bits up to n. -/
def bitLines (r : AddrReg) (n : Nat) : Touch := { reads := r.lines 1 (n / 8 + 1), writes := r.lines 1 (n / 8 + 1) }

/-- Highest bit number a BCHK of the last block-format pass touches. -/
def Arr.topBit (x : Arr) (bitoff bstride : Nat) : Nat :=
  bitoff + (x.lastBits.length - 1) * bstride + ((x.lastBits.getD 0 []).length - 1)

/-- Set bits of the last block-format pass, as bit numbers counted from the first bit of the line. -/
def Arr.setBits (x : Arr) (bitoff bstride : Nat) : List Nat :=
  (List.range x.lastBits.length).flatMap fun v =>
    ((List.range (x.lastBits.getD v []).length).filter fun j => (x.lastBits.getD v []).getD j false).map fun j =>
      bitoff + v * bstride + j

/-- Memory byte to which a run of an outbound fill takes a byte of the array store: region and offset. -/
def fillCovers (e : FillEntry) (n byte : Nat) : Option (Nat × Nat) :=
  if e.dir ≠ 1 then none
  else ((List.range e.rows).find? fun k => decide (e.storeByte n k ≤ byte) && decide (byte < e.storeByte n k + e.rowBytes)).map
    fun k => (e.region, e.memOff n k + (byte - e.storeByte n k))

/-- The block that a bit of a bitmap line stands for: region of the bitmap the outbound fills take it to, and number (R39); where
none takes it, the array and the bit of its store (log entry 89). -/
def State.blockOf (s : State) (a byte bit : Nat) : Nat × Nat :=
  let q := (s.arr a).fillOut
  let at_ := q.entries.zipIdx.findSome? fun (i, k) =>
    (List.range (i.entry.repeats + 1)).findSome? fun n => if k = 0 ∧ n < q.run then none else fillCovers i.entry n (byte + bit / 8)
  match at_ with
  | some (reg, off) => (reg, 8 * off + bit % 8)
  | none => (256 + a, 8 * byte + bit)

/-- Blocks newly flagged by a BCHK: the run keeps them, and those of CARRIED tensors count for the step (R228, R232, R233). -/
def State.flagBlocks (s : State) (a : Nat) (bs : List (Nat × Nat)) : State :=
  let c := s.arrCtx a
  let x := s.arr a
  match s.arrRun? a with
  | none => s
  | some r =>
    let new := (bs.map fun b => (x.stage, b)).eraseDups.filter fun f => !r.flags.contains f
    let carried := new.filter fun f => (s.ctxD c).regions.any fun e => match e.2.decl.carried with
      | some k => k.bitmap == f.2.1
      | none => false
    let s := s.modRun c x.seq fun q => { q with flags := q.flags ++ new }
    if carried.isEmpty then s
    else { s with num := { s.num with flagged := tadd s.num.flagged r.step carried.length } }

def execBchkWrite (a areg bitoff bstride : Nat) (s : State) : Host.Outcome State Fault Refusal :=
  tileRow a (.bchkWrite areg bitoff bstride)
    (fun s x => blocksDrained s x && !(s.allPending a).blocks (bitLines (x.areg areg) (x.topBit bitoff bstride)))
    (fun s x =>
      let r := x.areg areg
      let flags := x.setBits bitoff bstride
      if !r.rowsOk 1 (x.topBit bitoff bstride / 8 + 1) then s.arrFault a x.pc
      else
        let s := s.modArr a fun y =>
          { y.setAreg areg (r.advance 1) with store := bchkWriteBits y.store (r.byte 0) bitoff bstride y.lastBits }
        let s := s.flagBlocks a (flags.map fun b => s.blockOf a (r.byte 0) b)
        s.pulseArr a 0x10 flags.length) s

/-- Bits of the line that the first 64 blocks of a pass may lie in, the first bit of the line first. -/
def latchSpan (bitoff bstride : Nat) : Nat := bitoff + 63 * bstride + 64

/-- BCHK with LOAD: the line's bits go into the latch, where the next block-format pass finds those of its blocks; bits past
the end of the store read as 0 (log entry 15). -/
def execBchkLoad (a areg bitoff bstride : Nat) (s : State) : Host.Outcome State Fault Refusal :=
  tileRow a (.bchkLoad areg bitoff bstride)
    (fun s x => blocksDrained s x && !(s.allPending a).blocks { reads := (bitLines (x.areg areg) (latchSpan bitoff bstride)).reads })
    (fun s x =>
      let r := x.areg areg
      if !r.rowsOk 1 (bitoff / 8 + 1) then s.arrFault a x.pc
      else s.modArr a fun y =>
        { y.setAreg areg (r.advance 1) with latch := bchkLoadBits y.store (r.byte 0) (latchSpan bitoff bstride),
                                            latchOff := bitoff, latchStride := bstride }) s

/-! ### PRU requests (R73, R80, R95) -/

def Arr.mkPru (x : Arr) (a c : Nat) (op : PruOp) (fmt src dst n : Nat) : PruReq :=
  { array := a, ctx := c, op := op, fmt := fmt, src := x.areg src, dst := x.areg dst, n := n, mode := x.cfg, fxq := x.fxq, ord := x.ord }

def pruRow (op : PruOp) (a fmt src dst n : Nat) (sync : Bool) (s : State) : Host.Outcome State Fault Refusal :=
  tileRow a (.pru op fmt src dst n sync)
    (fun s x => decide (x.pruOut < 4) && !(s.allPending a).blocks (x.mkPru a (s.arrCtx a) op fmt src dst n).touch)
    (fun s x =>
      let r := x.mkPru a (s.arrCtx a) op fmt src dst n
      if !r.src.rowsOk 1 (pruBytes fmt * pruIn op * n) || !r.dst.rowsOk 1 (pruBytes fmt * pruOutN op * n) then s.arrFault a x.pc
      else
        let s := { s with prus := tset s.prus (a / 16) (tgetD s.prus (a / 16) [] ++ [r]) }
        s.modArr a fun y => { y.advanceAll 1 [src, dst] with pruOut := y.pruOut + 1, sync := sync }) s

def execPruSqrt (a fmt src dst n : Nat) (sync : Bool) (s : State) : Host.Outcome State Fault Refusal :=
  pruRow .sqrt a fmt src dst n sync s
def execPruRecip (a fmt src dst n : Nat) (sync : Bool) (s : State) : Host.Outcome State Fault Refusal :=
  pruRow .recip a fmt src dst n sync s
def execPruRsqrt (a fmt src dst n : Nat) (sync : Bool) (s : State) : Host.Outcome State Fault Refusal :=
  pruRow .rsqrt a fmt src dst n sync s
def execPruPivot (a fmt src dst n : Nat) (sync : Bool) (s : State) : Host.Outcome State Fault Refusal :=
  pruRow .pivot a fmt src dst n sync s

/-! ### LOOP, tokens, draws, markers, samples (R96–R98) -/

def execLoop (a lctr count target : Nat) (s : State) : Host.Outcome State Fault Refusal :=
  tileRow a (.loop lctr count target) always (fun s x =>
    let v := match tget x.loops lctr with | some v => v | none => count - 1
    s.modArr a fun y =>
      if 0 < v then { y with loops := tset y.loops lctr (v - 1), pc := target } else { y with loops := tdel y.loops lctr }) s

def execTokw (a tok n : Nat) (keep : Bool) (s : State) : Host.Outcome State Fault Refusal :=
  tileRow a (.tokw tok n keep) always (fun s _ => s.waitOn a (.token tok n keep)) s

def execToks (a tok n : Nat) (s : State) : Host.Outcome State Fault Refusal :=
  tileRow a (.toks tok n) always (fun s x =>
    { s with signals := s.signals ++ [(s.arrCtx a, { tok := tok, n := n, array := a, ord := x.ord })] }) s

/-- Draws of the counter generator, 16 bits each, row by row (R97, R102). -/
def rngRows (x : Arr) (areg preg nrow nelem : Nat) : Store :=
  (List.range nrow).foldl (fun st v => storePut st ((x.areg areg).byte v) ((List.range nelem).flatMap fun e =>
    leBytes 2 (draw x.seed x.stream x.step ((x.preg preg).pos v e)))) x.store

def execRng (a areg preg nrow nelem : Nat) (s : State) : Host.Outcome State Fault Refusal :=
  tileRow a (.rng areg preg nrow nelem)
    (fun s x => !(s.allPending a).blocks { writes := (x.areg areg).lines nrow (2 * nelem) })
    (fun s x =>
      if !(x.areg areg).rowsOk nrow (2 * nelem) then s.arrFault a x.pc
      else s.modArr a fun y =>
        { (y.setAreg areg ((x.areg areg).advance nrow)).setPreg preg (x.preg preg).advance with
          store := rngRows x areg preg nrow nelem }) s

def execMarkInstruction (a : Nat) (trc : Bool) (id : Word) (s : State) : Host.Outcome State Fault Refusal :=
  tileRow a (.mark trc id) always (fun s x =>
    (s.modArr a fun y => { y with marker := id }).markRecord (s.arrCtx a) a id trc (BitVec.ofNat 32 x.pc)) s

/-- SAMP: an explicit sample while sampling is armed, its latency counted from the last one of the segment (R371, R372). -/
def execSamp (a tag : Nat) (s : State) : Host.Outcome State Fault Refusal :=
  tileRow a (.samp tag) always (fun s x =>
    if s.sampling a then
      (s.modArr a fun y => { y with lastSamp := some s.now }).sampleRecord a tag 0 x.pc x.segment x.marker
        (match x.lastSamp with | some t => s.now - t | none => 0) (match x.stallFrom with | some t => s.now - t | none => 0)
    else s) s

/-! ### HALT (R62, R104) -/

/-- Everything the array started is complete: drains, tile transfers, fills towards memory in progress, PRU requests. -/
def haltReady (_ : State) (x : Arr) : Bool :=
  x.passes.isEmpty && x.loads.isEmpty && x.twins.isEmpty && x.pruOut == 0 && !x.fillOut.active

/-- The sluice's record of a segment's end (R377). -/
def State.segmentRecord (s : State) (a action : Nat) : State :=
  let x := s.arr a
  s.sluice 4 (s.arrCtx a) a x.marker [BitVec.ofNat 32 (x.segment + 4096 * action)]

/-- Cell registers do not outlive HALT. -/
def State.dropCells (s : State) (a : Nat) : State :=
  s.modArr a fun x => { x with bufs := [], gramAcc := [], lastBits := [] }

def execHaltEnd (a : Nat) (waitt : Bool) (tok : Nat) (s : State) : Host.Outcome State Fault Refusal :=
  tileRow a (.haltEnd waitt tok) haltReady (fun s _ =>
    let s := (s.segmentRecord a 0).dropCells a
    if waitt then s.waitOn a (.endTok tok)
    else (s.endPart a).boundary a) s

def execHaltNext (a seg : Nat) (waitt : Bool) (tok : Nat) (s : State) : Host.Outcome State Fault Refusal :=
  tileRow a (.haltNext seg waitt tok) haltReady (fun s _ =>
    let s := (s.segmentRecord a 1).dropCells a
    if waitt then s.waitOn a (.segment tok seg false)
    else if (s.ctxD (s.arrCtx a)).onHold then s.park a seg none else s.loadSegment a seg) s

/-- NEXT_YIELD: where a lent pair is asked back, or a late refresh waits for the pair, the next segment is parked, with its token if
it waits for one; else it runs here, and finds the array store undefined (R104, R165). -/
def execHaltNextYield (a seg : Nat) (waitt : Bool) (tok : Nat) (s : State) : Host.Outcome State Fault Refusal :=
  tileRow a (.haltNextYield seg waitt tok) haltReady (fun s _ =>
    let s := (s.segmentRecord a 2).dropCells a
    let x := s.pair (a / 2)
    if (x.lent && x.returnAt.isSome) || (!x.lent && (s.dueRefresh (a / 2) true).isSome) then (s.park a seg (if waitt then some tok else none)).boundary a
    else
      let s := s.undefineStore a
      if waitt then s.waitOn a (.segment tok seg true)
      else if (s.ctxD (s.arrCtx a)).onHold then s.park a seg none else s.loadSegment a seg) s

/-! ### Steps that complete what instructions started -/

/-- TWIN_RENDEZVOUS (R68): the even array's offer is served first. -/
def execTwinRendezvous (pair : Nat) (s : State) : Host.Outcome State Fault Refusal :=
  if 48 ≤ pair then .fault .noSuchUnit
  else
    let e := 2 * pair
    let o := 2 * pair + 1
    match (s.arr e).offering, (s.arr o).taking with
    | some f, some t => .next (s.meet e o f t)
    | _, _ =>
      match (s.arr o).offering, (s.arr e).taking with
      | some f, some t => .next (s.meet o e f t)
      | _, _ => .next s

/-- TWIN_TIMEOUT (R68): an array whose offer or take has waited as long as it may faults its context. -/
def execTwinTimeout (a : Nat) (s : State) : Host.Outcome State Fault Refusal :=
  if 96 ≤ a then .fault .noSuchUnit
  else match older (s.arr a).taking (s.arr a).offering with
    | some o => .next (if waitLimit ≤ tgetD (s.arr a).waited o.waitKey 0 then s.arrFault a o.addr else s)
    | none => .next s

/-- TOKEN_INCREMENT (R98): the oldest signal of the context whose earlier writes are visible takes effect. -/
def execTokenIncrement (c : Nat) (s : State) : Host.Outcome State Fault Refusal :=
  if 256 ≤ c then .fault .noSuchUnit
  else match s.readySignal c with
    | none => .next s
    | some g =>
      .next (({ s with signals := s.signals.erase (c, g) } : State).addToken c g.tok g.n g.array (s.arr g.array).pc)

/-- TOKW_TIMEOUT (R98): an array whose TOKW has waited as long as it may faults its context. -/
def execTokwTimeout (a : Nat) (s : State) : Host.Outcome State Fault Refusal :=
  if 96 ≤ a then .fault .noSuchUnit
  else match (s.arr a).wait with
    | some (.token ..) => .next (if waitLimit ≤ tgetD (s.arr a).waited (2 * (s.arr a).ord) 0 then s.arrFault a ((s.arr a).pc - 1) else s)
    | _ => .next s

/-- LDS_COMPLETE (R58, R61). -/
def execLdsComplete (a buf : Nat) (s : State) : Host.Outcome State Fault Refusal :=
  if 96 ≤ a then .fault .noSuchUnit
  else match (s.arr a).loads.find? fun l => l.buf == buf with
    | none => .next s
    | some l => .next (s.modArr a fun x =>
        { x with loads := x.loads.filter (· != l),
                 bufs := tset x.bufs buf { orient := l.orient, cols := loadColumns x.store l, k := packing l.mode.fs l.mode.fm } })

/-- A buffer that no load of the segment has filled: its elements are left open (R62), and it is read by rows (log entry 92). -/
def freeBuffer (n : Nat) (m : Mode) : Buffer :=
  let k := packing m.fs m.fm
  let nb := rowBytes m.fs (128 * k)
  { k := k, cols := (List.range 128).map fun c =>
      rowElems m.fs m.sgnS ((List.range nb).map fun i => Config.freeByte n (nb * c + i)) (128 * k) }

/-- Whether the pass at the head may write its last result. -/
def Arr.passReady (x : Arr) (p : Pass) : Bool :=
  p.gram || (!(x.loads.any fun l => l.buf == p.buf) && (p.take == 0 || p.taken.isSome) && (!p.offer || p.offered))

/-- The head pass runs to its last result (R66); a flow pass clears the Gram accumulators (R90). -/
def State.completePass (s : State) (a : Nat) (p : Pass) : State :=
  let x := s.arr a
  let g : DrawSrc := { seed := x.seed, stream := p.stream, step := x.step }
  if p.gram then
    (s.setArr a { x with passes := x.passes.drop 1, gramAcc := runGram x.store g p x.gramAcc }).pulseArr a 6 p.nvec
  else
    let b := (tget x.bufs p.buf).getD (freeBuffer s.free p.mode)
    let o := runPass x.store x.hist g p b
    let x := { x with passes := x.passes.drop 1, gramAcc := [], store := o.store, hist := o.hist, sticky := x.sticky ||| o.sticky,
                      fxMark := x.fxMark || o.sticky &&& stickyFxSat != 0,
                      lastBits := if isBlock p.drain.fmt then o.bits else x.lastBits }
    ((({ s with free := s.free + 1 } : State).setArr a x).pulseArr a 6 p.nvec).pulseArr a 0xC o.bytes

/-- PASS_COMPLETE (R66). -/
def execPassComplete (a : Nat) (s : State) : Host.Outcome State Fault Refusal :=
  if 96 ≤ a then .fault .noSuchUnit
  else match (s.arr a).passes with
    | [] => .next s
    | p :: _ => if (s.arr a).passReady p then .next (s.completePass a p) else .next s

/-! ### Fills (R99) -/

/-- FILL_RUN (R99): the next run of the queue starts, or waits for its token from now on (R98). -/
def execFillRun (a : Nat) (inbound : Bool) (s : State) : Host.Outcome State Fault Refusal :=
  if 96 ≤ a then .fault .noSuchUnit
  else match s.fillHead a inbound with
    | none => .next s
    | some i =>
      if !i.entry.waitEn then .next (s.fillStart a inbound i)
      else if s.waiters.any fun w => w.array == a && w.fill == some inbound then .next s
      else .next { s with waiters := s.waiters ++ [{ array := a, fill := some inbound, tok := i.entry.waitTok, since := s.now }] }

/-- The queue after a run: the next run of the entry, or the next entry. -/
def FillQueue.step (q : FillQueue) : FillQueue :=
  match q.entries with
  | [] => { q with active := false }
  | i :: rest => if q.run < i.entry.repeats then { q with run := q.run + 1, active := false } else { entries := rest, run := 0, active := false }

/-- The run in progress of a queue, once every memory transaction of it has its place. -/
def State.fillReady (s : State) (a : Nat) (inbound : Bool) : Option FillItem :=
  let q := (s.arr a).fillQ inbound
  let mine (m : MemReq) := m.array == a && m.inbound == inbound
  match q.entries with
  | [] => none
  | i :: _ => if !q.active || s.held.any mine || s.asking.any mine then none else some i

/-- Arrays of a sector that ask the crossbar, each with the priority of its context. -/
def State.crossbarAsks (s : State) (sec : Nat) : List (Nat × Nat) :=
  (List.range 16).filterMap fun k =>
    let a := 16 * sec + k
    match s.fillReady a true, s.fillReady a false with
    | some i, some j => some (a, min (s.prio i.ctx) (s.prio j.ctx))
    | some i, none => some (a, s.prio i.ctx)
    | none, some j => some (a, s.prio j.ctx)
    | none, none => none

/-- The array that a sector's crossbar grants: by priority, then round-robin after the array granted last (R71). -/
def State.crossbarPick (s : State) (sec : Nat) : Option Nat :=
  let asks := s.crossbarAsks sec
  let best := asks.foldl (fun m e => min m e.2) 3
  let ready := (asks.filter fun e => e.2 == best).map (·.1)
  match tget s.granted sec with
  | none => ready.head?
  | some g => ((ready.filter (g < ·)) ++ ready).head?

/-- Bytes that a sector moves to or from another's stop: far traffic of the sector that asks, removed at one stop and injected
at the other (R14, R369). -/
def State.farTraffic (s : State) (sec other n : Nat) (write : Bool) (c : Nat) (m : Word) : State :=
  let s := s.pulse (if write then 0x108 else 0x107) sec n c m
  (s.pulse 0x109 (if write then other else sec) n c m).pulse 0x10A (if write then sec else other) n c m

/-- Traffic of a fill run at the sectors: to near stacks, to far ones, or to the slices of another sector, which counts as far
traffic of both (R14, R70, R369). -/
def State.fillTraffic (s : State) (a : Nat) (inbound : Bool) (i : FillItem) (n : Nat) : State :=
  let m := (s.arr a).marker
  let sec := a / 16
  let write := i.entry.dir % 2 == 1
  if i.entry.dir ≤ 1 then
    (s.fillRequests a inbound i n).foldl (fun s q =>
      if q.chan / 64 = sec then s.pulse (if write then 0x106 else 0x105) sec q.bytes i.ctx m
      else s.farTraffic sec (q.chan / 64) q.bytes write i.ctx m) s
  else
    let far := i.entry.region / 16
    let k := i.entry.rows * i.entry.rowBytes
    if far = sec then s else (s.farTraffic sec far k write i.ctx m).pulse (if write then 0x108 else 0x107) far k i.ctx m

/-- FILL_RUN_DONE (R99): with every transaction of the run placed and the crossbar granting the array, the bytes are moved
and the signal token is sent. -/
def execFillRunDone (a : Nat) (inbound : Bool) (s : State) : Host.Outcome State Fault Refusal :=
  if 96 ≤ a then .fault .noSuchUnit
  else match s.fillReady a inbound with
    | none => .next s
    | some i =>
      if s.crossbarPick (a / 16) ≠ some a then .next s
      else
        let q := (s.arr a).fillQ inbound
        let s := ({ s with granted := tset s.granted (a / 16) a } : State).fillTraffic a inbound i q.run
        let s := s.fillMove a i q.run
        let s := { s with outstanding := s.outstanding.filter fun m => !(m.array == a && m.inbound == inbound) }
        let s := s.modArr a fun x => x.setFillQ inbound q.step
        let s := if i.entry.sigEn then { s with signals := s.signals ++ [(i.ctx, { tok := i.entry.sigTok, n := 1, array := a, fill := true })] } else s
        .next (s.pulseArr a (if inbound then 0xD else 0xE) (i.entry.rows * i.entry.rowBytes))

/-! ### PRU, memory places, weirs -/

/-- The first of a list with the smallest key. -/
def firstMin {α : Type} (key : α → Nat) : List α → Option α
  | [] => none
  | x :: xs => match firstMin key xs with
    | none => some x
    | some y => if key y < key x then some y else some x

/-- The request a sector's PRU works on: the one begun, else the oldest of the highest priority (R19). -/
def State.pruNext (s : State) (sector : Nat) : Option PruReq :=
  let q := tgetD s.prus sector []
  match q.find? (·.started) with
  | some r => some r
  | none => firstMin (fun r => s.prio r.ctx) q

/-- A PRU that is free begins its next request. -/
def State.pruTick (s : State) (sector : Nat) : State :=
  match s.pruNext sector with
  | none => s
  | some r => { s with prus := tset s.prus sector ((tgetD s.prus sector []).map fun q => if q == r then { q with started := true } else q) }

/-- PRU_REQUEST (R19, R74): the request in work is processed to completion. -/
def execPruRequest (sector : Nat) (s : State) : Host.Outcome State Fault Refusal :=
  if 6 ≤ sector then .fault .noSuchUnit
  else match s.pruNext sector with
    | none => .next s
    | some r =>
      let o := runPru (s.arr r.array).store r
      let s := { s with prus := tset s.prus sector ((tgetD s.prus sector []).erase r) }
      let s := s.modArr r.array fun x =>
        { x with store := o.1, sticky := x.sticky ||| o.2, fxMark := x.fxMark || o.2 &&& stickyFxSat != 0, pruOut := x.pruOut - 1,
                 sync := x.sync && decide (1 < x.pruOut) }
      .next (s.pulse 0x101 sector 1 0 0)

/-- TRANSACTION_PLACE (R269). -/
def execTransactionPlace (s : State) : Host.Outcome State Fault Refusal :=
  match firstMin (fun m => s.prio m.ctx) (s.asking.filter s.hasPlace) with
  | none => .next s
  | some m => .next { s with asking := s.asking.erase m, outstanding := s.outstanding ++ [m] }

/-- WEIR_PASS (R328). -/
def execWeirPass (c weir : Nat) (s : State) : Host.Outcome State Fault Refusal :=
  if 256 ≤ c ∨ 4 ≤ weir then .fault .noSuchUnit
  else match s.held.find? fun m => m.ctx == c && m.weir == weir with
    | none => .next s
    | some m =>
      if s.weirRate c weir = 0 ∨ 0 ≤ s.bucket c weir then
        .next (({ s with held := s.held.erase m, asking := s.asking ++ [m] } : State).charge c weir m.bytes)
      else .next s

/-- SAMPLE (R372): the oldest sampled instruction of the array completes, and its periodic sample is recorded. -/
def execSample (a latency stall : Nat) (s : State) : Host.Outcome State Fault Refusal :=
  if 96 ≤ a then .fault .noSuchUnit
  else match (s.arr a).sampled with
    | [] => .next s
    | (addr, seg, m) :: rest =>
      .next ((s.modArr a fun x => { x with sampled := rest }).sampleRecord a 0 1 addr seg m latency stall)

end Sys2Proof.Machine
end

