-- ==== Sys2Proof/Machine/Runs.lean ====
section
/-! DEFINITION. PLAN_RUN and the life of a micro-batch: pins, stages, row maps, GRAM stages, folds, layer replays, rescales
and watch reads (R109–R130, R135–R139, R185, R227–R233, R304, R314, R342, R343, R374). -/

namespace Sys2Proof

def PlanBody.stage? (b : PlanBody) (n : Nat) : Option StageDecl := b.stages.find? fun t => t.num == n

/-- Objects whose working copies a plan reads. -/
def PlanBody.readsObjects (b : PlanBody) : List Nat := (b.stages.flatMap (·.weights)).eraseDups

/-- Objects whose dW the plan drains. -/
def PlanBody.foldsObjects (b : PlanBody) : List Nat := (b.stages.flatMap (·.dws)).eraseDups

/-- Byte of block j in a tensor laid out as the gradient. -/
def ObjectDecl.blockByte (d : ObjectDecl) (j : Nat) : Nat := j / max 1 d.nb * d.gradPitch + 66 * (j % max 1 d.nb)

end Sys2Proof

namespace Sys2Proof.Machine

/-! ### PLAN_RUN (R124, R130, R304) -/

def State.checkPlanRun (s : State) (c : Nat) (d : Desc) : Checks :=
  let k := (s.ctxD c).kind
  let pl := s.planOf c (d.f 2 0 3)
  let train := match s.trainCtx? with | some t => (s.ctxD t).mode != .tornDown | none => false
  { fmt := firstBad [
      (badFor0 c d || k == .solve, dCtxKind), (d.inTxn, dTxnMember),
      (reservedSet d [0xF7, 0x1FFFF, full, full, full, 0xFF], dReserved),
      (match pl with | some p => s.rf .numOvfMode 0 1 == 1 && p.body.replays.isEmpty | none => false, 0x0307)]
    lim := match pl with
      | none => some 0x0208
      | some p => firstBad [
          (k == .aux && !train, 0),
          (k == .train && (s.ctxD c).opens.any fun o => o.desc.opcode == 0x09 && o.desc.f 2 4 4 == d.f 2 4 4, 0x0302),
          (decide (p.body.m < d.f 3 0 17), 0x0303),
          (p.body.readsObjects.any fun o => match tget s.objects o with | some x => x.version == 0 | none => false, 0x0304)] }

/-- Step of a PLAN_RUN. -/
def runStep (d : Desc) : Nat := d.w 6 + 2 ^ 32 * d.f 7 0 8

/-- Whether new pins wait: the window of R197. -/
def State.pinWindow (s : State) : Bool := match s.gran with | some g => g.window | none => false

/-- A run without samples takes and releases its pins and completes (R124). -/
def State.emptyRun (s : State) (c : Nat) (d : Desc) : State :=
  if s.pinWindow then s.setWait c d .window else s.finish c d stDoneEmpty 0 0

def State.startPlanRun (s : State) (c : Nat) (d : Desc) : State :=
  let nsamp := d.f 3 0 17
  let train := (s.ctxD c).kind == .train
  if nsamp = 0 then s.emptyRun c d
  else
    let folds := match s.planOf c (d.f 2 0 3) with | some p => if train then p.body.foldsObjects else [] | none => []
    { s with runs := s.runs ++ [{ ctx := c, seq := d.seq, slot := d.f 2 0 3, mb := if train then some (d.f 2 4 4) else none,
                                  nsamp := nsamp, seed := BitVec.ofNat 64 (d.w64 4), step := runStep d, foldsLeft := folds,
                                  afterChange := (s.ctxD c).changes.head?.any (·.due) }] }

/-! ### Pins (R125, R230) -/

/-- A new version of an object is still being gathered across its cut (R342). -/
def State.gathering (s : State) (o : Nat) : Bool := (s.group.flights ++ s.group.queue).any fun f => f.desc.opcode == 0 && f.code == 7 && f.desc.w 6 == o

/-- Whether a run may start its first stage: no window, no partition change at its change point, no gather. -/
def State.mayPin (s : State) (r : Run) (b : PlanBody) : Bool :=
  !s.pinWindow && !r.afterChange && !(s.ctxD r.ctx).onHold && !b.readsObjects.any s.gathering

/-- The fill lists of a program join the queues of its array, for a run (R99; log entry 94). -/
def State.appendFills (s : State) (r : Run) (p : ProgramDecl) : State :=
  match s.physArray r.ctx r.slot p.logical with
  | none => s
  | some a =>
    let items (l : List (List Word)) : List FillItem := (fillEntries l).map fun e => { ctx := r.ctx, seq := r.seq, entry := e }
    s.modArr a fun x =>
      { x with fillIn := { x.fillIn with entries := x.fillIn.entries ++ items p.fillsIn },
               fillOut := { x.fillOut with entries := x.fillOut.entries ++ items p.fillsOut } }

/-- The start of a run: in one instant it pins the current version of every object it reads, latches the overflow mode
and the sampling fractions, sets the tokens, takes up the fill lists and clears the local histograms (R94, R98, R99, R125, R152,
R230). -/
def State.pinRun (s : State) (r : Run) (b : PlanBody) : State :=
  let objs := b.readsObjects.filter fun o => (tget s.objects o).isSome
  let vers := objs.map fun o => (o, match tget s.objects o with | some x => x.version | none => 0)
  let s := objs.foldl (fun s o => s.pin o r.ctx r.seq) s
  let s := s.modRun r.ctx r.seq fun q =>
    { q with pins := some vers, s1 := s.rf .numOvfMode 0 1 == 1, fdivs := s.stats.map fun (e : Nat × Stat) => (e.1, e.2.f) }
  let s := s.modCtx r.ctx fun x => { x with tileTokens := (List.range b.tokens.length).map fun i => (i, b.tokens.getD i 0) }
  let s := b.programs.foldl (fun s p => s.appendFills r p) s
  (List.range (2 * b.groups.length)).foldl (fun s l =>
    match s.physArray r.ctx r.slot l with
    | some a => s.modArr a fun x => { x with hist := [] }
    | none => s) s

/-- The state in which a run has its pins, if it has them or may take them now. -/
def State.ensurePinned (s : State) (r : Run) (b : PlanBody) : Option State :=
  if r.pins.isSome then some s else if s.mayPin r b then some (s.pinRun r b) else none

/-! ### Sampling (R135, R136) -/

/-- Sampling fraction of a statistic for a run. -/
def State.fdivOf (s : State) (r : Run) (obj side : Nat) : Nat :=
  match tget r.fdivs (statKey obj side) with
  | some f => f
  | none => match tget s.stats (statKey obj side) with | some t => t.f | none => 1

/-- Rows of a micro-batch selected for an object at a fraction 1/f. -/
def State.selectedRows (s : State) (r : Run) (obj f : Nat) : List Nat :=
  let stream := match tget s.objects obj with | some o => o.decl.selStream | none => 0
  (List.range r.nsamp).filter fun k => decide (draw r.seed stream r.step k < 65536 / max 1 f)

/-- Row count of a statistic for a run: the kept rows of its view, else the rows selected. -/
def State.rowCount (s : State) (r : Run) (b : PlanBody) (obj side : Nat) : Nat :=
  match b.views.find? fun v => v.obj == obj && v.side == side with
  | some v => match tget r.viewRows v.num with | some all => all.length | none => (tgetD r.maps v.num []).length
  | none => (s.selectedRows r obj (s.fdivOf r obj side)).length

def execRowMap (c : Nat) (seq : Word) (view : Nat) (s : State) : Host.Outcome State Fault Refusal :=
  match s.run? c seq with
  | none => .next s
  | some r =>
    match s.planOf c r.slot with
    | none => .next s
    | some pl =>
      match pl.body.views.find? (fun v => v.num == view), s.ensurePinned r pl.body with
      | some v, some t =>
        if (tget r.maps view).isSome then .next s
        else
          let r := (t.run? c seq).getD r
          let rows := t.selectedRows r v.obj (t.fdivOf r v.obj v.side)
          let t := t.modRun c seq fun q => { q with maps := tset q.maps view (rows.take v.capacity) }
          .next (if v.capacity < rows.length then
            t.devEvent 0x0103 1 [seq, BitVec.ofNat 32 v.obj, BitVec.ofNat 32 rows.length, BitVec.ofNat 32 v.capacity] else t)
      | _, _ => .next s

/-! ### Watch points (R374) -/

/-- The tensor of a stage's output as a run sees it, by the routing section: rows at their pitch, padding skipped, absent
samples zero (R124, R374; TRIG 1). -/
def State.viewTensor (s : State) (r : Run) (reg rows elems fmt : Nat) : WatchView :=
  let pitch := (rowBytes fmt elems + 63) / 64 * 64
  let base := match s.region? r.ctx reg with | some g => (s.runPlace r.ctx r.seq reg g).1 | none => 0
  { rows := (List.range rows).map fun k => s.runBytes r.ctx r.seq reg (k * pitch) (rowBytes fmt elems), elems := elems, fmt := fmt,
    stackAt := fun k e => s.stackOfByte r.ctx reg (base + k * pitch + elemByte fmt e) }

/-- One read of an armed point for a run (TRIG 1). -/
def State.watchRead (s : State) (c : Nat) (r : Run) (pt : Nat) (w : Watch) : State :=
  match (s.planOf c w.plan).bind fun pl => pl.body.watchOutput w.stage w.toLoc with
  | none => s
  | some o =>
    let v := s.viewTensor r o.1 o.2.1 o.2.2.1 o.2.2.2
    let bytes := v.rows.flatten
    let body := if w.digest then watchDigest bytes bytes.length r.step else watchStats v
    s.ctxWrite c (s.ctxD c).port (w.result + 512 * (w.count % 64))
      (watchSlot pt (if w.digest then 2 else 1) w.count s.stamp r.step r.seq body)

/-- A stage's drains trigger the points armed on it: the run owes their reads, each as the point stood, and the points' counts
go on. -/
def State.oweReads (s : State) (c : Nat) (seq : Word) (stage : Nat) : State :=
  match s.run? c seq with
  | none => s
  | some r =>
    let due := (s.ctxD c).watches.filter fun e => e.2.plan == r.slot && e.2.stage == stage
    if due.isEmpty then s
    else
      (s.modRun c seq fun q => { q with owed := q.owed ++ due }).modCtx c fun x =>
        { x with watches := x.watches.map fun e => if due.contains e then (e.1, { e.2 with count := e.2.count + 1 }) else e }

/-- Whether a watch read of what a stage writes is still owed (R374). -/
def State.watchHolds (s : State) (c : Nat) (d : StageDecl) : Bool :=
  s.runs.any fun q => q.ctx == c && q.owed.any fun e => match e.2.toLoc with | .region k _ => d.writes.contains k | _ => false

/-! ### The end of a run -/

/-- Layers of a run with a flagged block and no replay yet (R229). -/
def Run.flaggedLayers (r : Run) (b : PlanBody) : List Nat :=
  if !r.s1 then []
  else ((b.stages.filter fun t => r.flags.any fun f => f.1 == t.num).map (·.layer)).eraseDups.filter fun l => !r.replayed.contains l

/-- A run whose stages are finished and whose folds are applied or discarded makes the watch reads it owes, completes and
releases its pins. -/
def State.runMaybeDone (s : State) (c : Nat) (seq : Word) : State :=
  match s.run? c seq with
  | none => s
  | some r =>
    match s.planOf c r.slot with
    | none => s
    | some pl =>
      if (pl.body.stages.all fun t => r.finished.contains t.num) && (r.flaggedLayers pl.body).isEmpty && r.foldsLeft.isEmpty then
        let s := r.owed.foldl (fun s e => s.watchRead c r e.1 e.2) s
        let s := { s with runs := s.runs.filter fun q => !(q.ctx == c && q.seq == seq) }.unpin c seq
        if r.discarded then s.finishSeq c seq stDoneEmpty 0x0301 0
        else s.finishSeq c seq stDone 0 (BitVec.ofNat 32 r.staleness)
      else s

/-- Folds of a run that meet a sealed step are discarded, and all its others with them (R117). -/
def State.discardFolds (s : State) (c : Nat) (seq : Word) : State :=
  let s := { s with objects := s.objects.map fun (e : Nat × Obj) =>
    (e.1, { e.2 with staged := e.2.staged.filter fun g => !(g.ctx == c && g.seq == seq) }) }
  (s.modRun c seq fun r => { r with foldsLeft := [], discarded := true }).runMaybeDone c seq

/-! ### Stages -/

/-- A rescale of the run's slot is due and not done (R231). -/
def State.rescaleDue (s : State) (r : Run) : Bool :=
  let period := s.rf .numScaleCfg 16 16
  match r.mb with
  | none => false
  | some slot =>
    s.rf .numScaleCfg 0 1 == 0 && period != 0 && r.step % period == 0 && tget s.num.scaled slot != some r.step &&
      (s.ctxD r.ctx).regions.any fun e => e.2.decl.carried.isSome && decide (slot < max 1 e.2.decl.slots)

/-- Staged dWs an object's staging region holds (R116). -/
def Obj.stagingRoom (o : Obj) (size : Nat) : Nat := if o.decl.gradBytes = 0 then 1 else size / o.decl.gradBytes

/-- Free place of an object's staging region: no staged dW lies there and none is being formed there (R116). -/
def State.stagingSlot (s : State) (o : Obj) : Option Nat :=
  (List.range (o.stagingRoom (s.regionLen o.ctx o.decl.staging))).find? fun i =>
    !(o.staged.any fun g => g.slot == i) && !(s.runs.any fun r => r.ctx == o.ctx && tget r.places o.decl.num == some i)

/-- Whether a run still waits on a stage's outputs: the stage has not finished, or another stage of its layer has not and the
layer may yet be replayed (R109, R229). -/
def Run.owes (r : Run) (b : PlanBody) (t d : StageDecl) : Bool :=
  !r.finished.contains t.num ||
    (r.s1 && t.kind == .array && t.layer != d.layer &&
      ((r.flaggedLayers b).contains t.layer ||
        b.stages.any fun u => u.kind == .array && u.layer == t.layer && !r.finished.contains u.num))

/-- Stages before a stage in the plan that have not finished reading the scratch it expands into (R120). -/
def Run.scratchRead (r : Run) (b : PlanBody) (d : StageDecl) : Bool :=
  match d.kind with
  | .expand _ scratch _ => (b.stages.takeWhile fun t => t.num != d.num).any fun t => t.reads.contains scratch && !r.finished.contains t.num
  | _ => false

/-- Whether a stage may begin now (R109, R116, R120, R136, R138, R139, R229, R231, R343). -/
def State.stageReady (s : State) (r : Run) (b : PlanBody) (d : StageDecl) : Bool :=
  let x := s.ctxD r.ctx
  x.mode == .resident && !x.suspended && !r.started.contains d.num && !s.rescaleDue r && !r.scratchRead b d && !s.watchHolds r.ctx d &&
    (b.stages.all fun t => t.num == d.num || !(t.writes.any fun w => d.reads.contains w) || !r.owes b t d) &&
    (d.views.all fun v => (tget r.maps v).isSome) && (d.grams.all fun g => r.grams.contains g) &&
    (d.dws.all fun o => b.stages.all fun t => !t.grams.contains (o, 0) || r.finished.contains t.num) &&
    (d.dws.all fun o => (tget r.places o).isSome || match tget s.objects o with | some x => (s.stagingSlot x).isSome | none => true) &&
    (d.weights.all fun o => match tget s.objects o with
      | some x => x.decl.shard != 2 || r.gathered.contains (d.num, o)
      | none => true)

/-- A GRAM stage that is not applied as it would begin: its step is sealed, or it selected no rows (R138, R140). -/
def State.stageSkipped (s : State) (r : Run) (b : PlanBody) (d : StageDecl) : Bool :=
  !d.grams.isEmpty && (s.isSealed r.ctx r.step || d.grams.all fun g => s.rowCount r b g.1 g.2 == 0)

/-- A work item joins a granary's queue. -/
def State.addItem (s : State) (stack : Nat) (i : Item) : State := s.modGranary stack fun g => { g with items := g.items ++ [i] }

/-- Adds an item to every granary with units of it; `stackOf` gives a unit's stack. -/
def State.addItems (s : State) (i : Item) (units : List Nat) (stackOf : Nat → Nat) : State :=
  (List.range 12).foldl (fun s st =>
    let mine := units.filter fun u => stackOf u == st
    if mine.isEmpty then s else s.addItem st { i with todo := mine }) s

/-- Whether a work item of a context and descriptor is left in any granary. -/
def State.itemLeft (s : State) (w : Work) (c : Nat) (seq : Word) : Bool :=
  s.granaries.any fun e => e.2.items.any fun i => i.work == w && i.ctx == c && i.seq == seq

/-- Rows, blocks of 64 elements in a row, and output region, format and pitch of an element stage (R110, R120). -/
def State.elemShape (s : State) (d : StageDecl) : Nat × Nat × Nat × Nat × Nat :=
  match d.kind with
  | .array => (0, 0, 0, 0, 0)
  | .element _ _ out rows cols => (rows, (cols + 63) / 64, out.region, out.fmt, tensorPitch out.align out.fmt cols)
  | .expand obj scratch _ =>
    match tget s.objects obj with
    | none => (0, 0, 0, 0, 0)
    | some o => (o.decl.rows, o.decl.nb, scratch, 8, blockPitch o.decl.cols)

/-- Where a run's place in a region begins. -/
def State.placeBase (s : State) (r : Run) (reg : Nat) : Nat :=
  match s.region? r.ctx reg with | some g => (s.runPlace r.ctx r.seq reg g).1 | none => 0

/-- Takes a place of the staging region for each dW of a stage, and counts the rows of its GRAM steps, once for a micro-batch
(R116, R138, R140; log entry 93). -/
def State.beginEffects (s : State) (r : Run) (b : PlanBody) (d : StageDecl) : State :=
  let s := if r.mb.isNone then s else d.dws.foldl (fun s o =>
    match tget s.objects o, (s.run? r.ctx r.seq).bind fun q => tget q.places o with
    | some x, none => match s.stagingSlot x with
      | some i => s.modRun r.ctx r.seq fun q => { q with places := tset q.places o i }
      | none => s
    | _, _ => s) s
  if r.replayed.contains d.layer && d.kind == .array then s
  else d.grams.foldl (fun s g => s.modStat (statKey g.1 g.2) fun t => { t with rows := t.rows + s.rowCount r b g.1 g.2 }) s

/-- Starts a stage's work. -/
def State.beginStage (s : State) (r : Run) (pl : Plan) (d : StageDecl) : State :=
  let s := (s.modRun r.ctx r.seq fun q => { q with started := q.started ++ [d.num] }).beginEffects r pl.body d
  match d.kind with
  | .array =>
    let rep := s.replayStage r d.num
    (List.range (2 * pl.body.groups.length)).foldl (fun s l =>
      match (pl.body.program? rep l).bind (fun p => (p.entries[d.num]?).join), s.physArray r.ctx r.slot l with
      | some seg, some a =>
        if s.arrayFree r.ctx a then s.startSegment a r l seg d.num rep
        else s.modRun r.ctx r.seq fun q => { q with parked := q.parked ++ [(l, seg, d.num, none)] }
      | _, _ => s) s
  | _ =>
    let sh := s.elemShape d
    s.addItems { work := .element d.num, ctx := r.ctx, seq := r.seq } (List.range (sh.1 * sh.2.1)) fun u =>
      s.stackOfByte r.ctx sh.2.2.1 ((s.placeBase r sh.2.2.1) + u / max 1 sh.2.1 * sh.2.2.2.2 + elemByte sh.2.2.2.1 (u % max 1 sh.2.1 * 64))

/-- Releases a run's pin on an object (R127). -/
def State.unpinOne (s : State) (o c : Nat) (seq : Word) : State :=
  (s.modObj o fun x => { x with live := x.live.map fun v => { v with pins := v.pins.filter (· != (c, seq)) } }).retire o

/-- The NUM_OVF record of a stage, once per stage and micro-batch (R233). -/
def State.overflowRecord (s : State) (r : Run) (stage : Nat) : State :=
  let bits := (r.flags.filter fun f => f.1 == stage).map (·.2.2)
  if bits.isEmpty || r.reported.contains stage then s
  else
    let low := bits.foldl min (bits.headD 0)
    let s := s.modRun r.ctx r.seq fun q => { q with reported := q.reported ++ [stage] }
    s.event (s.bothPorts r.ctx) 0x0300 0 r.ctx
      [r.seq, BitVec.ofNat 32 (stage + if r.s1 then 65536 else 0), BitVec.ofNat 32 bits.length, BitVec.ofNat 32 low]

/-- A finished dW waits in its place of the staging region (R115, R116). -/
def State.stageDw (s : State) (r : Run) (o : Nat) : State :=
  match tget s.objects o with
  | none => s
  | some _ =>
    let pinned := ((r.pins.getD []).find? fun p => p.1 == o).map (·.2)
    let s := s.modRun r.ctx r.seq fun q => { q with places := tdel q.places o }
    s.modObj o fun y =>
      { y with staged := y.staged ++ [{ ctx := r.ctx, seq := r.seq, step := r.step, slot := tgetD r.places o 0, pinned := pinned.getD 0 }] }

/-- Whether what a stage brings about at its end must wait for its layer: in S1 mode the layer may yet be replayed (R229). -/
def Run.layerOpen (r : Run) (b : PlanBody) (d : StageDecl) : Bool :=
  r.s1 && d.kind == .array &&
    ((r.flaggedLayers b).contains d.layer || b.stages.any fun t => t.kind == .array && t.layer == d.layer && !r.finished.contains t.num)

/-- Final effects of a stage: its dWs are staged, the stashes they used are freed, X of the products it reads is stashed, and
pins no later stage needs are released (R112, R116, R127). -/
def State.endEffects (s : State) (r : Run) (b : PlanBody) (d : StageDecl) : State :=
  if r.mb.isNone then s
  else
    let s := d.dws.foldl (fun s o => s.stageDw r o) s
    let kept := (r.stash ++ (d.weights.filter fun o => !r.stash.contains o && b.stashes.any fun e => e.1 == o)).filter fun o =>
      !(b.stages.any fun t => t.dws.contains o && r.finished.contains t.num)
    let s := s.modRun r.ctx r.seq fun q => { q with stash := kept }
    d.weights.foldl (fun s o =>
      if b.stages.all fun t => !t.weights.contains o || (r.finished.contains t.num && !r.layerOpen b t) then s.unpinOne o r.ctx r.seq else s) s

/-- What the end of a stage brings about; `skipped` says that it was not applied (R109, R116, R127, R138, R229, R343). -/
def State.stageDone (s : State) (r : Run) (b : PlanBody) (d : StageDecl) (skipped : Bool) : State :=
  let s := s.modRun r.ctx r.seq fun q =>
    { q with finished := q.finished ++ [d.num], discarded := q.discarded || (skipped && s.isSealed r.ctx r.step),
             gathered := q.gathered.filter fun g => g.1 != d.num }
  let s := s.overflowRecord r d.num
  let ends : List StageDecl := match s.run? r.ctx r.seq with
    | none => []
    | some q => if q.layerOpen b d then []
        else if q.s1 && d.kind == StageKind.array then b.stages.filter fun t => t.kind == StageKind.array && t.layer == d.layer else [d]
  let s := ends.foldl (fun s t => match s.run? r.ctx r.seq with | some q => s.endEffects q b t | none => s) s
  let s := if skipped then s else ends.foldl (fun s t => s.oweReads r.ctx r.seq t.num) s
  s.runMaybeDone r.ctx r.seq

/-- The gathers of divided working copies that a stage of L mode waits for and that are not under way (R343). -/
def State.startGathers (s : State) (r : Run) (b : PlanBody) (d : StageDecl) : State :=
  let divided (o : Nat) : Bool := match tget s.objects o with | some x => x.decl.shard == 2 | none => false
  let missing := d.weights.filter fun o => divided o && !r.gathered.contains (d.num, o)
  if !s.stageReady { r with gathered := r.gathered ++ missing.map fun o => (d.num, o) } b d then s
  else missing.foldl (fun s o => match tget s.objects o with
    | none => s
    | some x =>
      if s.exchanging r.seq 8 o d.num then s
      else
        let v := match (r.pins.getD []).find? fun p => p.1 == o with | some p => p.2 | none => 0
        s.exchange r.ctx r.seq 8 (BitVec.ofNat 32 v) o d.num x.decl.shardCut (s.runBytes r.ctx r.seq x.decl.wc 0 (s.regionLen x.ctx x.decl.wc))) s

/-- Whether nothing but a gather of a divided working copy is missing for a stage to begin (R343). -/
def State.gatherOnly (s : State) (r : Run) (b : PlanBody) (d : StageDecl) : Bool :=
  s.stageReady { r with gathered := r.gathered ++ d.weights.map fun o => (d.num, o) } b d

/-- STAGE_START: a stage begins, the first of a run with its pins; one that may not begin yet changes nothing (R125). -/
def execStageStart (c : Nat) (seq : Word) (stage : Nat) (s : State) : Host.Outcome State Fault Refusal :=
  match s.run? c seq with
  | none => .next s
  | some r =>
    match s.planOf c r.slot with
    | none => .next s
    | some pl =>
      match pl.body.stage? stage, s.ensurePinned r pl.body with
      | some d, some t =>
        let r := (t.run? c seq).getD r
        if !t.gatherOnly r pl.body d then .next s
        else if !t.stageReady r pl.body d then .next (t.startGathers r pl.body d)
        else if t.stageSkipped r pl.body d then
          .next ((t.modRun c seq fun q => { q with started := q.started ++ [stage] }).stageDone r pl.body d true)
        else .next (t.beginStage r pl d)
      | _, _ => .next s

/-- Whether all of a started stage's work has ended. -/
def State.stageEnded (s : State) (r : Run) (pl : Plan) (d : StageDecl) : Bool :=
  match d.kind with
  | .array =>
    let rep := s.replayStage r d.num
    (List.range (2 * pl.body.groups.length)).all fun l =>
      ((pl.body.program? rep l).bind fun p => (p.entries[d.num]?).join).isNone || r.parts.contains (d.num, l)
  | _ => !s.itemLeft (.element d.num) r.ctx r.seq

def execStageComplete (c : Nat) (seq : Word) (stage : Nat) (s : State) : Host.Outcome State Fault Refusal :=
  match s.run? c seq with
  | none => .next s
  | some r =>
    match s.planOf c r.slot with
    | none => .next s
    | some pl =>
      match pl.body.stage? stage with
      | none => .next s
      | some d =>
        if r.started.contains stage && !r.finished.contains stage && s.stageEnded r pl d then .next (s.stageDone r pl.body d false)
        else .next s

/-! ### GRAM stages (R138) -/

/-- A run that still has its GRAM stage on a statistic before it in its step's order. -/
def State.gramPending (s : State) (q : Run) (g : Nat × Nat) : Bool :=
  match s.planOf q.ctx q.slot with
  | none => false
  | some pl => pl.body.stages.any fun t => t.grams.contains g && !q.finished.contains t.num

/-- Whether a run's GRAM stage on a statistic may begin (R138). While the context has sealed no step, the first step to begin is
the one gathered until the first seal (log entry 93). -/
def State.gramReady (s : State) (r : Run) (g : Nat × Nat) : Bool :=
  let before := s.runs.filter fun q => q.ctx == r.ctx && q.mb.isSome && s.gramPending q g &&
    (decide (q.step < r.step) && !s.isSealed r.ctx q.step || (q.step == r.step && seqBefore q.seq r.seq))
  before.isEmpty && (s.blocks.all fun e => !(e.2.obj == g.1 && e.2.side == g.2) || !e.2.busy) &&
    match tget s.lastSealed r.ctx with
    | some n => decide (r.step ≤ n + 1)
    | none => match (tget s.stats (statKey g.1 g.2)).bind (·.gather) with
      | some m => m == r.step
      | none => true

/-- The gather of a cut-shared statistic's sampled view before its GRAM stage; none where there is nothing to gather or
it has been gathered (R345). -/
def State.gatherView (s : State) (r : Run) (b : PlanBody) (obj side : Nat) : Option State :=
  match (tget s.stats (statKey obj side)).bind (·.decl.shared), b.views.find? fun v => v.obj == obj && v.side == side with
  | some cut, some v =>
    if !s.inCut cut || s.isSealed r.ctx r.step || (tget r.viewRows v.num).isSome then none
    else if s.exchanging r.seq 10 obj v.num then some s
    else
      let rows := tgetD r.maps v.num []
      some (s.exchange r.ctx r.seq 10 (BitVec.ofNat 32 r.step) obj v.num cut (s.viewBytes r.ctx r.seq v rows 0 (rows.length * max 1 v.pitch)))
  | _, _ => none

def execGramStage (c : Nat) (seq : Word) (obj side : Nat) (s : State) : Host.Outcome State Fault Refusal :=
  match s.run? c seq with
  | none => .next s
  | some r =>
    match s.planOf c r.slot with
    | none => .next s
    | some pl =>
      if !(pl.body.stages.any fun t => t.grams.contains (obj, side)) || r.grams.contains (obj, side) then .next s
      else
        match s.ensurePinned r pl.body with
        | none => .next s
        | some t =>
          let r := (t.run? c seq).getD r
          if t.isSealed c r.step || t.gramReady r (obj, side) then
            match t.gatherView r pl.body obj side with
            | some u => .next u
            | none =>
              let t := if t.isSealed c r.step then t else t.modStat (statKey obj side) fun q => { q with gather := some r.step }
              .next (t.modRun c seq fun q => { q with grams := q.grams ++ [(obj, side)] })
          else .next s

/-! ### Folds (R116, R117, R185) -/

/-- Order of staged dWs: step, then SEQ. -/
def stagedBefore (a b : Staged) : Bool := decide (a.step < b.step) || (a.step == b.step && seqBefore a.seq b.seq)

/-- The staged dW of an object that is folded next: by step, then SEQ. -/
def Obj.firstStaged (o : Obj) : Option Staged :=
  o.staged.foldl (fun (b : Option Staged) g => match b with
    | none => some g
    | some h => if stagedBefore g h then some g else some h) none

/-- Whether a run before it in the order still owes the object a fold. -/
def State.foldPredecessor (s : State) (o : Nat) (g : Staged) : Bool :=
  s.runs.any fun r => r.ctx == g.ctx && r.step == g.step && seqBefore r.seq g.seq && r.foldsLeft.contains o

/-- What a staged dW meets at its object's buffer. -/
inductive FoldTest where
  | fold
  | discard
  | waits
  deriving DecidableEq, Repr

def State.foldTest (s : State) (o : Obj) (g : Staged) : FoldTest :=
  if s.isSealed g.ctx g.step then .discard
  else match o.buf with
    | .released => if s.foldPredecessor o.decl.num g then .waits else .fold
    | .openFor m => if g.step < m then .discard else if m < g.step then .waits
        else if s.foldPredecessor o.decl.num g then .waits else .fold
    | .sealedFor m => if g.step ≤ m then .discard else .waits

/-- Stack whose granary holds block j of an object: that of its gradient buffer (R183). -/
def State.objStack (s : State) (o : Obj) (j : Nat) : Nat := s.stackOfByte o.ctx o.decl.grad (o.decl.blockByte j)

/-- A fold has been applied: the object's later folds of the step add to it; the run's staleness is taken (R124). -/
def State.foldDone (s : State) (o : Nat) (g : Staged) : State :=
  match tget s.objects o with
  | none => s
  | some x =>
    let s := s.modObj o fun y => { y with folded := true, staged := y.staged.filter (· != g) }
    let s := s.modRun g.ctx g.seq fun r =>
      { r with foldsLeft := r.foldsLeft.filter (· != o), folded := r.folded + 1, staleness := max r.staleness (x.version - g.pinned) }
    s.runMaybeDone g.ctx g.seq

def execFold (obj : Nat) (s : State) : Host.Outcome State Fault Refusal :=
  match tget s.objects obj with
  | none => .next s
  | some o =>
    let busy := s.foldsWaiting obj
    match o.firstStaged with
    | none => .next s
    | some g =>
      if busy then .next s
      else match s.foldTest o g with
        | .waits => .next s
        | .discard => .next (s.discardFolds g.ctx g.seq)
        | .fold =>
          let s := s.modObj obj fun x => { x with buf := .openFor g.step }
          if o.decl.gradBlocks = 0 then .next (s.foldDone obj g)
          else .next (s.addItems { work := .fold obj g, ctx := g.ctx, seq := g.seq } (List.range o.decl.gradBlocks) (s.objStack o))

/-! ### Layer replay (R229) -/

def execLayerReplay (c : Nat) (seq : Word) (layer : Nat) (s : State) : Host.Outcome State Fault Refusal :=
  match s.run? c seq with
  | none => .next s
  | some r =>
    match s.planOf c r.slot with
    | none => .next s
    | some pl =>
      let ofLayer := pl.body.stages.filter fun t => t.layer == layer && t.kind == .array
      if (r.flaggedLayers pl.body).contains layer && ofLayer.all fun t => r.finished.contains t.num then
        let nums := ofLayer.map (·.num)
        let n := ((r.flags.filter fun f => nums.contains f.1).map (·.2)).eraseDups.length
        let (k, s) := s.fresh
        let s := s.modRun c seq fun q =>
          { q with replayed := q.replayed ++ [layer], started := q.started.filter fun t => !nums.contains t,
                   finished := q.finished.filter fun t => !nums.contains t, parts := q.parts.filter fun p => !nums.contains p.1 }
        let s := { s with num := { s.num with replays := min (s.num.replays + 1) 65535 } }
        let s := pl.body.replays.foldl (fun s p => s.appendFills r p) s
        .next (s.event (s.bothPorts c) 0x0301 0 c [seq, BitVec.ofNat 32 layer, BitVec.ofNat 32 n, Config.freeWord 10 k])
      else .next s

/-! ### Rescale (R231–R233) -/

/-- The stored values of a block, exactly: sign, magnitude and exponent of each element (R37). -/
def blkParts (wide : Bool) (bs : List Byte) : List (Bool × Nat × Int) :=
  (List.range 64).map fun i =>
    let code := bs.getD i 0
    let v := blkMag wide code
    (decide (code.toNat / 128 = 1), v.1, v.2 + (bs.getD 64 0).toNat - 127 - subScale (bs.getD 65 0) (i / 16))

/-- Largest magnitude among exact values. -/
def maxParts (vs : List (Bool × Nat × Int)) : Dy :=
  vs.foldl (fun a v => let d : Dy := { m := v.2.1, e := v.2.2 }; if a.lt d then d else a) {}

/-- A CARRIED block rewritten with headroom h: its bytes, and whether its exponent was lowered. The values are the stored
ones, exactly, so that elements that expand to an infinity stay as they are (R231 steps 2 to 4). -/
def rescaleBlock (wide : Bool) (h : Nat) (old : List Byte) : List Byte × Bool :=
  let x := (old.getD 64 0).toNat
  if x = 0xFF then (old, false)
  else
    let vs := blkParts wide old
    let xn := min x (derivedX wide (maxParts vs) + h)
    let ts := (List.range 4).map fun g => derivedT wide xn (maxParts ((vs.drop (16 * g)).take 16))
    ((blkPut wide [] false xn ts vs).bytes, decide (xn < x))

/-- Rescales one tensor, from the byte its place begins at; adds the blocks lowered to a count. -/
def State.rescaleRegion (s : State) (c reg base h : Nat) (t : CarriedDecl) (n : Nat) : State × Nat :=
  let pitch := blockPitch (64 * t.nb)
  (List.range (t.rows * t.nb)).foldl (fun (acc : State × Nat) j =>
    let off := base + j / t.nb * pitch + 66 * (j % t.nb)
    let b := rescaleBlock t.wide h (acc.1.regionBytes c reg off 66)
    (acc.1.regionPut c reg off b.1, if b.2 then acc.2 + 1 else acc.2)) (s, n)

/-- Rescales every tensor of a slot; the blocks lowered. -/
def State.rescaleSlot (s : State) (c slot : Nat) : State × Nat :=
  (s.ctxD c).regions.foldl (fun (acc : State × Nat) e => match e.2.decl.carried with
    | some k =>
      if e.2.decl.slots ≤ slot ∧ slot ≠ 0 then acc
      else acc.1.rescaleRegion c e.1 (if e.2.decl.slots ≤ 1 then 0 else slot * e.2.decl.slotLen) s.num.hEff k acc.2
    | none => acc) (s, 0)

def execRescale (c slot : Nat) (s : State) : Host.Outcome State Fault Refusal :=
  match s.runs.find? fun r => r.ctx == c && r.mb == some slot && s.rescaleDue r with
  | none => .next s
  | some r =>
    match s.planOf c r.slot with
    | none => .next s
    | some pl =>
      match s.ensurePinned r pl.body with
      | none => .next s
      | some t =>
        let go := t.rescaleSlot c slot
        let before := match go.1.num.lowered with | some e => if e.1 = r.step then e.2 else 0 | none => 0
        .next { go.1 with num := { go.1.num with scaled := tset go.1.num.scaled slot r.step, lowered := some (r.step, before + go.2) } }

/-! ### Watch reads (R374) -/

/-- WATCH_READ: a read that a finished stage of the run owes an armed point. -/
def execWatchRead (c : Nat) (seq : Word) (point : Nat) (s : State) : Host.Outcome State Fault Refusal :=
  match s.run? c seq with
  | none => .next s
  | some r =>
    match r.owed.find? fun e => e.1 == point with
    | none => .next s
    | some e => .next ((s.watchRead c r point e.2).modRun c seq fun q => { q with owed := q.owed.erase e })

end Sys2Proof.Machine
end

