-- ==== Sys2Proof/Machine/RootMath.lean ====
section
/-! DEFINITION. The arithmetic of matrix roots: matrices of pair-32 in memory, power iterations, the coupled iteration, residuals and
the unscaling of a result (R154–R160). -/

namespace Sys2Proof.Machine

/-! ### Scaling, and pairs in bytes -/

/-- A pair times a power of two, both parts. -/
def pairScale (p : Pair) (k : Int) : Pair :=
  if k = 0 then p
  else { hi := f32OfDyKeep p.hi k, lo := f32OfDyKeep p.lo k }
where
  /-- A word times a power of two, keeping zeros and what is not finite. -/
  f32OfDyKeep (w : Word) (k : Int) : Word :=
    match f32Val w with
    | .fin neg m e => if m = 0 then w else BitVec.ofNat 32 (b32.round 0 neg m (e + k)).1
    | _ => w

/-- A word times a power of two, rounded to nearest even. -/
def f32Scale (w : Word) (k : Int) : Word :=
  match f32Val w with
  | .fin neg m e => BitVec.ofNat 32 (b32.round 0 neg m (e + k)).1
  | _ => w

def pairOfBytes (bs : List Byte) : Pair := { hi := leWord bs 0, lo := leWord bs 4 }
def pairBytes (p : Pair) : List Byte := leBytes 4 p.hi.toNat ++ leBytes 4 p.lo.toNat

/-! ### Matrices of pair-32 -/

abbrev Mat := List (List Pair)

def one32 : Pair := pairOf 0x3F800000

def Mat.at (a : Mat) (i j : Nat) : Pair := (a.getD i []).getD j {}

/-- A matrix by its elements. -/
def mkMat (n k : Nat) (f : Nat → Nat → Pair) : Mat := (List.range n).map fun i => (List.range k).map (f i)

/-- A pair-32 product, each element one chain in increasing index (R103, R158). -/
def matMul (a b : Mat) : Mat :=
  let k := (b.headD []).length
  let cols := (List.range k).map fun j => b.map fun r => r.getD j {}
  a.map fun row => cols.map fun col => (row.zip col).foldl (fun acc p => pairMac acc p.1 p.2) {}

def matMap (f : Pair → Pair) (a : Mat) : Mat := a.map fun r => r.map f

def matFinite (a : Mat) : Bool := a.all fun r => r.all Pair.finite

/-- Sum of pairs in index order. -/
def pairSum (xs : List Pair) : Pair := xs.foldl pairAdd {}

/-! ### The steps of a refresh (R154–R160) -/

/-- Euclidean norm of a column (log entry 26). -/
def colNorm (a : Mat) (j : Nat) : Pair := pairPru .sqrt (a.foldl (fun acc r => pairMac acc (r.getD j {}) (r.getD j {})) {})

def pairZero (p : Pair) : Bool := b32.isZero p.hi.toNat

/-- The larger of two pairs: infinities are ordered, and a NaN is kept (log entry 26). -/
def pairMax (a b : Pair) : Pair :=
  if f32Val a.hi = .nan then a
  else if f32Val b.hi = .nan then b
  else if a.finite && b.finite then (if pairLt a b then b else a)
  else if f32Lt a.hi b.hi then b else a

/-- Power iterations of stage 1: the last column-norm ratios; `n` counts the iterations left (R156). -/
def powerIter (sm : Mat) : Nat → Mat → List Pair → List Pair
  | 0, _, nu => nu
  | n + 1, v, _ =>
    let z := matMul sm v
    let vn := (List.range 128).map (colNorm v)
    let zn := (List.range 128).map (colNorm z)
    let ratio := (List.range 128).filterMap fun j =>
      if pairZero (vn.getD j {}) then none else some (pairMul (zn.getD j {}) (pairPru .recip (vn.getD j {})))
    let inv := zn.map fun x => if pairZero x then one32 else pairPru .recip x
    powerIter sm n (z.map fun r => (List.range 128).map fun j => pairMul (r.getD j {}) (inv.getD j one32)) ratio

/-- Entry of the starting matrix of stage 1. -/
def startEntry (stream ordinal i j : Nat) : Pair :=
  pairOf (f32OfDy { m := (draw 0 stream ordinal (128 * i + j) : Int) - 32768, e := 0 })

/-- ε of an iterate over the real indices, the squares in tile order (R159). -/
def residual (m : Mat) (real : Nat) : Word :=
  let n := (m.length + 127) / 128
  let order := (List.range n).flatMap fun a => (List.range n).flatMap fun b =>
    (List.range 128).flatMap fun i => (List.range 128).map fun j => (128 * a + i, 128 * b + j)
  let sum := (order.filter fun e => decide (e.1 < real) && decide (e.2 < real)).foldl (fun acc e =>
    let d := pairSub (pairOf (m.at e.1 e.2).hi) (if e.1 = e.2 then one32 else {})
    pairMac acc d d) {}
  f32Div (f32Sqrt sum.hi) (f32Sqrt (f32OfNat real))

/-- t^(p−1) · y in the fixed form of R158. -/
def rootStep (p : Nat) (t y : Mat) : Mat :=
  match p with
  | 1 => y
  | 2 => matMul t y
  | 4 => matMul t (matMul t (matMul t y))
  | _ => let t2 := matMul t t; matMul (matMul t2 t2) (matMul t2 (matMul t (matMul t y)))

/-- One step of the coupled iteration: the new x, y and m (R158). -/
def coupledStep (p : Nat) (x y m : Mat) : Mat × Mat × Mat :=
  let t := mkMat m.length m.length fun i j =>
    pairScale (pairSub (if i = j then pairOf (f32OfNat (p + 1)) else {}) (m.at i j)) (-(Nat.log2 p : Int))
  let x := matMul x t
  let y := rootStep p t y
  (x, y, matMul x y)

/-- The test after iteration k with residual e: none where the iteration goes on, else the code (R159). -/
def stopCode (x m : Mat) (tol eps0 e : Word) (k : Nat) : Option Nat :=
  if !matFinite m || !matFinite x then some 3
  else if f32Le e tol then some 0
  else if f32Lt eps0 e then some 2
  else if 32 ≤ k then some 1
  else none

/-- c^(1/p) by successive square roots. -/
def rootScalar : Nat → Pair → Pair
  | 0, c => c
  | n + 1, c => rootScalar n (pairPru .sqrt c)

/-- The exponent of the binary16 copy: the largest magnitude times 2^e lies in [2^14, 2^15). -/
def halfExp (a : List (List Word)) : Int :=
  let top := a.foldl (fun m r => r.foldl (fun m w => max m (w.toNat % 2 ^ 31)) m) 0
  match b32.val top with
  | .fin _ m e => if m = 0 then 0 else 14 - ((Nat.log2 m : Int) + e)
  | _ => 0

/-- The real part of a result times a scalar, rounded to binary32; padding is zero (R154, R160). -/
def unscale (real : Nat) (a : Mat) (k : Pair) : List (List Word) :=
  (List.range a.length).map fun i => (List.range a.length).map fun j =>
    if i < real ∧ j < real then (pairMul (a.at i j) k).hi else 0


/-- ν and trace(F) of stage 1, from S and W (R156). -/
def stageOne (sm : Mat) (w : Pair) (real stream ordinal : Nat) : Pair × Pair :=
  let invW := pairPru .recip w
  let ratio := powerIter sm 8 (mkMat sm.length 128 (startEntry stream ordinal)) []
  (pairMul (ratio.foldl pairMax {}) invW, pairMul (pairSum ((List.range real).map fun i => sm.at i i)) invW)

/-- λ = max(λ_min, α · 2^s · trace(F)/m) (R154; log entry 26). -/
def dampingOf (alpha lambdaMin : Word) (shift : Nat) (trace : Pair) (real : Nat) : Pair :=
  let damp := pairMul (pairMul (pairOf (f32Scale alpha shift)) trace) (pairPru .recip (pairOf (f32OfNat real)))
  pairMax (pairOf lambdaMin) damp

/-- c = 1.25 ν + λ. -/
def scaleOf (nu lam : Pair) : Pair := pairAdd (pairMul (pairOf 0x3FA00000) nu) lam

/-- A_s of stage 2 (R154, R157). -/
def scaledFactor (sm : Mat) (w lam c : Pair) (real : Nat) : Mat :=
  let k := pairPru .recip (pairMul w c)
  let diag := pairMul lam (pairPru .recip c)
  mkMat sm.length sm.length fun i j =>
    if i < real ∧ j < real then
      let x := pairMul (sm.at i j) k
      if i = j then pairAdd x diag else x
    else if i = j then one32 else {}

def identityMat (n : Nat) : Mat := mkMat n n fun i j => if i = j then one32 else {}

/-- Element of an inverse root in the binary16 copy scaled by 2^e (R160). -/
def halfElem (w : Word) (e : Int) : BitVec 16 :=
  match f32Val w with
  | .fin neg m x => BitVec.ofNat 16 (b16.round 0 neg m (x + e)).1
  | _ => BitVec.ofNat 16 (convertFmt b32 b16 0 false w.toNat).1

/-- Matrices as bytes, row by row. -/
def matBytes (a : Mat) : List Byte := a.flatMap fun r => r.flatMap pairBytes
def matOfBytes (n : Nat) (bs : List Byte) : Mat := mkMat n n fun i j => pairOfBytes (sliceBytes bs (8 * (n * i + j)) 8)
def wordRows (n : Nat) (bs : List Byte) : List (List Word) := (List.range n).map fun i => (List.range n).map fun j => leWord bs (4 * (n * i + j))
def rowBytes32 (a : List (List Word)) : List Byte := a.flatMap fun r => r.flatMap fun w => leBytes 4 w.toNat
def copyBytes (a : List (List Word)) (e : Int) : List Byte := a.flatMap fun r => r.flatMap fun w => leBytes 2 (halfElem w e).toNat

end Sys2Proof.Machine
end

