-- ==== Sys2Proof/Machine/Curv.lean ====
section
/-! DEFINITION. Curvature statistics: the matrix S in memory, decay, drift, snapshots, the seal of a step and the refresh
policy; STAT_CFG (R131–R152, R225, R232), and BLOCK_RELEASE. -/

namespace Sys2Proof.Machine

/-! ### S in memory (R132) -/

def State.statOf (s : State) (b : Block) : Stat := tgetD s.stats (statKey b.obj b.side) default

/-- Byte of element (i, j) of a block in its statistic's region: tiles of 128 × 128 pairs, row by row. -/
def Block.elemAt (b : Block) (i j : Nat) : Nat :=
  b.offset + ((i / 128 * (b.size / 128) + j / 128) * 16384 + i % 128 * 128 + j % 128) * 8

/-- Context that owns an object. -/
def State.objCtx (s : State) (o : Nat) : Nat := match tget s.objects o with | some x => x.ctx | none => 0

/-- Element (i, j) of S as stored. -/
def State.sAt (s : State) (b : Block) (i j : Nat) : Pair :=
  pairOfBytes (s.regionBytes (s.objCtx b.obj) (s.statOf b).decl.region (b.elemAt i j) 8)

def State.sPut (s : State) (b : Block) (i j : Nat) (p : Pair) : State :=
  s.regionPut (s.objCtx b.obj) (s.statOf b).decl.region (b.elemAt i j) (pairBytes p)

/-- Element (i, j) by its accumulated tile, on or above the diagonal of tiles. -/
def State.sUpper (s : State) (b : Block) (i j : Nat) : Pair := if i / 128 ≤ j / 128 then s.sAt b i j else s.sAt b j i

/-- The decay pass over a block: accumulated tiles times β and the scaling of the seal, as latched at the seal, lower tiles as
transposes (R140, R141). -/
def State.decayBlock (s : State) (b : Block) (d : Decay) : State :=
  let beta := pairOf d.beta
  (List.range b.size).foldl (fun s i => (List.range b.size).foldl (fun s j =>
    if i / 128 ≤ j / 128 then
      let p := pairScale (pairMul (s.sAt b i j) beta) d.scaleExp
      let s := s.sPut b i j p
      if i / 128 < j / 128 then s.sPut b j i p else s
    else s) s) s

/-! ### Drift (R143, R144) -/

/-- Row and column of the n-th entry of the strict upper triangle of an m × m matrix, row by row. -/
def upperEntry (m : Nat) : Nat → Nat → Nat → Nat × Nat
  | 0, i, _ => (i, i)
  | k + 1, i, n => if n < m - 1 - i then (i, i + 1 + n) else upperEntry m k (i + 1) (n - (m - 1 - i))

/-- The 1,024 sampled entries of a block at a refresh ordinal; none for m = 1. -/
def State.sampledEntries (s : State) (b : Block) (ordinal : Nat) : List (Nat × Nat) :=
  let nOff := b.real * (b.real - 1) / 2
  let stream := match tget s.objects b.obj with | some o => o.decl.selStream | none => 0
  if nOff = 0 then []
  else (List.range 1024).map fun k =>
    let p := b.q * 2048 + 2 * k
    let u := draw 0 stream ordinal p + 65536 * draw 0 stream ordinal (p + 1)
    upperEntry b.real b.real 0 (u % nOff)

/-- F = S/W at an entry as binary32, the exact quotient rounded once (log entry 20). Where S or W is not finite or W is 0 it is the NaN
(log entry 98). -/
def factorWord (p w : Pair) : Word :=
  let a := p.dy
  let d := w.dy
  if !p.finite || !w.finite || d.m = 0 then f32Nan
  else
    let r := divDy 60 a.m.natAbs a.e d.m.natAbs d.e
    BitVec.ofNat 32 (b32.round 0 (decide (a.m < 0) != decide (d.m < 0)) r.1 r.2).1

/-- F = S/W at the diagonal and at the entries sampled for an ordinal. -/
def State.factorEntries (s : State) (b : Block) (w : Pair) (ordinal : Nat) : List Word :=
  ((List.range b.real).map fun i => (i, i)) ++ s.sampledEntries b ordinal |>.map fun e => factorWord (s.sUpper b e.1 e.2) w

/-- Σ diag x² + 2 (N_off / 1,024) Σ sampled x², the sums in binary32 in index order. -/
def weightedSquares (m nOff : Nat) (xs : List Word) : Word :=
  let sum (ys : List Word) := ys.foldl (fun a x => f32Add a (f32Mul x x)) 0
  let d := sum (xs.take m)
  if nOff = 0 then d
  else f32Add d (f32Mul (f32OfDy { m := nOff, e := -9 }) (sum (xs.drop m)))

/-- Drift of a block against its reference; +∞ when the denominator is zero. -/
def State.driftOf (s : State) (b : Block) (w : Pair) : Word :=
  let n := b.real * (b.real - 1) / 2
  let f := s.factorEntries b w b.ordinal
  let den := weightedSquares b.real n b.refs
  if b.refs.isEmpty || b32.isZero den.toNat then 0x7F800000
  else f32Sqrt (f32Div (weightedSquares b.real n ((List.range f.length).map fun i => f32Sub (f.getD i 0) (b.refs.getD i 0))) den)

/-! ### Refresh estimates (R158, R168) -/

/-- Products of one iteration. -/
def rootProducts (p : Nat) : Nat := match p with | 1 => 2 | 2 => 3 | 4 => 5 | _ => 7

/-- Root order of an object. -/
def State.rootOrder (s : State) (o : Nat) : Nat := match tget s.objects o with | some x => 2 ^ x.precond.p | none => 4

/-- Refresh estimate of a block in units of 1,024 array-cycles. -/
def State.estimateOf (s : State) (b : Block) : Nat :=
  b.estimate.getD ((1024 * b.size ^ 2 + 16 * rootProducts (s.rootOrder b.obj) * b.size ^ 3) / 1048576)

/-! ### Snapshots (R144, R154, R166) -/

/-- Sector group that runs a block's work. -/
def State.groupOf (s : State) (b : Block) : Nat := (s.statOf b).decl.group

/-- First loaded plan of a context. -/
def State.firstPlan (s : State) (c : Nat) : Option PlanBody := ((s.ctxD c).plans.head?).map fun e => e.2.body

/-- Refresh scratch of the group that runs a block's refreshes. -/
def State.scratchOf (s : State) (b : Block) : Option ScratchDecl :=
  (s.statPlan b.obj b.side).bind fun e => e.2.body.scratches.find? fun k => k.group == s.groupOf b

/-- Tile (a, b) on or above the diagonal of t × t tiles, in the order of the snapshot: row by row. -/
def upperTile (t a b : Nat) : Nat := a * t - a * (a - 1) / 2 + (b - a)

/-- Bytes of a whole snapshot. -/
def snapBytes (size : Nat) : Nat := (size / 128) * (size / 128 + 1) / 2 * 131072

/-- Snapshots that lie in a group's snapshot area: begin and end. -/
def State.snapsHeld (s : State) (g : Nat) : List (Nat × Nat) :=
  (tgetD s.curv.queue g [] ++ ((tget s.curv.current g).map fun r => [r]).getD []).map fun r =>
    (r.place, r.place + snapBytes (match tget s.blocks r.block with | some b => b.size | none => 0))

/-- The first place in a group's snapshot area where a snapshot of n bytes fits (log entry 96). -/
def State.snapPlace (s : State) (g room n : Nat) : Option Nat :=
  let held := s.snapsHeld g
  ((0 :: held.map (·.2)).mergeSort (· ≤ ·)).find? fun p => decide (p + n ≤ room) && held.all fun h => decide (p + n ≤ h.1) || decide (h.2 ≤ p)

/-- Copies the accumulated tiles of a block into the snapshot area. -/
def State.copySnapshot (s : State) (b : Block) (k : ScratchDecl) (place : Nat) : State :=
  let c := s.objCtx b.obj
  let t := b.size / 128
  (List.range t).foldl (fun s i => (List.range t).foldl (fun s j =>
    if i ≤ j then
      s.regionPut c k.region (place + 131072 * upperTile t i j) (s.regionBytes c (s.statOf b).decl.region (b.offset + 131072 * (i * t + j)) 131072)
    else s) s) s

/-- The place of a snapshot in its queue: older seals first, then the order of the seal. -/
def queueInsert (r : Refresh) : List Refresh → List Refresh
  | [] => [r]
  | x :: xs =>
    if r.sealCount < x.sealCount || (r.sealCount == x.sealCount && decide (r.order < x.order)) then r :: x :: xs
    else x :: queueInsert r xs

/-- Takes a block's snapshot in row 5; without space the refresh finishes at once with NO_SNAPSHOT (R154, R166). -/
def State.snapshot (s : State) (n : Nat) (b : Block) (d : Decay) (reason order : Nat) : State :=
  let o := match tget s.objects b.obj with | some x => x.precond | none => {}
  let g := s.groupOf b
  let base : Refresh :=
    { block := n, step := d.step, source := if reason = 0 then 1 else 0, w := d.w, p := 2 ^ o.p, alpha := o.alpha, lambdaMin := o.lambdaMin, tol := o.tol,
      shift := (s.statOf b).shift, both := o.both, estimate := s.estimateOf b, charged := decide (reason ≠ 0) && reason != 2,
      sealCount := d.sealCount, order := order }
  match (s.scratchOf b).bind fun k => (s.snapPlace g k.work (snapBytes b.size)).map fun p => (k, p) with
  | none =>
    let s := s.modBlock n fun b => { b with chosen := none }
    let s := if base.charged then { s with curv := { s.curv with credit := s.curv.credit + 1024 * base.estimate } } else s
    let drop (q : RootRequest) : RootRequest :=
      if q.waiting.contains n then { q with waiting := q.waiting.filter (· != n), failed := q.failed + 1 } else q
    let s := { s with curv := { s.curv with requests := s.curv.requests.map drop } }
    s.rootRecord base 5 0 0 0 0 0
  | some (k, place) =>
    let r := { base with place := place, newRefs := s.factorEntries b d.w (b.ordinal + 1) }
    let s := s.copySnapshot b k place
    let s := s.modBlock n fun b => { b with chosen := none, pending := true, reset := false }
    let v := s.curv
    let move (q : RootRequest) : RootRequest :=
      if q.waiting.contains n then { q with waiting := q.waiting.filter (· != n), running := q.running ++ [n] } else q
    { s with curv := { v with queue := tset v.queue g (queueInsert r (tgetD v.queue g [])), requests := v.requests.map move } }

/-- The end of a block's decay pass: drift, and the snapshot of a chosen block (row 5). -/
def State.decayDone (s : State) (d : Decay) : State :=
  match tget s.blocks d.block with
  | none => s
  | some b =>
    let s := s.decayBlock b d
    let s := s.modBlock d.block fun b => { b with drift := s.driftOf b d.w }
    match b.chosen with
    | none => s
    | some ch => (s.snapshot d.block ((tget s.blocks d.block).getD b) d ch.1 ch.2).requestsSettle

/-! ### Block records (R150) -/

/-- A block's record, W and the row count being those of the seal. -/
def Block.record (b : Block) (n : Nat) (estimate : Nat) : List Word :=
  let bit (v : Bool) (k : Nat) := if v then 2 ^ k else 0
  [BitVec.ofNat 32 (n + 2 ^ 12 * b.obj + 2 ^ 28 * b.side + bit b.hasRoots 29 + bit b.pending 30 + bit b.failed 31), b.drift,
   BitVec.ofNat 32 (min b.age 65535 + 2 ^ 16 * b.backoff + 2 ^ 24 * min b.fails 255), BitVec.ofNat 32 b.refStep, b.sealW.hi,
   BitVec.ofNat 32 b.sealRows, BitVec.ofNat 32 estimate, if b.reset then 1 else 0]

/-- Writes records into a region the routing section names. -/
def State.putWords (s : State) (c reg off : Nat) (ws : List Word) : State := s.regionPut c reg off (ws.flatMap fun w => leBytes 4 w.toNat)

/-- Whether a block's decay pass is still to come in some granary. -/
def State.decayLeft (s : State) (block : Nat) : Bool :=
  s.granaries.any fun e => e.2.items.any fun i => match i.work with | .decay d => d.block == block | _ => false

/-- Row 6: once rows 4 and 5 of its block are complete, the block is released to the next step's GRAM stages and its record is written;
of a context torn down meanwhile the records stay as they were (R140, R142, R150). -/
def execBlockRelease (block : Nat) (s : State) : Host.Outcome State Fault Refusal :=
  match tget s.blocks block with
  | none => .next s
  | some b =>
    let c := s.objCtx b.obj
    if !b.busy || s.decayLeft block || s.curv.sealing.isSome || (s.ctxD c).mode == .tornDown then .next s
    else
      let s := match s.firstPlan c with
        | some pl => s.putWords c pl.statsRegion (32 * block) (b.record block (s.estimateOf b))
        | none => s
      .next (s.modBlock block fun b => { b with busy := false })

/-! ### Decisions (R145–R148) -/

/-- Reasons of the table Refresh Reasons. -/
def State.reasonOf (s : State) (b : Block) (step : Nat) : Option Nat :=
  let t := s.statOf b
  let theta := s.rf .crvTheta 0 16
  let adapt := s.rf .crvPolicy 1 1 == 1
  let ageMax := if t.ageMax = 0 then s.rf .crvTheta 16 16 else t.ageMax
  let own := if t.theta = 0 then theta else t.theta
  -- own θ times THETA_EFF / THETA while adaptation is on; the quotient by THETA = 0 is left open (log entry 21)
  let num := if adapt then own * s.curv.thetaEff else own
  let den := if !adapt then 1 else if theta = 0 then 1 + Config.freeNat 21 [own] else theta
  let limit : Dy := { m := num, e := -16 }
  let above := match f32Val b.drift with
    | .inf neg => !neg
    | .nan => false
    | .fin neg m e => !neg && limit.lt { m := m * den, e := e }
  if b.pending || b.backoff ≠ 0 || t.sched = 2 then none
  else if t.sched = 1 ∧ ((step : Int) - t.phase) % max 1 (t.period : Int) = 0 then some 1
  else if (!b.hasRoots || b.reset) && !b32.isZero t.w.hi.toNat && decide (max 1 (s.rf .crvPolicy 8 8) ≤ t.nonempty) then some 2
  else if t.sched = 0 && b.hasRoots && !b.reset && ageMax != 0 && decide (ageMax ≤ b.age) then some 3
  else if t.sched = 0 && b.hasRoots && !b.reset && above then some 4
  else none

/-- Key that orders DRIFT candidates: drift over θ_s, larger first. -/
def State.driftRatio (s : State) (b : Block) : Dy :=
  let t := s.statOf b
  let own := if t.theta = 0 then s.rf .crvTheta 0 16 else t.theta
  match f32Val b.drift with
  | .fin _ m e => let r := divDy 60 m e (max 1 own) 0; { m := r.1, e := r.2 }
  | _ => { m := 1, e := 1000 }

/-- Twin pairs of a context's partition. -/
def State.pairCount (s : State) (c : Nat) : Nat := (s.ctxD c).pairs.length

/-- The refresh budget of one step in array-cycles (R146). -/
def State.stepBudget (s : State) (c : Nat) : Nat := s.rf .crvBudget 0 10 * (2 * s.pairCount c * s.curv.spacing) / 1000

/-- Marks a block chosen, charging the credit; its audit record follows, with the credit in units of 1,024 rounded down (R146, R149; log
entry 98). -/
def State.choose (s : State) (step floor order : Nat) (ch : Nat × Nat × Block) : State :=
  let (n, reason, b) := ch
  let est := s.estimateOf b
  let credit := if reason = 2 then s.curv.credit else max (-(floor : Int)) (s.curv.credit - 1024 * est)
  let s := { s with curv := { s.curv with credit := credit } }
  let s := s.modBlock n fun b => { b with chosen := some (reason, order) }
  s.devEvent 0x0100 1 [BitVec.ofNat 32 step, BitVec.ofNat 32 (n + 2 ^ 12 * reason), b.drift, BitVec.ofNat 32 (min b.age 65535),
    BitVec.ofNat 32 est, BitVec.ofInt 32 (credit / 1024)]

/-- Chooses AGE and DRIFT candidates until one's cost exceeds the credit; what is left is deferred. -/
def State.chooseCharged (s : State) (step floor : Nat) : Nat → List (Nat × Nat × Block) → State × List (Nat × Nat × Block)
  | _, [] => (s, [])
  | order, x :: xs =>
    if s.curv.credit < 1024 * (s.estimateOf x.2.2 : Int) then (s, x :: xs)
    else (s.choose step floor order x).chooseCharged step floor (order + 1) xs

/-- A new THETA_EFF, with its record (R147, R149). -/
def State.setThetaEff (s : State) (step new why : Nat) : State :=
  let old := s.curv.thetaEff
  let s := { s with curv := { s.curv with thetaEff := new } }
  if old = new then s else s.devEvent 0x0102 1 [BitVec.ofNat 32 step, BitVec.ofNat 32 (old + 65536 * new), BitVec.ofNat 32 why]

/-- θ adaptation after a seal's decisions. -/
def State.adaptTheta (s : State) (step deferred cap : Nat) : State :=
  if s.rf .crvPolicy 1 1 = 0 ∨ s.rf .crvPolicy 0 1 = 1 then s
  else
    let up := if 0 < deferred then s.curv.upRun + 1 else 0
    let down := if deferred = 0 ∧ s.curv.credit = cap then s.curv.downRun + 1 else 0
    let e := s.curv.thetaEff
    if 16 ≤ up then ({ s with curv := { s.curv with upRun := 0, downRun := 0 } }).setThetaEff step (min (e + e / 4) (s.rf .crvThetaBounds 16 16)) 1
    else if 16 ≤ down then
      ({ s with curv := { s.curv with upRun := 0, downRun := 0 } }).setThetaEff step (max (e - e / 5) (s.rf .crvThetaBounds 0 16)) 2
    else { s with curv := { s.curv with upRun := up, downRun := down } }

/-- Largest drift of a list of candidates. -/
def largestDrift (xs : List (Nat × Nat × Block)) : Word :=
  xs.foldl (fun a x => if f32Lt a x.2.2.drift then x.2.2.drift else a) 0

/-- Row 4: refresh decisions of a context's blocks, and the audit record of the seal, for the steward and the context's port (R149,
R153). Its largest deferred drift is taken over the deferred DRIFT candidates (log entry 98). -/
def State.decisions (s : State) (c step : Nat) : State :=
  let budget := s.stepBudget c
  let cap := 4 * budget
  let auto := s.rf .crvPolicy 0 1 == 0
  let s := { s with curv := { s.curv with credit := min (s.curv.credit + budget) cap } }
  let cands := if !auto then [] else (s.blocks.filter fun e => s.objCtx e.2.obj == c).filterMap fun e =>
    (s.reasonOf e.2 step).map fun r => (e.1, r, e.2)
  let first := cands.filter fun x => decide (x.2.1 ≤ 2)
  let age := (cands.filter fun x => x.2.1 == 3).mergeSort fun a b => decide (b.2.2.age ≤ a.2.2.age)
  let drift := (cands.filter fun x => x.2.1 == 4).mergeSort fun a b => !(s.driftRatio a.2.2).lt (s.driftRatio b.2.2)
  let s := (List.range first.length).foldl (fun s i => match first[i]? with | some x => s.choose step cap i x | none => s) s
  let r := s.chooseCharged step cap first.length (age ++ drift)
  let deferred := r.2.length
  let s := { r.1 with curv := { r.1.curv with deferred := deferred } }
  let s := s.event (s.bothPorts c) 0x0101 1 0 [BitVec.ofNat 32 step, BitVec.ofNat 32 (cands.length + 65536 * (cands.length - deferred)),
    BitVec.ofNat 32 deferred, largestDrift (r.2.filter fun x => x.2.1 == 4), BitVec.ofInt 32 (s.curv.credit / 1024),
    BitVec.ofNat 32 s.curv.thetaEff]
  s.adaptTheta step deferred cap

/-! ### The seal (R140–R142, R162, R225, R232) -/

/-- Row 2 for one statistic: W ← β (W + n), its scaling, and the counts of the closed step. -/
def Stat.sealed (t : Stat) : Stat :=
  let w := pairMul (pairAdd t.w (pairOfDy { m := t.rows, e := 0 })) (pairOf t.beta)
  let k : Int := match f32Val w.hi with
    | .fin _ m e => if m = 0 then 0 else
        let top : Int := Nat.log2 m + e
        if 64 ≤ top then -64 else if top < -60 then 64 else 0
    | _ => 0
  { t with w := pairScale w k, scaleExp := k, sealedRows := t.rows, rows := 0, gather := none, nonempty := if t.rows = 0 then t.nonempty else t.nonempty + 1 }

/-- A CRV_DAMP record and the new shift (R164, R180). -/
def State.setShift (s : State) (k step new why : Nat) : State :=
  match tget s.stats k with
  | none => s
  | some t =>
    if t.shift = new then s
    else (s.modStat k fun t => { t with shift := new, calm := 0 }).devEvent 0x0105 1
      [BitVec.ofNat 32 step, BitVec.ofNat 32 (t.decl.obj + 65536 * t.decl.side), BitVec.ofNat 32 (t.shift + 16 * new), BitVec.ofNat 32 why]

/-- A RESET takes effect after row 2 (R152). -/
def State.resetStat (s : State) (k step : Nat) : State :=
  match tget s.stats k with
  | none => s
  | some t =>
    if !t.resetDue then s
    else
      let c := s.objCtx t.decl.obj
      let s := s.regionPut c t.decl.region 0 (List.replicate (s.regionLen c t.decl.region) 0)
      let s := s.modStat k fun t => { t with w := {}, scaleExp := 0, nonempty := 0, resetDue := false }
      let s := { s with blocks := s.blocks.map fun (e : Nat × Block) =>
        if e.2.obj = t.decl.obj ∧ e.2.side = t.decl.side then (e.1, { e.2 with refs := [], age := 0, reset := true }) else e }
      s.setShift k step 0 3

/-- The statistics keys of an object. -/
def sidesOf (o : Nat) : List Nat := [statKey o 0, statKey o 1]

/-! ### Root memory (R160, R162, R163) -/

/-- Bytes of a block's place in root memory at which its binary16 copy and its root begin (log entry 96). -/
def copyAt (size : Nat) : Nat := 4 * size * size
def keptAt (size : Nat) : Nat := 6 * size * size

/-- Bytes of a statistic's root memory from a block's place on. -/
def State.rootBytesAt (s : State) (t : Stat) (at_ off n : Nat) : List Byte := s.regionBytes (s.objCtx t.decl.obj) t.decl.roots (at_ + off) n
def State.rootPutAt (s : State) (t : Stat) (at_ off : Nat) (bs : List Byte) : State := s.regionPut (s.objCtx t.decl.obj) t.decl.roots (at_ + off) bs

/-- The inverse root of stored size b at a place of a statistic's root memory. -/
def State.rootInverse (s : State) (t : Stat) (at_ b : Nat) : List (List Word) := wordRows b (s.rootBytesAt t at_ 0 (4 * b * b))

/-- Makes the binary16 copy of the inverse root at a place of root memory, and gives its exponent (R160, R177). -/
def State.copyAtPlace (s : State) (t : Stat) (at_ b : Nat) : State × Int :=
  let a := s.rootInverse t at_ b
  let e := halfExp a
  (s.rootPutAt t at_ (copyAt b) (copyBytes a e), e)

/-- The binary16 copy of a block's installed inverse root. -/
def State.makeCopy (s : State) (n : Nat) : State :=
  match tget s.blocks n with
  | none => s
  | some b =>
    let r := s.copyAtPlace (s.statOf b) b.rootAt b.size
    r.1.modBlock n fun b => { b with exp16 := r.2 }

/-- The binary16 copy of a root that another member of the cut owns. -/
def State.makeRemoteCopy (s : State) (k q : Nat) : State :=
  match tget s.stats k with
  | none => s
  | some t =>
    let r := s.copyAtPlace t (q * rootBytes t.decl.blockSize) t.decl.blockSize
    r.1.modStat k fun t => { t with remote := t.remote.map fun (e : Nat × RootCopy) => if e.1 = q then (q, { e.2 with exp16 := r.2 }) else e }

/-- PRECOND_CFG parameters take effect, those of P before installation (R177, R178). -/
def State.applyPrecond (s : State) (o step : Nat) : State :=
  match tget s.objects o with
  | none => s
  | some x =>
    match x.precondDue with
    | none => s
    | some n =>
      let mine (b : Block) := b.obj == o
      let s := s.modObj o fun y => { y with precond := n, precondDue := none }
      let s := if n.alpha = x.precond.alpha then s else (sidesOf o).foldl (fun s k => s.setShift k step 0 3) s
      let s := if n.p = x.precond.p then s
        else
          let s := s.abandon fun r => match tget s.blocks r.block with | some b => mine b | none => false
          let keep (r : RootResult) : Bool := match tget s.blocks r.block with | some b => !mine b | none => true
          let s := { s with curv := { s.curv with results := s.curv.results.filter keep } }
          { s with blocks := s.blocks.map fun (e : Nat × Block) => if mine e.2 then
            (e.1, { e.2 with hasRoots := false, pending := false, both := false, exp16 := 0 }) else e,
                   stats := s.stats.map fun (e : Nat × Stat) => if e.2.decl.obj = o then (e.1, { e.2 with remote := [] }) else e }
      let s := if n.single = false ∧ x.precond.single = true then
          let s := (s.blocks.filter fun e => mine e.2 && e.2.hasRoots).foldl (fun s e => s.makeCopy e.1) s
          (sidesOf o).foldl (fun s k => match tget s.stats k with
            | some t => t.remote.foldl (fun s e => s.makeRemoteCopy k e.1) s
            | none => s) s
        else s
      if n.both = false then
        let drop (m : Table RootCopy) : Table RootCopy := m.map fun (e : Nat × RootCopy) => (e.1, { e.2 with both := false })
        { s with blocks := s.blocks.map fun (e : Nat × Block) => if mine e.2 then (e.1, { e.2 with both := false }) else e,
                 stats := s.stats.map fun (e : Nat × Stat) => if e.2.decl.obj = o then (e.1, { e.2 with remote := drop e.2.remote }) else e }
      else s

/-- A block's roots as an exchange carries them: its index, size and exponent, the inverse, the root (R345; log entry 25). -/
def rootMsg (q size : Nat) (exp16 : Int) (both : Bool) (inv root : List Byte) : List Byte :=
  leBytes 4 q ++ leBytes 4 size ++ leBytes 4 (signedBits 32 exp16) ++ leBytes 4 (if both then size else 0) ++ inv ++ if both then root else []
where
  /-- Two's complement. -/
  signedBits (w : Nat) (v : Int) : Nat := (v % (2 ^ w : Nat)).toNat

/-- Sends the roots installed at a seal to the cut of each shared statistic (R345). -/
def State.shareRoots (s : State) (c step : Nat) (done : List Nat) : State :=
  s.stats.foldl (fun s e =>
    match e.2.decl.shared with
    | none => s
    | some cut =>
      if s.objCtx e.2.decl.obj ≠ c ∨ s.inCut cut = false then s
      else
        let own := done.flatMap fun n => match tget s.blocks n with
          | some b => if b.obj = e.2.decl.obj ∧ b.side = e.2.decl.side then
              rootMsg b.q b.size b.exp16 b.both (s.rootBytesAt e.2 b.rootAt 0 (4 * b.size * b.size)) (s.rootBytesAt e.2 b.rootAt (keptAt b.size) (4 * b.size * b.size))
            else []
          | none => []
        s.exchange c 0 9 (BitVec.ofNat 32 step) e.2.decl.obj e.2.decl.side cut own) s

/-- Converged results that a seal installs: those that finished before the last seal, in order of finish (R162). -/
def State.dueResults (s : State) : List RootResult := s.curv.results.filter fun r => decide (r.finishedStep < s.curv.seals)

/-- Byte of a result's place in its group's scratch. -/
def slotAt (k : ScratchDecl) (slot : Nat) : Nat := k.result + k.place * slot

/-- The installation of a block's result: the block's granary copies it from the result area over the block's root memory, and the block
has roots (R162). -/
def State.installDone (s : State) (n : Nat) : State :=
  match tget s.blocks n, s.curv.results.find? fun r => r.block == n with
  | some b, some r =>
    let c := s.objCtx b.obj
    let s := match s.scratchOf b with
      | none => s
      | some k =>
        let part (off len : Nat) : List Byte := s.regionBytes c k.region (slotAt k r.slot + off) len
        let s := s.rootPutAt (s.statOf b) b.rootAt 0 (part 0 (4 * b.size * b.size))
        if r.both then s.rootPutAt (s.statOf b) b.rootAt (keptAt b.size) (part (keptAt b.size) (4 * b.size * b.size)) else s
    let s := s.modBlock n fun b => { b with both := r.both, exp16 := r.exp16, pending := false, hasRoots := true }
    let s := { s with curv := { s.curv with results := s.curv.results.filter fun x => x.block != n } }
    match tget s.objects b.obj with
    | some o => if o.precond.single then s else s.makeCopy n
    | none => s
  | _, _ => s

/-! ### Histograms and headroom at the seal (R225, R232, R233) -/

/-- The bank of a stage histogram of a plan at a step, by its place in the routing section. -/
def histBank (h : Nat × Nat × Nat) (step : Nat) : Nat := h.2.2 + 272 * (step % 2)

/-- The histogram log entries of the sealed step, one in the log of each loaded plan; then the banks are zero (R225). -/
def State.logHistograms (s : State) (c step : Nat) : State :=
  let plans := (s.ctxD c).plans.map fun e => (e.2.body, e.2.body.hists.mergeSort fun a b => decide (a.1 ≤ b.1))
  let s := plans.foldl (fun s e =>
    let n := e.2.length
    let head := leBytes 5 step ++ List.replicate 3 0 ++ leBytes 4 n ++ List.replicate 4 0
    let body := e.2.flatMap fun h => s.regionBytes c h.2.1 (histBank h step) 272
    if e.1.histDepth = 0 then s else s.regionPut c e.1.histLog (step % e.1.histDepth * (16 + 272 * n)) (head ++ body)) s
  plans.foldl (fun s e => e.2.foldl (fun s h => s.regionPut c h.2.1 (histBank h step) (List.replicate 272 0)) s) s

/-- The NUM_RESCALE record of a rescale step, written at its seal (R233; log entry 89). -/
def State.rescaleRecord (s : State) (step : Nat) : State :=
  match s.num.lowered with
  | none => s
  | some e =>
    if e.1 ≠ step then s
    else ({ s with num := { s.num with lowered := none } } : State).devEvent 0x0302 0
      [BitVec.ofNat 32 step, BitVec.ofNat 32 (s.num.hOld + 16 * s.num.hEff), BitVec.ofNat 32 e.2, BitVec.ofNat 32 s.num.counted]

/-- The block-scale loop at the seal before a rescale step, after the record of a rescale step that is sealed (R232, R233). -/
def State.sealScale (s : State) (step : Nat) : State :=
  let s := s.rescaleRecord step
  let period := s.rf .numScaleCfg 16 16
  if s.rf .numScaleCfg 0 1 = 1 ∨ period = 0 ∨ (step + 1) % period ≠ 0 then s
  else
    let count := ((s.num.flagged.filter fun f => decide (step + 1 - period ≤ f.1) && decide (f.1 ≤ step)).map (·.2)).sum
    let old := s.num.hEff
    let calm := if count = 0 then s.num.zeroRun + 1 else 0
    let new := if 0 < count then min (old + 1) (s.rf .numScaleCfg 4 3)
      else if 4 ≤ calm then max (old - 1) (s.rf .numScaleCfg 1 3) else old
    { s with num := { s.num with hEff := new, hOld := old, counted := count, flagged := s.num.flagged.filter fun f => decide (step < f.1 + 65535),
                                 zeroRun := if new ≠ old then 0 else calm } }

/-! ### The seal (R117, R140, R162, R185) -/

/-- ROOT_REFRESH requests join row 5: a block pending already counts as its own result, at once when its refresh has converged and
waits for installation only; the others are chosen (R148, R175). -/
def State.requestBlocks (s : State) : State :=
  let v := s.curv
  let pend (n : Nat) := match tget s.blocks n with | some b => b.pending | none => false
  let done (n : Nat) := pend n && v.results.any fun r => r.block == n
  let move (q : RootRequest) : RootRequest :=
    { q with running := q.running ++ q.waiting.filter fun n => pend n && !done n, waiting := q.waiting.filter fun n => !pend n,
             converged := q.converged + (q.waiting.filter done).length }
  let s := { s with curv := { v with requests := v.requests.map move } }
  let ask := (s.curv.requests.flatMap (·.waiting)).eraseDups
  (List.range ask.length).foldl (fun s i => match ask[i]? with
    | some n => s.modBlock n fun b => { b with chosen := match b.chosen with | some x => some x | none => some (0, 4096 + i) }
    | none => s) s

/-- Rows 4 and 5 of a seal: the decisions, and the decay passes handed to the granaries (R140). -/
def State.sealRest (s : State) (c step : Nat) : State :=
  let s := { s with curv := { s.curv with sealing := none } }
  let s := (s.decisions c step).requestBlocks.requestsSettle
  s.blocks.foldl (fun s e =>
    if s.objCtx e.2.obj == c then
      let t := s.statOf e.2
      s.addItem (s.stackOfByte c t.decl.region e.2.offset)
        { work := .decay { block := e.1, beta := t.beta, scaleExp := t.scaleExp, w := t.w, step := step, sealCount := s.curv.seals },
          ctx := c, todo := List.range (e.2.size * e.2.size / 64) }
    else s) s

/-- Installations of the context left in the granaries. -/
def State.installsLeft (s : State) : Bool :=
  s.granaries.any fun e => e.2.items.any fun i => match i.work with | .install _ => true | _ => false

/-- An installation has ended: with the last of its seal, the new roots are shared and the seal's rows 4 and 5 follow (R162, R345). -/
def State.installNext (s : State) : State :=
  match s.curv.sealing with
  | none => s
  | some (c, step, done) => if s.installsLeft then s else (s.shareRoots c step done).sealRest c step

/-- Statistics a STAT_CFG names. -/
def State.statTargets (s : State) (c : Nat) (d : Desc) : List Nat :=
  if d.f 2 17 1 = 1 then (s.stats.filter fun e => s.objCtx e.2.decl.obj == c).map (·.1)
  else [statKey (d.f 2 0 16) (d.f 2 16 1)]

/-- The valid fields of a SET applied to a statistic. -/
def Stat.configured (d : Desc) (t : Stat) : Stat :=
  let v (k : Nat) : Bool := d.f 3 k 1 == 1
  let ev : Bool := v 4 && d.f 7 0 2 == 1
  { t with f := if v 0 then d.f 4 0 6 + 1 else t.f, beta := if v 1 then d.w5 else t.beta,
           theta := if v 2 then d.f 6 0 16 else t.theta, ageMax := if v 3 then d.f 6 16 16 else t.ageMax,
           sched := if v 4 then d.f 7 0 2 else t.sched, period := if ev then d.f 8 0 16 else t.period,
           phase := if ev then d.f 8 16 16 else t.phase }

/-- What a STAT_CFG does, at once or at the first seal after its transaction's commit (R152). -/
def State.doStatCfg (s : State) (c : Nat) (d : Desc) : State :=
  (s.statTargets c d).foldl (fun s k => s.modStat k fun t =>
    if d.f 2 18 2 = 0 then t.configured d else { t with resetDue := true }) s

/-- STAT_CFGs of committed transactions take effect at the seal (R152). -/
def State.applyCfgDue (s : State) (c : Nat) : State :=
  let due := s.curv.cfgDue.filter fun e => e.1 == c
  due.foldl (fun s e => s.doStatCfg e.1 e.2) { s with curv := { s.curv with cfgDue := s.curv.cfgDue.filter fun e => e.1 != c } }

/-- The seal of a step of a context: buffers sealed, rows 1 to 3 of the table Seal Processing, the installations handed to the
granaries, and rows 4 and 5 once these are complete (R117, R140, R162, R185). -/
def State.sealStep (s : State) (c step : Nat) : State :=
  let mine (o : Nat) := s.objCtx o == c
  let s := { s with lastSealed := tset s.lastSealed c step,
                    objects := s.objects.map fun (e : Nat × Obj) =>
                      if e.2.ctx = c ∧ !e.2.decl.frozen then (e.1, { e.2 with buf := .sealedFor step, preconditioned := false }) else e }
  let s := ((s.logHistograms c step).sealScale step).applyCfgDue c
  let s := s.objects.foldl (fun s e => if e.2.ctx = c then s.applyPrecond e.1 step else s) s
  let s := { s with stats := s.stats.map fun (e : Nat × Stat) => if mine e.2.decl.obj then (e.1, e.2.sealed) else e }
  let s := s.stats.foldl (fun s e => if mine e.2.decl.obj then s.resetStat e.1 step else s) s
  let awaiting := s.curv.results.map (·.block)
  let s := { s with blocks := s.blocks.map fun (e : Nat × Block) => if mine e.2.obj then
      (e.1, { e.2 with age := if e.2.hasRoots || awaiting.contains e.1 then min (e.2.age + 1) 65535 else e.2.age,
                       backoff := e.2.backoff - 1, busy := true, sealW := (s.statOf e.2).w, sealRows := (s.statOf e.2).sealedRows }) else e }
  let due := s.dueResults
  let s := due.foldl (fun s r => match tget s.blocks r.block with
    | some b => s.addItem (s.stackOfByte c (s.statOf b).decl.region b.offset) { work := .install r.block, ctx := c, todo := List.range (b.size * b.size / 64) }
    | none => s) s
  let v := s.curv
  let s := { s with curv := { v with spacing := if v.seals = 0 then 0 else s.now - v.lastSeal, lastSeal := s.now, seals := v.seals + 1,
                                     sealing := some (c, step, due.map fun (r : RootResult) => r.block) } }
  s.installNext

/-! ### STAT_CFG (R151, R152) -/

/-- A binary32 value from 0 to 1. -/
def f32Unit (w : Word) : Bool := f32Finite w && f32Le 0 w && f32Le w 0x3F800000

/-- Largest compiled fraction of a statistic among the loaded plans of its context. -/
def State.compiledFraction (s : State) (c k : Nat) : Nat :=
  ((s.ctxD c).plans.flatMap fun e => (e.2.body.stats.filter fun t => statKey t.obj t.side == k).map (·.fraction)).foldl max 1

def State.checkStatCfg (s : State) (c : Nat) (d : Desc) : Checks :=
  let set := d.f 2 18 2 == 0
  let v (k : Nat) := set && d.f 3 k 1 == 1
  let all := d.f 2 17 1 == 1
  { fmt := firstBad [
      (reservedSet d [0xFFFFF, 31, 63, full, full, 3, full], dReserved), (decide (1 < d.f 2 18 2), dReserved),
      ((s.ctxD c).kind != .train, 0x0403),
      (!all && (match tget s.stats (statKey (d.f 2 0 16) (d.f 2 16 1)) with
        | some t => s.objCtx t.decl.obj != c | none => true), 0x0403)]
    lim := firstBad [
      ((v 1 && !f32Unit d.w5) || (v 4 && (d.f 7 0 2 == 3 || (d.f 7 0 2 == 1 && d.f 8 0 16 == 0))), 0x0404),
      (v 0 && (s.statTargets c d).any fun k => decide (d.f 4 0 6 + 1 < s.compiledFraction c k), 0x0405)] }

def State.checkStatCfgSet (s : State) (c : Nat) (d : Desc) : Checks := s.checkStatCfg c d
def State.checkStatCfgReset (s : State) (c : Nat) (d : Desc) : Checks := s.checkStatCfg c d

/-- Holds a descriptor's effect back until the commit of its transaction (R205). -/
def State.deferOr (s : State) (c : Nat) (d : Desc) (go : State → State) : State :=
  if d.inTxn then
    match s.txn? c d.tag with
    | some t => s.setTxn { t with deferred := t.deferred ++ [.descriptor d] }
    | none => s
  else go s

def State.startStatCfgSet (s : State) (c : Nat) (d : Desc) : State := (s.deferOr c d fun s => s.doStatCfg c d).finish c d stDone 0 0
def State.startStatCfgReset (s : State) (c : Nat) (d : Desc) : State := (s.deferOr c d fun s => s.doStatCfg c d).finish c d stDone 0 0

end Sys2Proof.Machine
end

