-- ==== Sys2Proof/Machine/Refresh.lean ====
section
/-! DEFINITION. The refresh of a block: its start, its stages on the arrays of a sector group and on the granary of the block's stack,
its finish, and the damping loop (R154–R168, R180). -/

namespace Sys2Proof.Machine

/-! ### What a refresh reads and writes (R154, R166) -/

/-- The snapshot of a refresh, the tiles below the diagonal read as transposes. -/
def State.snapMat (s : State) (b : Block) (k : ScratchDecl) (r : Refresh) : Mat :=
  let t := b.size / 128
  let bs := s.regionBytes (s.objCtx b.obj) k.region r.place (snapBytes b.size)
  let at_ (i j : Nat) : Pair := pairOfBytes (sliceBytes bs (131072 * upperTile t (i / 128) (j / 128) + 8 * (i % 128 * 128 + j % 128)) 8)
  mkMat b.size b.size fun i j => if i / 128 ≤ j / 128 then at_ i j else at_ j i

/-- The scratch of the group that runs a block's refreshes; its snapshot lies there. -/
def State.scratchD (s : State) (b : Block) : ScratchDecl := (s.scratchOf b).getD default

/-- Matrix n of the working area of a group. -/
def State.workMat (s : State) (b : Block) (k : ScratchDecl) (n : Nat) : Mat :=
  matOfBytes b.size (s.regionBytes (s.objCtx b.obj) k.region (k.work + 8 * b.size * b.size * n) (8 * b.size * b.size))

def State.putMat (s : State) (b : Block) (k : ScratchDecl) (n : Nat) (a : Mat) : State :=
  s.regionPut (s.objCtx b.obj) k.region (k.work + 8 * b.size * b.size * n) (matBytes a)

/-- Stream id of the draws of an object's refreshes. -/
def State.refreshStream (s : State) (obj : Nat) : Nat :=
  match tget s.objects obj with
  | some o => o.decl.selStream
  | none => 0

/-- Tolerance of a refresh (R159). -/
def State.rootTol (s : State) (r : Refresh) : Word :=
  if r.tol = 0 then f32OfDy { m := 1, e := -(s.rf .crvRootCfg 0 6 : Int) } else r.tol

/-- A work item of a refresh for the granary of its block. -/
def State.refreshItem (s : State) (b : Block) (w : Work) : State :=
  let c := s.objCtx b.obj
  s.addItem (s.stackOfByte c (s.statOf b).decl.region b.offset) { work := w, ctx := c, todo := List.range (b.size * b.size / 64) }

def State.setCurrent (s : State) (g : Nat) (r : Refresh) : State := { s with curv := { s.curv with current := tset s.curv.current g r } }

/-! ### Stages (R155–R160) -/

/-- Array-cycles of one iteration of stage 3, at 1,024 MAC in an array-cycle (R158, R168). -/
def iterCycles (p size : Nat) : Nat := rootProducts p * size ^ 3 / 1024

/-- The refresh of a group stops with an outcome; a converged one goes through stages 4 and 5. -/
def State.refreshStops (s : State) (g : Nat) (r : Refresh) (b : Block) (code : Nat) : State :=
  if code = 0 then (s.setCurrent g { r with stage := 5, left := 0, code := 0 }).refreshItem b (.rootResult g)
  else s.setCurrent g { r with stage := 6, left := 0, code := code }

/-- Stage 1 is complete: ν, λ and c are formed, and unless the factor is empty stage 2 is handed to the block's granary. -/
def State.stageOneDone (s : State) (g : Nat) (r : Refresh) (b : Block) (k : ScratchDecl) : State :=
  let o := stageOne (s.snapMat b k r) r.w b.real (s.refreshStream b.obj) b.ordinal
  let lam := dampingOf r.alpha r.lambdaMin r.shift o.2 b.real
  let r := { r with nu := o.1, lam := lam, c := scaleOf o.1 lam }
  if pairZero o.2 && pairZero lam then s.refreshStops g r b 4
  else (s.setCurrent g { r with stage := 2, left := 0 }).refreshItem b (.rootForm g)

/-- An iteration of stage 3 is complete: its test decides. -/
def State.iterationDone (s : State) (g : Nat) (r : Refresh) (b : Block) (k : ScratchDecl) : State :=
  let n := coupledStep r.p (s.workMat b k 0) (s.workMat b k 1) (s.workMat b k 2)
  let s := ((s.putMat b k 0 n.1).putMat b k 1 n.2.1).putMat b k 2 n.2.2
  let e := residual n.2.2 b.real
  let r := { r with iters := r.iters + 1, eps := e }
  match stopCode n.1 n.2.2 (s.rootTol r) r.eps0 e r.iters with
  | some code => s.refreshStops g r b code
  | none => s.setCurrent g { r with left := iterCycles r.p b.size }

/-- The array work of a group's refresh is done. -/
def State.arrayStageDone (s : State) (g : Nat) : State :=
  match tget s.curv.current g with
  | none => s
  | some r =>
    match tget s.blocks r.block with
    | none => s
    | some b =>
      let k := s.scratchD b
      if r.stage = 1 then s.stageOneDone g r b k else if r.stage = 3 then s.iterationDone g r b k else s

/-- Stage 2: A_s in the working area, and the iteration-0 test (R157, R159). -/
def State.rootFormDone (s : State) (g : Nat) : State :=
  match tget s.curv.current g with
  | none => s
  | some r =>
    match tget s.blocks r.block with
    | none => s
    | some b =>
      let k := s.scratchD b
      let a := scaledFactor (s.snapMat b k r) r.w r.lam r.c b.real
      let s := ((s.putMat b k 0 (identityMat b.size)).putMat b k 1 a).putMat b k 2 a
      let e := residual a b.real
      if f32Le e (s.rootTol r) then s.refreshStops g { r with eps0 := e } b 0
      else s.setCurrent g { r with eps0 := e, stage := 3, left := iterCycles r.p b.size }

/-- Stages 4 and 5: the unscaled results in the group's result area (R160). -/
def State.rootResultDone (s : State) (g : Nat) : State :=
  match tget s.curv.current g with
  | none => s
  | some r =>
    match tget s.blocks r.block with
    | none => s
    | some b =>
      let k := s.scratchD b
      let cr := rootScalar (Nat.log2 r.p) r.c
      let inv := unscale b.real (s.workMat b k 0) (pairPru .recip cr)
      let e := halfExp inv
      let c := s.objCtx b.obj
      let half := match tget s.objects b.obj with | some o => !o.precond.single | none => false
      let s := s.regionPut c k.region (slotAt k r.slot) (rowBytes32 inv)
      let s := if half then s.regionPut c k.region (slotAt k r.slot + copyAt b.size) (copyBytes inv e) else s
      let s := if r.both then s.regionPut c k.region (slotAt k r.slot + keptAt b.size) (rowBytes32 (unscale b.real (s.workMat b k 1) cr)) else s
      s.setCurrent g { r with stage := 6, exp16 := e }

/-! ### Fragments on pairs (R165) -/

/-- One cycle of a pair that runs a fragment: two array-cycles of its refresh; the fragment ends after 65,536 cycles or with the array
work of the stage. -/
def State.fragmentCycle (s : State) (p g : Nat) : State :=
  match tget s.curv.current g with
  | none => s.endFragment p
  | some r =>
    let x := s.ctxD (s.pairOwner p)
    if x.mode ≠ .resident ∨ x.suspended ∨ x.onHold then s else
    let s := s.setCurrent g { r with left := r.left - 2 }
    let n := (s.pair p).fragment - 1
    if r.left ≤ 2 ∨ n = 0 then (s.endFragment p).takeWork p
    else s.modPair p fun x => { x with fragment := n }

/-- One cycle of the refreshes. -/
def State.refreshTick (s : State) : State :=
  let s := s.pairs.foldl (fun s (e : Nat × TwinPair) => match (s.pair e.1).refresh with
    | some g => s.fragmentCycle e.1 g
    | none => s) s
  (s.curv.current.filter fun e => (e.2.stage == 1 || e.2.stage == 3) && e.2.left == 0).foldl (fun s e => s.arrayStageDone e.1) s

/-! ### Starting and finishing (R159, R161, R164–R166) -/

/-- Stage 0: the pre-checks (R159). -/
def State.preChecked (s : State) (r : Refresh) : Refresh :=
  let b := tgetD s.blocks r.block {}
  if pairZero r.w then { r with stage := 6, code := 4 }
  else if !matFinite (s.snapMat b (s.scratchD b) r) || !r.w.finite then { r with stage := 6, code := 3 }
  else { r with stage := 1, left := b.size * b.size }

/-- A free place of a group's result area, of four. -/
def State.resultSlot (s : State) (g : Nat) : Option Nat :=
  (List.range 4).find? fun n => !(s.curv.results.any fun x => x.group == g && x.slot == n)

/-- REFRESH_START: a sector group starts its oldest queued refresh when none is running and a result place is free; pairs of the group
that find no other work take it up (R165, R166). -/
def execRefreshStart (group : Nat) (s : State) : Host.Outcome State Fault Refusal :=
  let v := s.curv
  match tgetD v.queue group [] with
  | [] => .next s
  | r :: rest =>
    match s.resultSlot group with
    | none => .next s
    | some n =>
      if (tget v.current group).isSome then .next s
      else
        let r := s.preChecked { r with slot := n }
        let s := { s with curv := { v with queue := tset v.queue group rest, current := tset v.current group r } }
        .next ((s.refreshPairs r).foldl (fun s p => s.takeWork p) s)

/-- The damping loop after a refresh with a code and iteration count (R164). -/
def State.damping (s : State) (k step code iters : Nat) : State :=
  match tget s.stats k with
  | none => s
  | some t =>
    if s.rf .crvRootCfg 6 1 = 1 then s
    else if code = 1 ∨ code = 2 then
      (s.modStat k fun t => { t with calm := 0 }).setShift k step (min (t.shift + 1) (s.rf .crvRootCfg 8 4)) 1
    else if code = 0 ∧ iters ≤ s.rf .crvRootCfg 20 5 then
      let need := max 1 (s.rf .crvRootCfg 12 8)
      if need ≤ t.calm + 1 then (s.modStat k fun t => { t with calm := 0 }).setShift k step (t.shift - 1) 2
      else s.modStat k fun t => { t with calm := t.calm + 1 }
    else s.modStat k fun t => { t with calm := 0 }

/-- A finished refresh in the ROOT_REFRESH requests that wait for it. -/
def State.countRefresh (s : State) (block : Nat) (ok : Bool) : State :=
  let v := s.curv
  let one (q : RootRequest) : RootRequest :=
    if q.running.contains block then
      { q with running := q.running.filter (· != block), converged := q.converged + (if ok then 1 else 0), failed := q.failed + (if ok then 0 else 1) }
    else q
  ({ s with curv := { v with requests := v.requests.map one } } : State).requestsSettle

/-- REFRESH_FINISH: the current refresh of a group that has stopped under R159 updates its block, the credit and the result area. Its
array-cycles are left open (log entry 5). -/
def execRefreshFinish (group : Nat) (s : State) : Host.Outcome State Fault Refusal :=
  match tget s.curv.current group with
  | none => .next s
  | some r =>
    match tget s.blocks r.block with
    | none => .next s
    | some b =>
      if r.stage ≠ 6 then .next s
      else
        let (k, s) := s.fresh
        let cycles := Config.freeNat 31 [k]
        let v := s.curv
        let s := { s with curv := { v with current := tdel v.current group } }
        let c := s.objCtx b.obj
        let floor : Int := -(4 * s.stepBudget c : Nat)
        let s := if r.charged then
            { s with curv := { s.curv with credit := max floor (s.curv.credit + 1024 * r.estimate - cycles) } } else s
        let ok := r.code == 0
        let s := if ok then
            let v := s.curv
            let res : RootResult := { block := r.block, group := group, finishedStep := v.seals, slot := r.slot, both := r.both, exp16 := r.exp16 }
            let s := s.modBlock r.block fun b =>
              { b with refs := r.newRefs, ordinal := b.ordinal + 1, age := v.seals - r.sealCount, fails := 0, failed := false,
                       refStep := r.step, estimate := some (cycles / 1024) }
            { s with curv := { v with results := v.results ++ [res] } }
          else s.modBlock r.block fun b =>
              { b with failed := true, fails := min (b.fails + 1) 255, backoff := s.rf .crvPolicy 16 8, pending := false, estimate := some (cycles / 1024) }
        let s := s.rootRecord r r.code r.iters (if r.iters = 0 then 0 else r.eps) r.nu.hi r.lam.hi (cycles / 1024)
        let s := s.damping (statKey b.obj b.side) r.step r.code r.iters
        .next (s.countRefresh r.block ok)

end Sys2Proof.Machine
end

