-- ==== Sys2Proof/Machine/Granary.lean ====
section
/-! DEFINITION. The granary's work: microprograms, element stages, folds, norm and apply passes over 64-element blocks, and the
choice of the next chunk (R110, R119, R120, R181–R193). -/

namespace Sys2Proof.Machine

/-! ### Microprograms (R190) -/

/-- A NaN result is the default NaN (R181). -/
def canon (w : Word) : Word := if b32.isNan w.toNat then f32Nan else w

/-- minimumNumber and maximumNumber of IEEE 754-2019: a NaN gives way to a number, −0 lies below +0. -/
def f32Min (a b : Word) : Word :=
  if b32.isNan a.toNat then canon b else if b32.isNan b.toNat then a else if wordKey a ≤ wordKey b then a else b
def f32Max (a b : Word) : Word :=
  if b32.isNan a.toNat then canon b else if b32.isNan b.toNat then a else if wordKey a ≤ wordKey b then b else a

/-- Fields of a microprogram word. -/
def microOp (w : Word) : Nat := bitsOf w.toNat 26 6
def microD (w : Word) : Nat := bitsOf w.toNat 22 4
def microA (w : Word) : Nat := bitsOf w.toNat 18 4
def microB (w : Word) : Nat := bitsOf w.toNat 14 4
def microC (w : Word) : Nat := bitsOf w.toNat 10 4

def microEnd : Nat := 0x3F

/-- Whether a word is a legal instruction of a microprogram: a listed operation, unused fields zero, pairs at even registers. -/
def microWordOk (w : Word) : Bool :=
  let op := microOp w
  let pair := op == 0x10 || op == 0x11
  let unary := op == 0x07 || op == 0x08 || op == 0x09 || op == 0x0A || op == 0x0B
  bitsOf w.toNat 0 10 == 0 &&
    ((decide (1 ≤ op) && decide (op ≤ 0x0E)) || pair || op == microEnd) &&
    (op == 0x04 || op == 0x0D || microC w == 0) && (!unary || microB w == 0) &&
    (op != microEnd || (microD w == 0 && microA w == 0 && microB w == 0)) &&
    (!pair || (microD w % 2 == 0 && microA w % 2 == 0 && microB w % 2 == 0))

/-- A whole microprogram: 1 to 64 words, END last and only there. -/
def microOk (ws : List Word) : Bool :=
  decide (1 ≤ ws.length) && decide (ws.length ≤ 64) && ws.all microWordOk &&
    (ws.getLast?.map microOp) == some microEnd && ws.dropLast.all fun w => microOp w != microEnd

/-- One instruction on a lane's sixteen registers. -/
def microStep (r : List Word) (w : Word) : List Word :=
  let d := microD w
  let a := r.getD (microA w) 0
  let b := r.getD (microB w) 0
  let c := r.getD (microC w) 0
  let pa : Pair := { hi := a, lo := r.getD (microA w + 1) 0 }
  let pb : Pair := { hi := b, lo := r.getD (microB w + 1) 0 }
  let one (v : Word) := r.set d (canon v)
  let two (p : Pair) := (r.set d p.hi).set (d + 1) p.lo
  match microOp w with
  | 0x01 => one (f32Add a b)
  | 0x02 => one (f32Sub a b)
  | 0x03 => one (f32Mul a b)
  | 0x04 => one (f32Fma a b c)
  | 0x05 => one (f32Min a b)
  | 0x06 => one (f32Max a b)
  | 0x07 => one (f32Abs a)
  | 0x08 => one (f32Neg a)
  | 0x09 => one (f32Sqrt a)
  | 0x0A => one (BitVec.ofNat 32 (b32.rsqrt 0 false a.toNat).1)
  | 0x0B => one (f32Recip a)
  | 0x0C => one (f32Div a b)
  | 0x0D => one (if f32Lt 0 c then a else b)
  | 0x0E => one (if f32Finite a then a else b)
  | 0x10 => two (pairAdd pa pb)
  | 0x11 => two (pairMul pa pb)
  | _ => r

def microRun (ws : List Word) (r : List Word) : List Word := ws.foldl microStep r

/-! ### Element stages (R110, R120) -/

/-- Bytes that hold one group of 64 elements of a row. -/
def groupBytes (fmt : Nat) : Nat := if isBlock fmt then 66 else rowBytes fmt 64

/-- Registers an operand's element is loaded into. -/
def laneLoad (fmt reg : Nat) (seg : List Byte) (i : Nat) (r : List Word) : List Word :=
  match rowElem fmt true seg i with
  | .pair p => (r.set reg p.hi).set (reg + 1) p.lo
  | _ => r.set reg (watchWord fmt seg i)

/-- The bytes an operand reads for a group: its own group, or the one value of a row or the group of a column vector. -/
def State.laneBytes (s : State) (r : Run) (o : LaneOperand) (cols row g : Nat) : List Byte :=
  let off := match o.along with
    | 0 => row * tensorPitch o.align o.fmt cols + elemByte o.fmt (64 * g)
    | 1 => elemByte o.fmt (64 * (row / 64))
    | _ => elemByte o.fmt (64 * g)
  s.runBytes r.ctx r.seq o.region off (groupBytes o.fmt)

/-- Values of a group of the output: the microprogram run on each lane. -/
def State.laneGroup (s : State) (r : Run) (prog : List Word) (ins : List LaneOperand) (out : LaneOperand) (cols row g : Nat) : List Elem :=
  let segs := ins.map fun o => (o, s.laneBytes r o cols row g)
  (List.range (min 64 (cols - 64 * g))).map fun i =>
    let regs := segs.foldl (fun rs e => laneLoad e.1.fmt e.1.reg e.2 (if e.1.along = 1 then row % 64 else i) rs) (List.replicate 16 0)
    let done := microRun prog regs
    if out.fmt = 7 then .pair { hi := done.getD out.reg 0, lo := done.getD (out.reg + 1) 0 } else .f32 (canon (done.getD out.reg 0))

/-- Adds drained elements to a stage histogram, in its bank for the run's step (R54, R55, R94, R225). -/
def State.stageHist (s : State) (r : Run) (stage : Nat) (bins : List Nat) : State :=
  if bins.isEmpty then s else s.histMerge r.ctx r.slot stage r.step (bins.foldl histAdd histZero)

/-- Bits of a run's block status bitmap from a block on, as its blocks were last written (R39, R41). -/
def State.runBits (s : State) (r : Run) (reg j : Nat) (bits : List Bool) : State :=
  (List.range bits.length).foldl (fun s i =>
    let old := (s.runBytes r.ctx r.seq reg ((j + i) / 8) 1).getD 0 0
    let m : Byte := BitVec.ofNat 8 (2 ^ ((j + i) % 8))
    s.runPut r.ctx r.seq reg ((j + i) / 8) [if bits.getD i false then old ||| m else old &&& ~~~m]) s

/-- An INT4 frozen block expanded exactly to TB8 (R119, R120); none for X = 0xFF. -/
def expandInt4 (bs : List Byte) : Option (List Byte) :=
  let x := (bs.getD 32 0).toNat
  if x = 0xFF then none
  else
    let code (i : Nat) : Byte :=
      let v := signedOf 4 (bitsOf ((bs.getD (i / 2) 0).toNat) (4 * (i % 2)) 4)
      BitVec.ofNat 8 ((blkCode false none v.natAbs 0).1 + if v < 0 then 128 else 0)
    some ((List.range 64).map code ++ [BitVec.ofNat 8 x, 0])

/-- One group of 64 elements of an element stage. -/
def State.elementUnit (s : State) (r : Run) (d : StageDecl) (stack u : Nat) : State :=
  match d.kind with
  | .array => s
  | .element prog ins out _ cols =>
    let nb := max 1 ((cols + 63) / 64)
    let row := drainRow { one := { strict := true }, fmt := out.fmt } (s.laneGroup r prog ins out cols (u / nb) (u % nb))
    let s := s.runPut r.ctx r.seq out.region (u / nb * tensorPitch out.align out.fmt cols + elemByte out.fmt (64 * (u % nb))) row.bytes
    (s.runBits r out.bitmap u row.bits).stageHist r d.num row.hist
  | .expand obj scratch bitmap =>
    match tget s.objects obj with
    | none => s
    | some o =>
      let nb := max 1 o.decl.nb
      let pitch := (33 * nb + 63) / 64 * 64
      match expandInt4 (s.runBytes r.ctx r.seq o.decl.wc (u / nb * pitch + 33 * (u % nb)) 33) with
      | none => s.ctxFault r.ctx (0x200 + stack) u
      | some bytes =>
        let s := s.runPut r.ctx r.seq scratch (u / nb * blockPitch o.decl.cols + 66 * (u % nb)) bytes
        (s.runBits r bitmap u [false]).stageHist r d.num (((blkExpandAll false bytes).take (o.decl.cols - 64 * (u % nb))).map fun w => histIndex 5 w.toNat)

/-! ### Folds (R184) -/

/-- One bit of a bitmap in a region. -/
def State.mapBit (s : State) (c reg j : Nat) : Bool := bitsOf ((s.regionBytes c reg (j / 8) 1).getD 0 0).toNat (j % 8) 1 == 1
def State.setMapBit (s : State) (c reg j : Nat) : State :=
  s.regionPut c reg (j / 8) [((s.regionBytes c reg (j / 8) 1).getD 0 0) ||| BitVec.ofNat 8 (2 ^ (j % 8))]

/-- Writes one bit of a bitmap in a region. -/
def State.putMapBit (s : State) (c reg j : Nat) (v : Bool) : State :=
  let old := (s.regionBytes c reg (j / 8) 1).getD 0 0
  let m : Byte := BitVec.ofNat 8 (2 ^ (j % 8))
  s.regionPut c reg (j / 8) [if v then old ||| m else old &&& ~~~m]

/-- Byte of the first error term of block j (log entry 22). -/
def errByte (d : ObjectDecl) (j : Nat) : Nat := j / max 1 d.nb * tensorPitch d.align 4 d.cols + 128 * (j % max 1 d.nb)

/-- The fold of a block: its new 66 bytes, error terms, and whether its bit is set. -/
def foldBlock (first : Bool) (buf stage : List Byte) (err : List Word) (n : Nat) : BlockOut × List (BitVec 16) :=
  let xB := (buf.getD 64 0).toNat
  let b := blkExpandAll true buf
  let dW := blkExpandAll true stage
  let e (i : Nat) : Word := if xB = 0xFF then 0
    else f32Scale (err.getD i 0) ((xB : Int) - 127 - subScale (buf.getD 65 0) (i / 16))
  let sum := (List.range n).map fun i => f32Add (f32Add (if first then 0 else b.getD i 0) (e i)) (dW.getD i 0)
  let out := blkDerive true [] false sum
  let x := (out.bytes.getD 64 0).toNat
  let new := (List.range n).map fun i =>
    if x = 0xFF then (0 : BitVec 16)
    else
      let r := f32Scale (f32Sub (sum.getD i 0) (out.words.getD i 0)) (127 - (x : Int) + subScale (out.bytes.getD 65 0) (i / 16))
      BitVec.ofNat 16 (convertFmt b32 b16 0 true r.toNat).1
  (out, new)

/-- One block of a fold. -/
def State.foldUnit (s : State) (obj : Nat) (g : Staged) (j : Nat) : State :=
  match tget s.objects obj with
  | none => s
  | some o =>
    let d := o.decl
    let c := o.ctx
    let n := min 64 (d.cols - 64 * (j % max 1 d.nb))
    let at_ := d.blockByte j
    let stage := s.regionBytes c d.staging (g.slot * d.gradBytes + at_) 66
    let eb := s.regionBytes c d.err (errByte d j) (2 * n)
    let err := (List.range n).map fun i => BitVec.ofNat 32 (convertFmt b16 b32 0 true (leNat (sliceBytes eb (2 * i) 2))).1
    let r := foldBlock (!o.folded) (s.regionBytes c d.grad at_ 66) stage err n
    let s := s.regionPut c d.grad at_ r.1.bytes
    let s := s.regionPut c d.err (errByte d j) (r.2.flatMap fun w => leBytes 2 w.toNat)
    if r.1.sat || s.mapBit c d.stagingMap (8 * g.slot * d.mapBytes + j) then s.setMapBit c d.gradMap j else s

/-! ### Update inputs and recipes (R186–R188) -/

/-- The blocks of an object's update that this device owns, as first and count: all of them, or its chunk of a sharded
object (R337, R342). -/
def State.ownedRange (s : State) (o : Obj) : Nat × Nat :=
  let n := o.decl.gradBlocks
  if o.decl.shard = 0 ∨ !s.inCut o.decl.shardCut then (0, n)
  else
    let k := max 1 (s.cutRanks o.decl.shardCut).length
    let chunk := 64 * ((n + 64 * k - 1) / (64 * k))
    let first := min n (s.cutPos o.decl.shardCut * chunk)
    (first, min chunk (n - first))

/-- Expanded gradient values of block j; zero where no fold reached the step's buffer (log entry 23). -/
def State.gradBlock (s : State) (o : Obj) (j : Nat) : List Word :=
  let n := min 64 (o.decl.cols - 64 * (j % max 1 o.decl.nb))
  if o.folded then (blkExpandAll true (s.regionBytes o.ctx o.decl.grad (o.decl.blockByte j) 66)).take n
  else List.replicate n 0

/-- Update inputs u of a block: the gradient, for PRECOND the preconditioned one times the grafting scale. -/
def State.updateInputs (s : State) (o : Obj) (recipe j : Nat) : List Word :=
  (s.gradBlock o j).map fun w => if recipe = 2 then f32Mul o.graft w else w

/-- b^t in pair-32 by repeated squaring, factors from the lowest bit up; `fuel` bounds the bits of t. -/
def pairPow : Nat → Pair → Pair → Nat → Pair
  | 0, acc, _, _ => acc
  | n + 1, acc, base, t =>
    if t = 0 then acc
    else pairPow n (if t % 2 = 1 then pairMul acc base else acc) (pairMul base base) (t / 2)

/-- ĉ: nearest-even 1 − b^t, or 1 without BIASCORR. -/
def biasCorr (on : Bool) (b : Word) (t : Nat) : Word :=
  if on then
    let p := pairPow 65 (pairOf 0x3F800000) (pairOf b) t
    f32OfDy (({ m := 1, e := 0 } : Dy).add { m := -p.dy.m, e := p.dy.e })
  else 0x3F800000

/-- What a recipe makes of one element: d, m′, v′. -/
structure RecipeOut where
  d : Word := 0
  m : Word := 0
  v : Word := 0
  deriving DecidableEq, Repr, Inhabited

/-- The recipes of R187. `prog` is the microprogram of a PROG entry. -/
def recipeOut (e : GranEntry) (prog : List Word) (t : Nat) (u w m v : Word) : RecipeOut :=
  let one : Word := 0x3F800000
  let one1 := f32Sub one e.b1
  let one2 := f32Sub one e.b2
  let c1 := biasCorr e.biascorr e.b1 t
  let c2 := biasCorr e.biascorr e.b2 t
  let m1 := f32Fma e.b1 m (f32Mul one1 u)
  let v1 := f32Fma e.b2 v (f32Mul one2 (f32Mul u u))
  match e.recipe with
  | 0 => let n := f32Fma e.b1 m u; { d := if e.nesterov then f32Fma e.b1 n u else n, m := n, v := v }
  | 1 => { d := f32Div (f32Div m1 c1) (f32Add (f32Sqrt (f32Div v1 c2)) e.eps), m := m1, v := v1 }
  | 2 => { d := m1, m := m1, v := if e.precondV then v1 else v }
  | 3 => { d := 0, m := m, v := v }
  | _ =>
    let r := microRun prog [u, w, m, v, e.b1, e.b2, e.eps, c1, c2, one1, one2, 0, 0, 0, 0, 0]
    { d := r.getD 0 0, m := r.getD 2 0, v := r.getD 3 0 }

/-- The scaled update Δ′ of an element (R186 step 2). -/
def scaledUpdate (e : GranEntry) (w d : Word) : Word :=
  let a := f32Scale e.lr e.uexp
  f32Fma (f32Mul a e.wd) w (f32Mul a d)

/-- The new master: w_full − Δ′ · 2^(−k), rounded as R186 step 4 says. -/
def newMaster (pairM : Bool) (w : Pair) (delta : Word) (k : Int) : Pair :=
  let dd := (f32Val delta).dy
  let x := w.dy.add { m := -dd.m, e := dd.e - k }
  if x.m = 0 then { hi := if w.hi == 0x80000000 && b32.isZero w.lo.toNat && delta == 0 then 0x80000000 else 0, lo := 0 }
  else
    let h := f32OfDy x
    if pairM && f32Finite h && !b32.isZero h.toNat then
      let r := (f32Val h).dy
      { hi := h, lo := f32OfDy (x.add { m := -r.m, e := r.e }) }
    else { hi := h, lo := 0 }

/-- Unbiased exponent of a nonzero finite word, −127 at the least (R189). -/
def wordExp (w : Word) : Int := if b32.expField w.toNat = 0 then -127 else (b32.expField w.toNat : Int) - 127

/-- Exact values as a TB8 block with DERIVED scaling and nearest-even rounding (R40, R188), a sign with each. -/
def tb8OfParts (vs : List (Bool × Nat × Int)) : BlockOut :=
  let m := maxParts vs
  let x := derivedX false m
  let ts := if m.m = 0 then [0, 0, 0, 0] else (List.range 4).map fun g => derivedT false x (maxParts ((vs.drop (16 * g)).take 16))
  blkPut false [] false x ts vs

/-- Working-copy bytes of a block from its new masters, and whether the block overflowed; `old` the bytes in place, `keep` marks
elements left unchanged. In a TB8 block that is written anew a kept element keeps its stored value (R186, R188; log entry 95). -/
def workingBytes (fmt : Nat) (ms : List Pair) (keep : List Bool) (old : List Byte) : List Byte × Bool :=
  match fmt with
  | 4 => ((List.range ms.length).flatMap fun i =>
      if keep.getD i false then sliceBytes old (2 * i) 2
      else
        let p := ms.getD i {}
        let w := match f32Val p.hi with
          | .fin neg _ _ => let d := p.dy; (b16.round 0 (if d.m = 0 then neg else decide (d.m < 0)) d.m.natAbs d.e).1
          | _ => (convertFmt b32 b16 0 false p.hi.toNat).1
        leBytes 2 w, false)
  | 5 => ((List.range ms.length).flatMap fun i => if keep.getD i false then sliceBytes old (4 * i) 4 else leBytes 4 (ms.getD i {}).hi.toNat, false)
  | _ =>
    if keep.all id then (old, false)
    else
      let bad (i : Nat) : Bool := if keep.getD i false then old.getD 64 0 == 0xFF else !(ms.getD i {}).finite
      if (List.range ms.length).any bad then ((blkNonFinite ms.length).bytes, false)
      else
        let was := blkParts false old
        let out := tb8OfParts ((List.range ms.length).map fun i =>
          if keep.getD i false then was.getD i (false, 0, 0)
          else let p := ms.getD i {}; (b32.neg p.hi.toNat, p.dy.m.natAbs, p.dy.e))
        (out.bytes, out.sat)

/-- One element of an apply pass. -/
structure ApplyElem where
  master : Pair := {}
  m : Word := 0
  v : Word := 0
  delta : Word := 0
  kept : Bool := false
  lost : Bool := false
  deriving DecidableEq, Repr, Inhabited

def applyElem (e : GranEntry) (pairM : Bool) (prog : List Word) (t : Nat) (u : Word) (w : Pair) (m v : Word) : ApplyElem :=
  let r := recipeOut e prog t u w.hi m v
  let delta := scaledUpdate e w.hi r.d
  if !f32Finite delta then { master := w, m := m, v := v, delta := delta, kept := true }
  else
    let n := newMaster pairM w delta e.uexp
    { master := n, m := r.m, v := r.v, delta := delta, lost := !b32.isZero delta.toNat && n == w }

/-- Bytes of a region as a transaction sees it, and its writes. -/
def State.txnBytes (s : State) (c : Nat) (t : Txn) (reg off n : Nat) : List Byte := s.locBytes c (some t) (.region reg off) n
def State.txnPut (s : State) (c : Nat) (t : Txn) (reg off : Nat) (bs : List Byte) : State := s.locPut c (some t) (.region reg off) bs

/-- Adds a block's results to a granary's statistics of an object (R189). -/
def Granary.count (g : Granary) (o : Nat) (xs : List ApplyElem) : Granary :=
  let live := xs.filter fun x => !x.kept && !b32.isZero x.delta.toNat
  let top := live.foldl (fun (a : Int) x => max a (wordExp x.delta)) (tgetD g.emax o (-128))
  { g with emax := tset g.emax o top, lost := tadd g.lost o (xs.filter (·.lost)).length, nonfin := tadd g.nonfin o (xs.filter (·.kept)).length }

/-- One block of an apply pass, written to shadow pages. -/
def State.applyUnit (s : State) (c stack : Nat) (e : GranEntry) (tag j : Nat) : State :=
  match tget s.objects e.obj, s.txn? c tag with
  | some o, some t =>
    let d := o.decl
    let row := j / max 1 d.nb
    let col := 64 * (j % max 1 d.nb)
    let n := min 64 (d.cols - col)
    let mfmt := if d.pairMaster then 7 else 5
    let own := j - (s.ownedRange o).1
    let mAt := if d.shard = 0 then row * tensorPitch d.align mfmt d.cols + elemByte mfmt col else own * rowBytes mfmt 64
    let vAt := if d.shard = 0 then row * tensorPitch d.align 5 d.cols + 4 * col else own * 256
    let wAt := if d.shard = 2 then own * groupBytes d.wcFmt else row * tensorPitch d.align d.wcFmt d.cols + elemByte d.wcFmt col
    let mb := s.txnBytes c t d.master mAt (rowBytes mfmt n)
    let master (i : Nat) : Pair := if d.pairMaster then pairOfBytes (sliceBytes mb (8 * i) 8) else pairOf (leWord mb (4 * i))
    let m1 := if d.hasM then s.txnBytes c t d.mReg vAt (4 * n) else []
    let v1 := if d.hasV then s.txnBytes c t d.vReg vAt (4 * n) else []
    let us := s.updateInputs o e.recipe j
    let prog := tgetD (s.ctxD c).recipes e.slot []
    let xs := (List.range n).map fun i => applyElem e d.pairMaster prog (o.updates + 1) (us.getD i 0) (master i) (leWord m1 (4 * i)) (leWord v1 (4 * i))
    let old := s.txnBytes c t d.wc wAt (groupBytes d.wcFmt)
    let s := s.txnPut c t d.master mAt (xs.flatMap fun x => if d.pairMaster then pairBytes x.master else leBytes 4 x.master.hi.toNat)
    let s := if d.hasM then s.txnPut c t d.mReg vAt (xs.flatMap fun x => leBytes 4 x.m.toNat) else s
    let s := if d.hasV then s.txnPut c t d.vReg vAt (xs.flatMap fun x => leBytes 4 x.v.toNat) else s
    let w := workingBytes d.wcFmt (xs.map (·.master)) (xs.map (·.kept)) old
    let s := s.txnPut c t d.wc wAt w.1
    let s := if d.wcFmt = 8 then s.putMapBit c d.wcMap j w.2 else s
    s.modGranary stack fun g => g.count e.obj xs
  | _, _ => s

/-! ### The norm pass (R193) -/

/-- Recipe of an object in the step's list. -/
def State.recipeOf (s : State) (obj : Nat) : Nat :=
  match s.gran.bind fun g => g.entries.find? fun e => e.obj == obj with | some e => e.recipe | none => 0

/-- One unit of a norm pass: a block's squares, or for a PRECOND object its partial of q times g². -/
def State.normUnit (s : State) (obj stack j : Nat) : State :=
  match tget s.objects obj with
  | none => s
  | some o =>
    if s.recipeOf obj = 2 then
      let gg := pairMul (pairOf o.graft) (pairOf o.graft)
      s.modGranary stack fun g => { g with acc := pairAdd g.acc (pairMul gg (tgetD o.qs stack {})) }
    else
      let us := s.updateInputs o (s.recipeOf obj) j
      s.modGranary stack fun g => { g with acc := us.foldl (fun a u => pairAdd a (pairMul (pairOf u) (pairOf u))) g.acc }

/-! ### Work items (R181, R182) -/

/-- Blocks of 64 elements in a chunk. -/
def chunkBlocks : Nat := 1024

/-- Effect of some units of an item. -/
def State.workUnits (s : State) (stack : Nat) (i : Item) (units : List Nat) : State :=
  match i.work with
  | .fold obj g => units.foldl (fun s j => s.foldUnit obj g j) s
  | .element stage =>
    match s.run? i.ctx i.seq with
    | none => s
    | some r =>
      match (s.planOf r.ctx r.slot).bind fun pl => pl.body.stage? stage with
      | none => s
      | some d => units.foldl (fun s u => s.elementUnit r d stack u) s
  | .normPass obj => units.foldl (fun s j => s.normUnit obj stack j) s
  | .apply e tag => units.foldl (fun s j => s.applyUnit i.ctx stack e tag j) s
  | _ => s

/-- The GRAN_STEP in progress ends with a status (R199). -/
def State.granEnd (s : State) (status detail : Nat) (result : Word) : State :=
  match s.gran with
  | none => s
  | some g =>
    match g.active with
    | none => s
    | some (seq, _, _, _, _) =>
      let s := { s with gran := some { g with active := none } }
      (s.finishSeq g.ctx seq status detail result).recipesSettle g.ctx

/-- The apply passes of the GRAN_STEP in progress have ended: its transaction holds the new state (R187, R196). -/
def State.applyDone (s : State) (c : Nat) (seq : Word) : State :=
  let left := s.granaries.any fun e => e.2.items.any fun i => i.ctx == c && i.seq == seq && match i.work with | .apply _ _ => true | _ => false
  match s.gran with
  | none => s
  | some g =>
    match g.active with
    | none => s
    | some (q, tag, op, _, _) =>
      if left || q != seq || g.ctx != c then s
      else
        let counts := g.listed.map fun o => (o, match tget s.objects o with | some x => x.updates + 1 | none => 1)
        let s := match s.txn? c tag with
          | some t => s.setTxn { t with lastApply := g.lastSlice, counts := counts.foldl (fun (m : Table Nat) (e : Nat × Nat) => tset m e.1 e.2) t.counts }
          | none => s
        s.granEnd stDone 0 (if op = 0 then g.norm.getD 0 else BitVec.ofNat 32 g.listed.length)

/-- What the last chunk of an item in one granary brings about. -/
def State.workDone (s : State) (i : Item) : State :=
  match i.work with
  | .fold obj g => if s.itemLeft i.work i.ctx i.seq then s else s.foldDone obj g
  | .decay d => s.decayDone d
  | .rootForm g => s.rootFormDone g
  | .rootResult g => s.rootResultDone g
  | .install n => (s.installDone n).installNext
  | .apply _ _ => s.applyDone i.ctx i.seq
  | _ => s

/-! ### Traffic of the granaries (R268, R269, R328) -/

/-- A part of memory that a unit of work reads or writes: whether it writes, the region, the first byte and the length. -/
structure Span where
  write : Bool := false
  region : Nat := 0
  off : Nat := 0
  len : Nat := 0
  deriving DecidableEq, Repr

/-- The part of the gradient that is block j of an object. -/
def gradSpan (d : ObjectDecl) (write : Bool) (j : Nat) : Span := { write := write, region := d.grad, off := d.blockByte j, len := 66 }

/-- The part of a tensor in rows like the object's that belongs to block j. -/
def rowSpan (d : ObjectDecl) (write : Bool) (reg fmt j : Nat) : Span :=
  let n := min 64 (d.cols - 64 * (j % max 1 d.nb))
  { write := write, region := reg, off := j / max 1 d.nb * tensorPitch d.align fmt d.cols + elemByte fmt (64 * (j % max 1 d.nb)),
    len := if isBlock fmt then 66 else rowBytes fmt n }

/-- Parts a unit of a work item touches. -/
def State.unitSpans (s : State) (i : Item) (u : Nat) : List Span :=
  let objD (o : Nat) : ObjectDecl := match tget s.objects o with | some x => x.decl | none => default
  match i.work with
  | .fold obj g =>
    let d := objD obj
    [{ region := d.staging, off := g.slot * d.gradBytes + d.blockByte u, len := 66 }, gradSpan d false u, rowSpan d false d.err 4 u,
     gradSpan d true u, rowSpan d true d.err 4 u]
  | .normPass obj => [gradSpan (objD obj) false u]
  | .apply e _ =>
    let d := objD e.obj
    let m := if d.pairMaster then 7 else 5
    let both (reg fmt : Nat) : List Span := [rowSpan d false reg fmt u, rowSpan d true reg fmt u]
    gradSpan d false u :: both d.master m ++ (if d.hasM then both d.mReg 5 else []) ++ (if d.hasV then both d.vReg 5 else []) ++
      [rowSpan d true d.wc d.wcFmt u]
  | .decay d =>
    let b := tgetD s.blocks d.block {}
    [false, true].map fun w => { write := w, region := (s.statOf b).decl.region, off := b.offset + 512 * u, len := 512 }
  | .install n =>
    let b := tgetD s.blocks n {}
    [{ region := (s.scratchD b).region, off := (s.scratchD b).result + 640 * u, len := 640 },
     { write := true, region := (s.statOf b).decl.roots, off := b.rootAt + 640 * u, len := 640 }]
  | .rootForm g =>
    let r := tgetD s.curv.current g {}
    let k := s.scratchD (tgetD s.blocks r.block {})
    [{ region := k.region, off := r.place + 512 * u, len := 512 }, { write := true, region := k.region, off := k.work + 512 * u, len := 512 }]
  | .rootResult g =>
    let r := tgetD s.curv.current g {}
    let k := s.scratchD (tgetD s.blocks r.block {})
    [{ region := k.region, off := k.work + 512 * u, len := 512 }, { write := true, region := k.region, off := slotAt k r.slot + 640 * u, len := 640 }]
  | .element stage =>
    match s.run? i.ctx i.seq with
    | none => []
    | some r =>
      match (s.planOf r.ctx r.slot).bind fun pl => pl.body.stage? stage with
      | none => []
      | some d =>
        let at_ (write : Bool) (reg pitch fmt nb : Nat) : Span :=
          { write := write, region := reg, off := s.placeBase r reg + u / nb * pitch + elemByte fmt (64 * (u % nb)), len := groupBytes fmt }
        match d.kind with
        | .array => []
        | .element _ ins out _ cols =>
          let nb := max 1 ((cols + 63) / 64)
          (ins.filter fun o => o.along == 0).map (fun o => at_ false o.region (tensorPitch o.align o.fmt cols) o.fmt nb) ++
            [at_ true out.region (tensorPitch out.align out.fmt cols) out.fmt nb]
        | .expand obj scratch _ =>
          let o := objD obj
          let nb := max 1 o.nb
          [{ region := o.wc, off := u / nb * ((33 * nb + 63) / 64 * 64) + 33 * (u % nb), len := 33 }, at_ true scratch (blockPitch o.cols) 8 nb]

/-- Parts that follow one another, joined. -/
def joinSpans : List Span → List Span
  | [] => []
  | x :: xs => match joinSpans xs with
    | y :: ys => if x.write = y.write ∧ x.region = y.region ∧ y.off = x.off + x.len then { x with len := x.len + y.len } :: ys else x :: y :: ys
    | [] => [x]

/-- The transactions of a chunk's units: each of at most 512 bytes inside one granule (R268). The requests of a granary are numbered after the
die arrays. -/
def State.chunkRequests (s : State) (stack : Nat) (i : Item) (units : List Nat) : List MemReq :=
  let all := units.map (s.unitSpans i)
  let kinds := (all.headD []).length
  ((List.range kinds).flatMap fun k => joinSpans (all.filterMap fun l => l[k]?)).flatMap fun sp =>
    match s.region? i.ctx sp.region with
    | none => []
    | some r => (pieces (sp.len / 64 + 3) sp.off sp.len).map fun p =>
        let ch := match r.addrBy r.pages p.1 with | some ad => ad / stackSize * 32 + ad % stackSize / pageSize / 1024 | none => 0
        { ctx := i.ctx, weir := if sp.write then 1 else 0, chan := ch, bytes := Sys2Proof.Machine.txnBytes p.1 p.2, array := 96 + stack, inbound := !sp.write }

/-! ### Chunks (R182) -/

/-- Whether an item may go on: a decay pass waits for GRAM stages on its statistic that are under way, an element stage for the bank of its
histogram (R140, R226). -/
def State.itemReady (s : State) (i : Item) : Bool :=
  match i.work with
  | .decay d =>
    let b := tgetD s.blocks d.block {}
    !(s.runs.any fun r => match s.planOf r.ctx r.slot with
      | some pl => pl.body.stages.any fun t => t.grams.contains (b.obj, b.side) && r.started.contains t.num && !r.finished.contains t.num
      | none => false)
  | .element _ => match s.run? i.ctx i.seq with
    | some r => !s.histWaits i.ctx r.step
    | none => true
  | _ => true

/-- The item a granary takes its next chunk from: of the highest context priority, the one that arrived first among equals. It takes none while
transactions of its last chunk wait for weirs or places (R182, R269, R328). -/
def State.granaryPick (s : State) (stack : Nat) : Option Item :=
  if (s.held ++ s.asking).any fun m => m.array == 96 + stack then none
  else firstMin (fun i => s.prio i.ctx) ((s.granary stack).items.filter s.itemReady)

/-- The granary's queue after a chunk of an item. -/
def Granary.took (g : Granary) (i : Item) : Granary :=
  let left := i.todo.drop chunkBlocks
  if left.isEmpty then { g with items := g.items.erase i } else { g with items := g.items.replace i { i with todo := left } }

/-- GRANARY_CHUNK: at a chunk boundary a granary takes the next chunk; its transactions meet the weirs (R182, R328). -/
def execGranaryChunk (stack : Nat) (s : State) : Host.Outcome State Fault Refusal :=
  if 12 ≤ stack then .fault .noSuchUnit
  else
    match s.granaryPick stack with
    | none => .next s
    | some i =>
      let units := i.todo.take chunkBlocks
      let s := (s.chunkRequests stack i units).foldl (fun s m => s.weirEnter m) (s.workUnits stack i units)
      let s := s.modGranary stack fun g => g.took i
      .next (if (i.todo.drop chunkBlocks).isEmpty then s.workDone i else s)

end Sys2Proof.Machine
end

