-- ==== Sys2Proof/Machine/Root.lean ====
section
/-! DEFINITION. ROOT_REFRESH, PRECOND_CFG, and the preconditioning of an object by its installed roots (R163, R169–R178, R345). -/

namespace Sys2Proof.Machine

/-! ### ROOT_REFRESH (R174, R175) -/

def dStatUnknown : Nat := 0x0403

/-- Blocks of a statistic by number, in increasing index. -/
def State.blocksOf (s : State) (obj side : Nat) : List Nat := (s.blocks.filter fun e => e.2.obj == obj && e.2.side == side).map (·.1)

/-- Whether an object is a trained object of a context with a statistic. -/
def State.hasStats (s : State) (c o : Nat) : Bool :=
  match tget s.objects o with
  | some x => x.ctx == c && !x.decl.frozen && ((tget s.stats (statKey o 0)).isSome || (tget s.stats (statKey o 1)).isSome)
  | none => false

/-- Blocks a request covers. -/
def State.requestTargets (s : State) (c : Nat) (d : Desc) : List Nat :=
  let o := d.f 2 0 16
  match d.f 2 17 2 with
  | 0 => (s.blocks.filter fun e => e.2.obj == o && e.2.side == d.f 2 16 1 && e.2.q == d.f 3 0 12).map (·.1)
  | 1 => s.blocksOf o (d.f 2 16 1)
  | 2 => s.blocksOf o 0 ++ s.blocksOf o 1
  | _ => (s.blocks.filter fun e => s.objCtx e.2.obj == c).map (·.1)

def State.checkRootRefresh (s : State) (c : Nat) (d : Desc) : Checks :=
  let o := d.f 2 0 16
  let scope := d.f 2 17 2
  { fmt := firstBad [
      (reservedSet d [0x7FFFF, 0xFFF], dReserved), ((s.ctxD c).kind != .train, dStatUnknown),
      (scope != 3 && !s.hasStats c o, dStatUnknown),
      (decide (scope ≤ 1) && (tget s.stats (statKey o (d.f 2 16 1))).isNone, dStatUnknown)]
    lim := firstBad [
      (scope == 0 && (match tget s.stats (statKey o (d.f 2 16 1)) with
        | some t => decide (t.decl.blocks ≤ d.f 3 0 12)
        | none => false), 0x0406)] }

/-- The request takes effect, at once or at its transaction's commit. -/
def State.doRootRefresh (s : State) (c : Nat) (d : Desc) : State :=
  let v := s.curv
  let q : RootRequest := { ctx := c, seq := d.seq, waiting := s.requestTargets c d }
  ({ s with curv := { v with requests := v.requests ++ [q] } } : State).requestsSettle

def State.startRootRefresh (s : State) (c : Nat) (d : Desc) : State := s.deferOr c d fun s => s.doRootRefresh c d

/-! ### PRECOND_CFG (R176–R178) -/

/-- Objects a PRECOND_CFG names. -/
def State.precondTargets (s : State) (c : Nat) (d : Desc) : List Nat :=
  if d.f 2 16 1 = 1 then (s.objects.filter fun e => e.2.ctx == c && !e.2.decl.frozen).map (·.1) else [d.f 2 0 16]

/-- A value that is finite and not negative. -/
def f32NonNeg (w : Word) : Bool := f32Finite w && f32Le 0 w

def State.checkPrecondCfg (s : State) (c : Nat) (d : Desc) : Checks :=
  let v (k : Nat) := d.f 3 k 1 == 1
  { fmt := firstBad [
      (reservedSet d [0x1FFFF, 0x1FF, 0x7F, full, full, full, full], dReserved),
      ((s.ctxD c).kind != .train, dStatUnknown),
      (d.f 2 16 1 == 0 && (match tget s.objects (d.f 2 0 16) with | some o => o.ctx != c || o.decl.frozen | none => true), dStatUnknown)]
    lim := firstBad [
      ((v 1 && !f32NonNeg d.w5) || (v 2 && !f32NonNeg d.w6) || (v 6 && !f32NonNeg d.w7) || (v 5 && d.f 4 4 2 == 3) ||
        (v 8 && !(f32NonNeg d.w8 && f32Le d.w8 0x3D800000)), 0x0407)] }

/-- The valid fields of a PRECOND_CFG applied to parameters. -/
def Precond.configured (d : Desc) (p : Precond) : Precond :=
  let v (k : Nat) : Bool := d.f 3 k 1 == 1
  { p with p := if v 0 then d.f 4 0 2 else p.p, alpha := if v 1 then d.w5 else p.alpha, lambdaMin := if v 2 then d.w6 else p.lambdaMin,
           both := if v 3 then d.f 4 2 1 == 1 else p.both, single := if v 4 then d.f 4 3 1 == 1 else p.single,
           graft := if v 5 then d.f 4 4 2 else p.graft, graftEps := if v 6 then d.w7 else p.graftEps,
           stoch := if v 7 then d.f 4 6 1 == 1 else p.stoch, tol := if v 8 then d.w8 else p.tol }

def State.doPrecondCfg (s : State) (c : Nat) (d : Desc) : State :=
  (s.precondTargets c d).foldl (fun s o => s.modObj o fun x => { x with precondDue := some ((x.precondDue.getD x.precond).configured d) }) s

def State.startPrecondCfg (s : State) (c : Nat) (d : Desc) : State := (s.deferOr c d fun s => s.doPrecondCfg c d).finish c d stDone 0 0

/-! ### Preconditioning (R169–R173) -/

/-- Exponent of the binary16 copy of block q of a side, where the block has roots: the device's own, or those another member of the cut
owns (R163, R345). -/
def State.rootExp (s : State) (obj side q : Nat) : Option Int :=
  match s.blocks.find? fun e => e.2.obj == obj && e.2.side == side && e.2.q == q with
  | some e => if e.2.hasRoots then some e.2.exp16 else none
  | none => (tget s.stats (statKey obj side)).bind fun t => (tget t.remote q).map (·.exp16)

/-- Block size of a side; 0 when the object has no such statistic. -/
def State.sideBlock (s : State) (obj side : Nat) : Nat :=
  match tget s.stats (statKey obj side) with | some t => t.decl.blockSize | none => 0

/-- A block's inverse root as a product reads it from root memory: the first index of the block, its size and real size, the exponent of
the binary16 copy, and the bytes, those of the copy or of the binary32 root (R160, R170). -/
structure RootView where
  lo : Nat := 0
  size : Nat := 0
  real : Nat := 0
  exp16 : Int := 0
  single : Bool := false
  bytes : List Byte := []
  deriving DecidableEq, Repr, Inhabited

/-- Element (i, j) of the inverse root. -/
def RootView.elem (r : RootView) (i j : Nat) : Elem :=
  if r.single then .f32 (leWord r.bytes (4 * (r.size * i + j)))
  else .f16 (BitVec.ofNat 16 (leNat (sliceBytes r.bytes (2 * (r.size * i + j)) 2)))

/-- The roots that the blocks of a side have, by block. -/
def State.sideRoots (s : State) (obj side : Nat) (single : Bool) : List (Option RootView) :=
  match tget s.stats (statKey obj side) with
  | none => []
  | some t =>
    let b := t.decl.blockSize
    (List.range t.decl.blocks).map fun q => (s.rootExp obj side q).map fun e =>
      { lo := q * b, size := b, real := t.decl.real q, exp16 := e, single := single,
        bytes := s.rootBytesAt t (q * rootBytes b) (if single then 0 else copyAt b) (if single then 4 * b * b else 2 * b * b) }

/-- The root that acts on index i of a side. -/
def rootFor (rs : List (Option RootView)) (size i : Nat) : Option RootView := if size = 0 then none else rs.getD (i / size) none

/-- The roots that act on both sides of an object, each with its block size. -/
structure SideRoots where
  a : List (Option RootView) := []
  g : List (Option RootView) := []
  aSize : Nat := 0
  gSize : Nat := 0
  deriving DecidableEq, Repr, Inhabited

def SideRoots.atA (k : SideRoots) (i : Nat) : Option RootView := rootFor k.a k.aSize i
def SideRoots.atG (k : SideRoots) (j : Nat) : Option RootView := rootFor k.g k.gSize j

def State.rootsFor (s : State) (o : Obj) : SideRoots :=
  let n := o.decl.num
  { a := s.sideRoots n 0 o.precond.single, g := s.sideRoots n 1 o.precond.single, aSize := s.sideBlock n 0, gSize := s.sideBlock n 1 }

/-- A FAST product chain from +0. -/
def fastChain (xs : List (Elem × Elem)) : Word := fastDot xs.length 0 (xs.map fun p => (fastVal p.1, fastVal p.2))

/-- The first product along a gradient row: element i of T for the row's values (R170). -/
def SideRoots.firstProduct (k : SideRoots) (single : Bool) (row : List Word) (i : Nat) : Word :=
  match k.atA i with
  | none => row.getD i 0
  | some r => fastChain ((List.range r.real).map fun n =>
      (r.elem (i - r.lo) n, if single then .f32 (row.getD (r.lo + n) 0) else .blk (row.getD (r.lo + n) 0)))

/-- T for input i over the outputs, as the second product reads it: drained to TB8W along the outputs under HALF (log entry 27). -/
def SideRoots.intermediate (k : SideRoots) (single : Bool) (i : Nat) (col : List Word) : List Elem :=
  if single then col.map .f32
  else if (k.atA i).isNone then col.map .blk
  else ((List.range ((col.length + 63) / 64)).flatMap fun g => (blkDerive true [] false ((col.drop (64 * g)).take 64)).words).map .blk

/-- The second product: element (i, j) of P from T's values for input i over the outputs. -/
def SideRoots.secondProduct (k : SideRoots) (t : List Elem) (j : Nat) : Word :=
  match k.atG j with
  | none => toB32 (t.getD j (.f32 0))
  | some r => fastChain ((List.range r.real).map fun n => (t.getD (r.lo + n) (.f32 0), r.elem n (j - r.lo)))

/-- A drained block with the exponents of the copies subtracted, and whether it was flushed (R171). -/
def shiftExponent (bs : List Byte) (e : Int) : List Byte × Bool :=
  let x := (bs.getD 64 0).toNat
  if x = 0xFF then (bs, false)
  else
    let n : Int := x - e
    if n < 0 then (List.replicate 66 0, true)
    else if 254 < n then (List.replicate 64 0 ++ [0xFF, 0], false)
    else (bs.set 64 (BitVec.ofNat 8 n.toNat), false)

/-- What preconditioning writes for a block, and its flags: bytes, overflow, flushed. -/
structure PrecondBlock where
  bytes : List Byte := []
  sat : Bool := false
  flushed : Bool := false
  deriving DecidableEq, Repr, Inhabited

/-- Block j of P; none where neither side has roots, so that the gradient stays as it is (R163). -/
def precondBlock (o : Obj) (k : SideRoots) (step j : Nat) (p : List Word) : Option PrecondBlock :=
  let d := o.decl
  let row := j / max 1 d.nb
  let col := 64 * (j % max 1 d.nb)
  let a := k.atA col
  let g := k.atG row
  if a.isNone && g.isNone then none
  else
    let seed : DWord := BitVec.ofNat 64 (Config.freeNat 30 [step])
    let draws := if o.precond.stoch then (List.range p.length).map fun i => draw seed d.outStream step (row * d.cols + col + i) else []
    let out := blkDerive true draws o.precond.stoch p
    let exp (r : Option RootView) : Int := match r with | some x => x.exp16 | none => 0
    let sh := if o.precond.single then (out.bytes, false) else shiftExponent out.bytes (exp a + exp g)
    some { bytes := sh.1, sat := out.sat, flushed := sh.2 }

/-- Sum of squares of some blocks' values in each stack, in increasing block index (R172). -/
def State.stackSums (s : State) (o : Obj) (blocks : List Nat) (vals : Nat → List Word) : Table Pair :=
  blocks.foldl (fun t j =>
    let st := s.objStack o j
    tset t st ((vals j).foldl (fun a w => pairMac a (pairOf w) (pairOf w)) (tgetD t st {}))) []

/-- Partials combined in increasing stack number. -/
def combine : List Pair → Pair
  | [] => {}
  | p :: ps => ps.foldl pairAdd p

/-- Whether RMS grafting has a second moment to read: the object's recipe keeps one (R172, R187). -/
def State.keepsV (s : State) (o : Obj) : Bool :=
  o.decl.hasV && (match s.gran.bind fun g => g.entries.find? fun e => e.obj == o.decl.num with
    | some e => e.recipe == 1 || e.recipe == 4 || (e.recipe == 2 && e.precondV)
    | none => false)

/-- Values of which r sums the squares. -/
def State.referenceValues (s : State) (o : Obj) (rms : Bool) (j : Nat) : List Word :=
  let g := s.gradBlock o j
  if !rms then g
  else
    let d := o.decl
    let own := s.ownedRange o
    let at_ := if d.shard = 0 then j / max 1 d.nb * tensorPitch d.align 5 d.cols + 256 * (j % max 1 d.nb) else (j - own.1) * 256
    let v := s.regionBytes o.ctx d.vReg at_ (4 * g.length)
    (List.range g.length).map fun i => f32Div (g.getD i 0) (f32Add (f32Sqrt (leWord v (4 * i))) o.precond.graftEps)

/-- The grafting scale from the whole sums (R172). -/
def graftScale (graft : Nat) (r q : Pair) : Word :=
  if graft = 0 then 0x3F800000
  else if !r.finite || !q.finite then f32Nan
  else if pairZero q then 0
  else f32Sqrt (f32Div r.hi q.hi)

/-- The grafting scale and the record of an object (R172, R173). -/
def State.precondDone (s : State) (obj step flags : Nat) (r q : Pair) : State :=
  match tget s.objects obj with
  | none => s
  | some o =>
    let g := graftScale o.precond.graft r q
    let s := s.modObj obj fun x => { x with graft := g, preconditioned := true }
    let w3 := flags + if pairZero q then 8 else 0
    match s.firstPlan o.ctx with
    | some pl => s.putWords o.ctx pl.statsRegion (131072 + 16 * obj) [BitVec.ofNat 32 step, g, f32Sqrt r.hi, BitVec.ofNat 32 w3]
    | none => s

/-- Whether some block of a side has no roots. -/
def sideIdent (rs : List (Option RootView)) : Bool := rs.any fun r => r.isNone

/-- The preconditioning of one object: P, the sums r and q, the grafting scale. P lies over the gradient of an object whose recipe is
PRECOND; the update of any other reads its sealed gradient (R170, R186; log entry 66). -/
def State.precondition (s : State) (o : Obj) (step : Nat) : State :=
  let d := o.decl
  let all := List.range d.gradBlocks
  let single := o.precond.single
  let k := s.rootsFor o
  let dw := (List.range d.rows).map fun row => ((List.range d.nb).flatMap fun g => s.gradBlock o (row * d.nb + g))
  let rms := o.precond.graft == 2 && s.keepsV o
  let own := s.ownedRange o
  let mine := (List.range own.2).map (own.1 + ·)
  let r := combine ((s.stackSums o mine (s.referenceValues o rms)).map (·.2))
  let t := dw.map fun row => (List.range d.cols).map (k.firstProduct single row)
  let mid := (List.range d.cols).map fun i => k.intermediate single i (t.map fun row => row.getD i 0)
  let outs := all.map fun j => (j, precondBlock o k step j ((List.range (min 64 (d.cols - 64 * (j % max 1 d.nb)))).map fun n =>
    k.secondProduct (mid.getD (64 * (j % max 1 d.nb) + n) []) (j / max 1 d.nb)))
  let s := if s.recipeOf d.num ≠ 2 then s else
    outs.foldl (fun s e => match e.2 with
      | none => s
      | some b =>
        let s := s.regionPut o.ctx d.grad (d.blockByte e.1) b.bytes
        if b.sat then s.setMapBit o.ctx d.gradMap e.1 else s) s
  let vals (j : Nat) : List Word := match (outs.find? fun e => e.1 == j).bind (·.2) with
    | some b => (blkExpandAll true b.bytes).take (min 64 (d.cols - 64 * (j % max 1 d.nb)))
    | none => s.gradBlock o j
  let qs := s.stackSums o mine vals
  let bad := mine.any fun j => (vals j).any fun w => !f32Finite w
  let flags := (if sideIdent k.a then 1 else 0) + (if sideIdent k.g then 2 else 0) +
    (if o.precond.graft == 2 && !rms then 4 else 0) + (if outs.any fun e => match e.2 with | some b => b.flushed | none => false then 16 else 0) +
    (if bad then 32 else 0)
  let q := combine (qs.map (·.2))
  let s := s.modObj d.num fun x => { x with qs := qs }
  if d.shard ≠ 0 ∧ s.inCut d.shardCut then
    s.exchange o.ctx 0 6 (BitVec.ofNat 32 step) d.num flags d.shardCut (pairBytes r ++ pairBytes q)
  else s.precondDone d.num step flags r q

/-- Trained objects of the plans of a context that have statistics, in the order of the routing section (R169). -/
def State.precondOrder (s : State) (c : Nat) : List Nat :=
  (((s.ctxD c).plans.filter fun e => !e.2.body.stats.isEmpty).flatMap fun e => e.2.body.objects.map (·.num)).eraseDups.filter fun o =>
    match tget s.objects o with
    | some x => x.ctx == c && !x.decl.frozen
    | none => false

end Sys2Proof.Machine
end

