-- ==== Sys2Proof/Machine/GranStep.lean ====
section
/-! DEFINITION. GRAN_STEP and GRAN_PROG: their checks, the phases of an update, the norm check, and the preconditioning
command (R192–R203, R169). -/

namespace Sys2Proof.Machine

def dGranProg : Nat := 0x0502
def dGranNoTxn : Nat := 0x0503
def dGranInTxn : Nat := 0x0504
def dGranRecipe : Nat := 0x0505
def dGranList : Nat := 0x0506
def dGranParam : Nat := 0x0507
def dGranStepOrder : Nat := 0x0508
def dGranNotDecided : Nat := 0x0509
def dGranBusy : Nat := 0x050A
def dGranTxnDup : Nat := 0x050B
def dNormNonfinite : Nat := 0x050C
def dNormBound : Nat := 0x050D

/-! ### Operands (R195) -/

def granStepNo (d : Desc) : Nat := d.w 2 + 2 ^ 32 * d.f 3 0 8
def granOp (d : Desc) : Nat := d.f 3 8 2
def granCount (d : Desc) : Nat := d.f 7 0 16

/-- A list entry from its 32 bytes. -/
def granEntryOf (bs : List Byte) : GranEntry :=
  let w0 := (leWord bs 0).toNat
  { obj := bitsOf w0 0 16, recipe := bitsOf w0 16 4, slot := bitsOf w0 20 4, nesterov := bitsOf w0 24 1 == 1,
    biascorr := bitsOf w0 25 1 == 1, precondV := bitsOf w0 26 1 == 1, lr := leWord bs 4, wd := leWord bs 8, b1 := leWord bs 12,
    b2 := leWord bs 16, eps := leWord bs 20, uexp := signedOf 8 (bitsOf (leWord bs 24).toNat 0 8) }

/-- Whether reserved bits of an entry are set. -/
def granEntryReserved (bs : List Byte) : Bool :=
  bitsOf (leWord bs 0).toNat 27 5 != 0 || bitsOf (leWord bs 24).toNat 8 24 != 0 || leWord bs 28 != 0

/-- Whether the list lies within its region of the context. -/
def State.granListOk (s : State) (c : Nat) (d : Desc) : Bool :=
  (tget (s.ctxD c).regions (d.f 4 0 8)).isSome && decide (d.w64 5 + 32 * granCount d ≤ s.regionLen c (d.f 4 0 8))

/-- The entries' bytes. -/
def State.granBytes (s : State) (c : Nat) (d : Desc) : List (List Byte) :=
  (List.range (granCount d)).map fun i => s.regionBytes c (d.f 4 0 8) (d.w64 5 + 32 * i) 32

def State.granEntries (s : State) (c : Nat) (d : Desc) : List GranEntry := (s.granBytes c d).map granEntryOf

/-! ### Checks (R196, R199) -/

/-- Trained objects of a context. -/
def State.trainedObjs (s : State) (c : Nat) : List Nat := (s.objects.filter fun e => e.2.ctx == c && !e.2.decl.frozen).map (·.1)

/-- A context's object by number. -/
def State.objOf (s : State) (c n : Nat) : Option Obj := (tget s.objects n).bind fun o => if o.ctx = c then some o else none

/-- Whether an entry breaks GRAN_RECIPE. -/
def State.recipeBad (s : State) (c : Nat) (e : GranEntry) : Bool :=
  let m := match s.objOf c e.obj with | some o => o.decl.hasM | none => true
  let v := match s.objOf c e.obj with | some o => o.decl.hasV | none => true
  match e.recipe with
  | 0 => !m
  | 1 => !(m && v)
  | 2 => !m || (e.precondV && !v) || !s.hasStats c e.obj
  | 3 => false
  | 4 => (tget (s.ctxD c).recipes e.slot).isNone && !((s.ctxD c).recipeLoads.any fun l => l.2.1 == e.slot)
  | _ => true

/-- Whether an entry breaks GRAN_PARAM. -/
def paramBad (e : GranEntry) : Bool :=
  let normal := match f32Val e.lr with
    | .fin _ m x => m != 0 && decide (-126 ≤ (Nat.log2 m : Int) + x + e.uexp) && decide ((Nat.log2 m : Int) + x + e.uexp ≤ 127)
    | _ => false
  !f32NonNeg e.lr || !f32NonNeg e.wd || !f32NonNeg e.eps || !f32Unit e.b1 || !f32Unit e.b2 ||
    decide (e.uexp < -64) || decide (63 < e.uexp) || !normal

/-- Whether an object's buffer belongs to no other step. -/
def bufMatches (o : Obj) (step : Nat) : Bool :=
  match o.buf with
  | .released => true
  | .openFor m => m == step
  | .sealedFor m => m == step

def bufSealed (o : Obj) (step : Nat) : Bool := o.buf == .sealedFor step

/-- The GRAN_STEP record of a context for a step, if that step is the one sealed last. -/
def State.granOf (s : State) (c step : Nat) : Option GranStep := s.gran.bind fun g => if g.ctx = c ∧ g.step = step then some g else none

/-- Objects of a step still to be applied: their buffers are sealed for it and no open transaction applies them. -/
def State.granRest (s : State) (c step : Nat) : List Nat :=
  let applying := match s.granOf c step with | some g => g.applying | none => []
  (s.trainedObjs c).filter fun n => (match s.objOf c n with | some o => bufSealed o step | none => false) && !applying.contains n

/-- Whether the list breaks R196. -/
def State.granListBad (s : State) (c : Nat) (d : Desc) (es : List GranEntry) : Bool :=
  let objs := es.map (·.obj)
  let trained := s.trainedObjs c
  let step := granStepNo d
  decide (objs.eraseDups.length < objs.length) || !objs.all trained.contains ||
    (decide (granOp d ≤ 1) && !trained.all objs.contains) ||
    (granOp d == 2 && match s.granOf c step with
      | none => false
      | some g =>
        let rest := s.granRest c step
        g.passed && (!objs.all rest.contains || (d.f 3 10 1 == 1 && !rest.all objs.contains) ||
          es.any fun e => (g.entries.find? fun x => x.obj == e.obj).map (·.recipe) != some e.recipe))

/-- Whether the step is not the one the operation needs (GRAN_STEP_ORDER). -/
def State.granOrderBad (s : State) (c : Nat) (d : Desc) (es : List GranEntry) : Bool :=
  let step := granStepNo d
  let bufs (p : Obj → Bool) : Bool := es.all fun e => match s.objOf c e.obj with | some o => p o | none => true
  match granOp d with
  | 2 => !bufs fun o => bufMatches o step
  | 3 => match s.granOf c step with | some g => !g.committed.isEmpty | none => true
  | _ =>
    if s.isSealed c step then (s.granOf c step).isNone || !bufs fun o => bufSealed o step
    else !bufs fun o => bufMatches o step && !bufSealed o step

def State.checkGranStep (s : State) (c : Nat) (d : Desc) : Checks :=
  let op := granOp d
  let listed := granCount d != 0
  let readable := s.granListOk c d
  let es := if listed && readable then s.granEntries c d else []
  { fmt := firstBad [
      (badFor0 c d || (s.ctxD c).kind != .train, dCtxKind),
      (reservedSet d [full, 0xFFF, 0xFF, full, full, 0xFFFF, full], dReserved), (d.w64 5 % 32 != 0, dAlign),
      ((op == 0 || op == 2) && !d.inTxn, dGranNoTxn), ((op == 1 || op == 3) && d.inTxn, dGranInTxn),
      (op != 3 && listed && readable && (s.granBytes c d).any granEntryReserved, dReserved),
      (es.any fun e => match s.objOf c e.obj with | some o => o.decl.frozen | none => false, 0x0305),
      (op != 3 && es.any (s.recipeBad c), dGranRecipe),
      (listed && readable && s.granListBad c d es, dGranList)]
    lim := firstBad [
      (listed && !readable, 0x0106), (op != 3 && es.any paramBad, dGranParam), (listed && s.granOrderBad c d es, dGranStepOrder),
      (listed && op == 2 && !(match s.granOf c (granStepNo d) with | some g => g.passed | none => false), dGranNotDecided),
      (listed && (match s.gran with | some g => g.active.isSome | none => false), dGranBusy),
      ((op == 0 || op == 2) && (match s.txnOf c d with | some t => t.gran | none => false), dGranTxnDup)] }

def State.checkGranStepFull (s : State) (c : Nat) (d : Desc) : Checks := s.checkGranStep c d
def State.checkGranStepNorm (s : State) (c : Nat) (d : Desc) : Checks := s.checkGranStep c d
def State.checkGranStepApply (s : State) (c : Nat) (d : Desc) : Checks := s.checkGranStep c d
def State.checkGranStepDiscard (s : State) (c : Nat) (d : Desc) : Checks := s.checkGranStep c d

/-! ### Phases (R196) -/

/-- Releases an object's gradient buffer and clears its bitmap (R185). -/
def State.releaseBuf (s : State) (o : Nat) : State :=
  match tget s.objects o with
  | none => s
  | some x =>
    (s.regionPut x.ctx x.decl.gradMap 0 (List.replicate ((x.decl.gradBlocks + 7) / 8) 0)).modObj o fun y =>
      { y with buf := .released, folded := false }

/-- Components an apply pass writes, as regions (R201). -/
def State.writtenRegions (s : State) (c : Nat) (e : GranEntry) : List Nat :=
  match s.objOf c e.obj with
  | none => []
  | some o =>
    let d := o.decl
    let m := d.hasM && e.recipe != 3
    let v := d.hasV && (e.recipe == 1 || e.recipe == 4 || (e.recipe == 2 && e.precondV))
    [d.master] ++ (if m then [d.mReg] else []) ++ (if v then [d.vReg] else []) ++ [d.wc]

/-- Prepares a member's writes of whole regions in turn. -/
def State.writeWhole (s : State) (c : Nat) (d : Desc) : List Nat → WriteResult
  | [] => .go s
  | r :: rest =>
    match s.memberWrite c d r 0 (s.regionLen c r) with
    | .go s => s.writeWhole c d rest
    | .waits s => .waits s
    | .aborted s => .aborted s

/-- The apply passes of the GRAN_STEP in progress begin: shadow pages, statistics cleared, one work item for each object (R196). -/
def State.applyBegin (s : State) : State :=
  match s.gran with
  | none => s
  | some g =>
    match g.active with
    | some (seq, tag, _, _, .apply) =>
      match (s.ctxD g.ctx).opens.find? fun o => o.desc.seq == seq with
      | none => s
      | some o =>
        let held := match s.txn? g.ctx tag with | some t => g.listed.all t.holds.contains | none => false
        if held && g.listed.all g.applying.contains then s
        else
          let es := g.entries.filter fun e => g.listed.contains e.obj
          (s.writeWhole g.ctx o.desc (es.flatMap (s.writtenRegions g.ctx))).run g.ctx o.desc fun s =>
            let s := s.setWait g.ctx o.desc .engine
            let s := { s with gran := s.gran.map fun (g : GranStep) => { g with applying := g.applying ++ g.listed } }
            let s := es.foldl (fun s e =>
              let clear (k : Granary) : Granary := { k with emax := tdel k.emax e.obj, lost := tdel k.lost e.obj, nonfin := tdel k.nonfin e.obj }
              let s : State := { s with granaries := s.granaries.map fun (k : Nat × Granary) => (k.1, clear k.2) }
              match s.objOf g.ctx e.obj with
              | none => s
              | some x =>
                let own := s.ownedRange x
                s.addItems { work := .apply e tag, ctx := g.ctx, seq := seq } ((List.range own.2).map (own.1 + ·)) (s.objStack x)) s
            s.applyDone g.ctx seq
    | _ => s

/-- Sets the phase of the GRAN_STEP in progress. -/
def State.setGranPhase (s : State) (ph : GranPhase) : State :=
  { s with gran := s.gran.map fun (g : GranStep) =>
    { g with active := g.active.map fun (a : Word × Nat × Nat × Word × GranPhase) => (a.1, a.2.1, a.2.2.1, a.2.2.2.1, ph) } }

/-- The norm passes begin: accumulators cleared, the objects of the list in list order (R193). -/
def State.normBegin (s : State) : State :=
  match s.gran with
  | none => s
  | some g =>
    let seq := match g.active with | some a => a.1 | none => 0
    let s := (s.setGranPhase .norm)
    let s := { s with granaries := s.granaries.map fun (k : Nat × Granary) => (k.1, { k.2 with acc := {} }) }
    g.entries.foldl (fun s e =>
      match s.objOf g.ctx e.obj with
      | none => s
      | some o =>
        let i : Item := { work := .normPass e.obj, ctx := g.ctx, seq := seq }
        if e.recipe = 3 then s
        else if e.recipe = 2 then o.qs.foldl (fun s q => s.addItem q.1 { i with todo := [0] }) s
        else
          let own := s.ownedRange o
          s.addItems i ((List.range own.2).map (own.1 + ·)) (s.objStack o)) s

/-- Objects that still wait for their preconditioning, in order (R169). -/
def State.precondLeft (s : State) (g : GranStep) : List Nat :=
  (s.precondOrder g.ctx).filter fun n => match tget s.objects n with | some o => !o.preconditioned | none => false

/-- Whether an object of the step's list still waits for a fold, or the seal for its installations (R162, R193). -/
def State.sealWaits (s : State) (g : GranStep) : Bool := s.curv.sealing.isSome || g.entries.any fun e => s.foldsWaiting e.obj

/-- Goes on from preconditioning to the norm when nothing is left of it and the listed buffers have taken their last folds, and from a passed
decision to the apply passes. -/
def State.granAdvance (s : State) : State :=
  match s.gran with
  | none => s
  | some g =>
    match g.active with
    | some (_, _, op, _, .precondition) =>
      if g.passed then
        if op = 1 then s.granEnd stDone 0 (g.norm.getD 0) else (s.setGranPhase .apply).applyBegin
      else if (s.precondLeft g).isEmpty && !s.sealWaits g then s.normBegin else s
    | _ => s

/-! ### Acceptance -/

/-- The record of a step when a FULL or NORM begins: that of the step resumed, or a new one (R198). -/
def State.granRecord (s : State) (c : Nat) (d : Desc) (es : List GranEntry) : GranStep :=
  let g := (s.granOf c (granStepNo d)).getD { ctx := c, step := granStepNo d }
  { g with entries := es, listed := es.map (·.obj), group := d.f 3 11 1 == 1, lastSlice := true,
           active := some (d.seq, d.tag, granOp d, d.w8, .precondition) }

/-- Marks the transaction as holding its FULL or APPLY (R196). -/
def State.markGran (s : State) (c : Nat) (d : Desc) : State :=
  match s.txnOf c d with
  | some t => s.setTxn { t with gran := true }
  | none => s

/-- A GRAN_STEP whose list is empty (R199). -/
def State.granEmpty (s : State) (c : Nat) (d : Desc) : State := (s.markGran c d).finish c d stDoneEmpty 0 0

/-- FULL and NORM: seal, then preconditioning and the norm. -/
def State.startUpdate (s : State) (c : Nat) (d : Desc) : State :=
  if granCount d = 0 then s.granEmpty c d
  else
    let es := s.granEntries c d
    let rec0 := s.granRecord c d es
    let s := s.markGran c d
    let s := if s.isSealed c (granStepNo d) then s else s.sealStep c (granStepNo d)
    ({ s with gran := some rec0 } : State).granAdvance

def State.startGranStepFull (s : State) (c : Nat) (d : Desc) : State := s.startUpdate c d
def State.startGranStepNorm (s : State) (c : Nat) (d : Desc) : State := s.startUpdate c d

/-- APPLY: its entries' fields replace those of the NORM, and its apply passes begin. -/
def State.startGranStepApply (s : State) (c : Nat) (d : Desc) : State :=
  if granCount d = 0 then s.granEmpty c d
  else
    let es := s.granEntries c d
    let s := s.markGran c d
    let one (g : GranStep) : GranStep :=
      { g with entries := g.entries.map fun (e : GranEntry) => (es.find? fun x => x.obj == e.obj).getD e, listed := es.map (·.obj),
               lastSlice := d.f 3 10 1 == 1, active := some (d.seq, d.tag, 2, d.w8, .apply) }
    ({ s with gran := s.gran.map one } : State).applyBegin

/-- Whether the entry's gradient buffer is sealed for the step. -/
def State.entrySealed (s : State) (c step : Nat) (e : GranEntry) : Bool :=
  match s.objOf c e.obj with
  | some o => bufSealed o step
  | none => false

/-- DISCARD: the listed buffers that are sealed for the step are released (R196, R203). -/
def State.startGranStepDiscard (s : State) (c : Nat) (d : Desc) : State :=
  if granCount d = 0 then s.granEmpty c d
  else
    let step := granStepNo d
    let objs := (s.granEntries c d).filter fun e => s.entrySealed c step e
    let s := objs.foldl (fun s e => s.releaseBuf e.obj) s
    let s := s.ctxEvent 0x0201 0 c [BitVec.ofNat 32 step, BitVec.ofNat 32 (step / 2 ^ 32), BitVec.ofNat 32 objs.length]
    s.finish c d stDone 0 0

/-! ### Commands -/

/-- PRECONDITIONING: the next object of the routing order, once its last fold is applied and the roots of its seal are
installed everywhere (R162, R169, R345). -/
def execPreconditioning (obj : Nat) (s : State) : Host.Outcome State Fault Refusal :=
  match s.gran with
  | none => .next s
  | some g =>
    match g.active, tget s.objects obj with
    | some (_, _, _, _, .precondition), some o =>
      let folding := s.foldsWaiting obj
      let waiting := s.curv.sealing.isSome || (s.group.flights ++ s.group.queue).any fun f => f.desc.opcode == 0 && (f.code == 9 || f.code == 6)
      if (s.precondLeft g).head? == some obj && !folding && !waiting then .next (s.precondition o g.step).granAdvance
      else .next s
    | _, _ => .next s

/-- The step is skipped (R194). -/
def State.granSkip (s : State) (g : GranStep) (n bound : Word) : State :=
  let bad := !f32Finite n
  let s := (g.entries.map (·.obj)).foldl (fun s o => s.releaseBuf o) s
  let s := { s with gran := s.gran.map fun (g : GranStep) => { g with norm := some n } }
  let s := s.modGranary 0 fun k => { k with skips := min (k.skips + 1) 65535 }
  let s := s.event (s.bothPorts g.ctx) 0x0200 2 g.ctx
    [BitVec.ofNat 32 g.step, BitVec.ofNat 32 (g.step / 2 ^ 32 % 256 + 256 * (if bad then 1 else 2)), n, bound]
  s.granEnd stAbortedNorm (if bad then dNormNonfinite else dNormBound) n

/-- The decision on the global norm (R194, R216). -/
def State.granDecide (s : State) (g : GranStep) (op : Nat) (word n : Word) : State :=
  let bound := if word = 0 then BitVec.ofNat 32 (s.rawReg .grnNormBound 0 .steward) else word
  if f32Finite n && f32Le n bound then
    let s := { s with gran := s.gran.map fun (g : GranStep) => { g with norm := some n, passed := true } }
    if op = 1 then s.granEnd stDone 0 n else (s.setGranPhase .apply).applyBegin
  else s.granSkip g n bound

/-- NORM_CHECK: the partials are combined in increasing stack number, with NORM_GROUP across the cut, and the step decided
(R193, R194). A device outside its NORM_CUT decides on its own sum (log entry 28). -/
def execNormCheck (s : State) : Host.Outcome State Fault Refusal :=
  match s.gran with
  | none => .next s
  | some g =>
    match g.active with
    | some (_, _, op, word, .norm) =>
      let left := s.normsWaiting
      let cut := s.rf .colCfg 15 4
      if left then .next s
      else match g.norm with
        | some n => .next (s.granDecide g op word n)
        | none =>
          let sum := combine (s.stackList.map fun k => (s.granary k).acc)
          if g.group && s.inCut cut then
            if s.exchanging 0 5 0 0 then .next s
            else .next (s.exchange g.ctx 0 5 (BitVec.ofNat 32 g.step) 0 0 cut (pairBytes sum))
          else .next (s.granDecide g op word (f32Sqrt sum.hi))
    | _ => .next s

/-! ### GRAN_PROG (R192) -/

def State.granProgWords (s : State) (c : Nat) (d : Desc) : List Word :=
  let n := d.f 2 4 7
  let bs := s.hostRead (s.ctxD c).port (d.w64 3) (4 * n)
  (List.range n).map fun i => leWord bs (4 * i)

def State.checkGranProg (s : State) (c : Nat) (d : Desc) : Checks :=
  { auth := s.isSteward c || s.rf .grnRecipe 0 1 == 1
    fmt := firstBad [
      (badFor0 c d || (s.ctxD c).kind != .train, dCtxKind), (d.inTxn, dTxnMember), (reservedSet d [0x7FF, full, full], dReserved),
      (d.f 2 4 7 == 0 || decide (64 < d.f 2 4 7), dReserved), (d.w64 3 % 4 != 0, dAlign), (!microOk (s.granProgWords c d), dGranProg)] }

/-- The load waits for the GRAN_STEP in progress that uses the slot; otherwise it takes effect at once. -/
def State.startGranProg (s : State) (c : Nat) (d : Desc) : State :=
  let slot := d.f 2 0 4
  let load : Word × Nat × List Word := (d.seq, slot, s.granProgWords c d)
  (s.modCtx c fun x => { x with recipeLoads := x.recipeLoads ++ [load] }).recipesSettle c

end Sys2Proof.Machine
end

