-- ==== Sys2Proof/Machine/Collective.lean ====
section
/-! DEFINITION. The collective engine: the COLL descriptors, what peers write, peer timeouts, and the exchanges the device
makes itself (R305, R332–R345). A peer's data is given to the device as the peer's whole operand (log entry 25). -/

namespace Sys2Proof.Machine

def dCollFormat : Nat := 0x0901
def dCollRank : Nat := 0x0902

/-! ### Operands of COLL (R305, R337, R338) -/

def collSub (d : Desc) : Nat := d.f 2 0 3
def collFmt (d : Desc) : Nat := d.f 2 4 4
def collRoot (d : Desc) : Nat := d.f 2 8 6
def collCount (d : Desc) : Nat := d.w64 4
def collSrc (d : Desc) : Loc := (locOf d 6).getD (.host 0)
def collDst (d : Desc) : Loc := (locOf d 9).getD (.host 0)
def collMap (d : Desc) : Loc := (locOf d 12).getD (.host 0)
def Coll.key (f : Coll) : Word := f.desc.w3

def collReduces (sub : Nat) : Bool := sub == 0 || sub == 1

/-- Bytes of n elements; the block formats count 66-byte blocks (R338; log entry 29). -/
def collBytes (fmt n : Nat) : Nat := if isBlock fmt then 66 * n else rowBytes fmt n

def pad64 (n : Nat) : Nat := (n + 63) / 64 * 64

/-- Bytes of an operand of n elements, with the bitmap of a TB8W reduction. -/
def opBytes (sub fmt n : Nat) : Nat := if collReduces sub && fmt == 9 then pad64 (66 * n) + (n + 7) / 8 else collBytes fmt n

/-- Elements a chunk holds, and the chunk of a position, as first and count (R337). -/
def chunkSize (count k : Nat) : Nat := 64 * ((count + 64 * k - 1) / (64 * k))
def chunkOf (count k i : Nat) : Nat × Nat :=
  let c := chunkSize count (max 1 k)
  let first := min count (i * c)
  (first, min c (count - first))

/-- A move of a PERMUTE. -/
structure Move where
  src : Nat := 0
  dst : Nat := 0
  srcOff : Nat := 0
  dstOff : Nat := 0
  len : Nat := 0
  deriving DecidableEq, Repr, Inhabited

def moveOf (fmt : Nat) (bs : List Byte) : Move :=
  let w := (leWord bs 0).toNat
  { src := bitsOf w 0 6, dst := bitsOf w 8 6, srcOff := leNat (sliceBytes bs 8 8), dstOff := leNat (sliceBytes bs 16 8),
    len := collBytes fmt (leNat (sliceBytes bs 24 8)) }

def State.collMoves (s : State) (c : Nat) (d : Desc) : List Move :=
  let n := collCount d
  let bs := s.locBytes c none (collMap d) (32 * n)
  (List.range n).map fun i => moveOf (collFmt d) (sliceBytes bs (32 * i) 32)

/-- Bytes of SRC and DST on this member. -/
def State.collSizes (s : State) (d : Desc) (cut : Nat) : Nat × Nat :=
  let n := collCount d
  let fmt := collFmt d
  let k := (s.cutRanks cut).length
  match collSub d with
  | 0 => (opBytes 0 fmt n, opBytes 0 fmt n)
  | 1 => (opBytes 1 fmt n, opBytes 1 fmt (chunkOf n k (s.cutPos cut)).2)
  | 2 => (collBytes fmt n, collBytes fmt (k * n))
  | _ => (if collRoot d = s.ownRank then collBytes fmt n else 0, collBytes fmt n)

/-- Whether a cut names only VALID ranks, the device's own among them, in a group (R334). -/
def State.cutBad (s : State) (cut : Nat) : Bool := !s.inCut cut || (s.cutRanks cut).any fun r => !s.rankValid r

def Loc.at (l : Loc) (o : Nat) : Loc :=
  match l with
  | .host a => .host (a + o)
  | .region r x => .region r (x + o)
  | .slice i x => .slice i (x + o)

/-! ### Checks (R305, R309, R334, R338, R340) -/

def State.checkColl (s : State) (c : Nat) (d : Desc) : Checks :=
  let sub := collSub d
  let fmt := collFmt d
  let cut := bitsOf d.w3.toNat 28 4
  let perm := sub == 4
  let sz := s.collSizes d cut
  let mapOk := s.locOk c (collMap d) (32 * collCount d)
  let ms := if perm && mapOk then s.collMoves c d else []
  let ranks := s.cutRanks cut
  let mine := s.ownRank
  { fmt := (firstBad [
      (badFor0 c d || (s.ctxD c).kind != .train, dCtxKind), (d.inTxn && !perm, dTxnMember),
      (reservedSet d [0x3FF7, full, full, full, locWord, full, full, locWord, full, full, if perm then locWord else 0,
        if perm then full else 0, if perm then full else 0] || decide (4 < sub), dReserved),
      (decide (9 < fmt) || (collReduces sub && !(fmt == 5 || fmt == 7 || fmt == 2 || fmt == 9)), dCollFormat),
      (locBad d 6 || locBad d 9 || (perm && locBad d 12), dReserved),
      (locMisaligned d 6 || locMisaligned d 9 || (perm && locMisaligned d 12), dAlign),
      (ms.any fun m => m.srcOff % 64 != 0 || m.dstOff % 64 != 0, dAlign)]).or (s.versionFmt c d (collDst d))
    lim := firstBad [
      (s.cutBad cut, dCollRank), (sub == 3 && !ranks.contains (collRoot d), dCollRank), (perm && !mapOk, dLocation),
      (ms.any fun m => !ranks.contains m.src || !ranks.contains m.dst, dCollRank),
      (!perm && (!s.locOk c (collSrc d) sz.1 || !s.locOk c (collDst d) sz.2), dLocation),
      (ms.any fun m => (m.src == mine && !s.locOk c ((collSrc d).at m.srcOff) m.len) || (m.dst == mine && !s.locOk c ((collDst d).at m.dstOff) m.len), dLocation),
      (!s.locWritable c (collDst d), dLocation)] }

def State.checkAllreduce (s : State) (c : Nat) (d : Desc) : Checks := s.checkColl c d
def State.checkReducescatter (s : State) (c : Nat) (d : Desc) : Checks := s.checkColl c d
def State.checkAllgather (s : State) (c : Nat) (d : Desc) : Checks := s.checkColl c d
def State.checkBroadcast (s : State) (c : Nat) (d : Desc) : Checks := s.checkColl c d
def State.checkPermute (s : State) (c : Nat) (d : Desc) : Checks := s.checkColl c d

/-! ### Sums (R338) -/

/-- Cuts bytes into pieces of one size. -/
def piecesOf (size n : Nat) (bs : List Byte) : List (List Byte) := (List.range n).map fun i => sliceBytes bs (size * i) size

/-- Sum of one element's contributions in rank order, and for a block whether its encoding overflowed. -/
def sumOne (fmt : Nat) (xs : List (List Byte)) : List Byte × Bool :=
  match fmt with
  | 5 =>
    let ws := xs.map fun b => leWord b 0
    (leBytes 4 (ws.tail.foldl (fun a w => canon (f32Add a w)) (canon (ws.headD 0))).toNat, false)
  | 7 => (pairBytes (combine (xs.map pairOfBytes)), false)
  | 2 =>
    let vs := xs.map fun b => signedOf 32 (leNat b)
    let v := vs.tail.foldl (fun a w => (satInt32 (a + w)).1) (vs.headD 0)
    (leBytes 4 (v % 4294967296).toNat, false)
  | _ =>
    let es := xs.map (blkExpandAll true)
    let sum := (List.range 64).map fun i => (es.tail.foldl (fun a e => canon (f32Add a (e.getD i 0))) (canon ((es.headD []).getD i 0)))
    let out := blkDerive true [] false sum
    (out.bytes, out.sat)

/-- Bytes of one element of a reduction. -/
def sumSize (fmt : Nat) : Nat := match fmt with | 7 => 8 | 9 => 66 | _ => 4

/-- Elements [first, first + n) of the sum of operands of `count` elements, with their bitmap for TB8W. -/
def collSum (fmt count first n : Nat) (ops : List (List Byte)) : List Byte :=
  let size := sumSize fmt
  let outs := (List.range n).map fun i => sumOne fmt (ops.map fun o => sliceBytes o (size * (first + i)) size)
  let body := outs.flatMap (·.1)
  if fmt ≠ 9 then body
  else
    let base := pad64 (66 * count)
    let old (j : Nat) : Bool := ops.any fun o => bitsOf (o.getD (base + j / 8) 0).toNat (j % 8) 1 == 1
    let bit (i : Nat) : Bool := (outs.getD i ([], false)).2 || old (first + i)
    let map := (List.range ((n + 7) / 8)).map fun k =>
      (BitVec.ofNat 8 ((List.range 8).foldl (fun v b => if 8 * k + b < n ∧ bit (8 * k + b) = true then v + 2 ^ b else v) 0) : Byte)
    body ++ List.replicate (pad64 body.length - body.length) 0 ++ map

/-- Operands side by side: INT4 elements are packed across them (R337). -/
def collGather (fmt count : Nat) (ops : List (List Byte)) : List Byte :=
  if fmt = 0 then packNibbles (ops.flatMap fun o => (List.range count).map fun i => bitsOf (o.getD (i / 2) 0).toNat (4 * (i % 2)) 4)
  else ops.flatMap fun o => o.take (collBytes fmt count)

/-! ### Completion -/

/-- Bytes expected from a rank; none while a rank of the device's own exchange has announced nothing. -/
def State.expected (s : State) (f : Coll) (rank : Nat) : Option Nat :=
  if f.desc.opcode ≠ 0x28 then tget f.need rank
  else match collSub f.desc with
    | 3 => some (if rank = collRoot f.desc then collBytes (collFmt f.desc) (collCount f.desc) else 0)
    | 4 => some (((s.collMoves f.ctx f.desc).filter fun m => m.src == rank && m.dst == s.ownRank).map (·.len)).sum
    | sub => some (opBytes sub (collFmt f.desc) (collCount f.desc))

/-- Whether a collective still waits for data of a rank. -/
def State.waitsOn (s : State) (f : Coll) (rank : Nat) : Bool :=
  f.cut.contains rank && rank != s.ownRank && match s.expected f rank with
    | some n => decide ((tgetD f.got rank []).length < n)
    | none => true

/-- Operands of all members in rank order. -/
def State.operands (s : State) (f : Coll) : List (List Byte) :=
  f.cut.map fun r => if r = s.ownRank then f.own else tgetD f.got r []

/-- The bytes a COLL writes, as offsets from DST (R337). -/
def State.collResult (s : State) (f : Coll) : List (Nat × List Byte) :=
  let d := f.desc
  let n := collCount d
  let ops := s.operands f
  match collSub d with
  | 0 => [(0, collSum (collFmt d) n 0 n ops)]
  | 1 =>
    let ch := chunkOf n f.cut.length (f.cut.filter (· < s.ownRank)).length
    [(0, collSum (collFmt d) n ch.1 ch.2 ops)]
  | 2 => [(0, collGather (collFmt d) n ops)]
  | 3 => [(0, if collRoot d = s.ownRank then f.own else tgetD f.got (collRoot d) [])]
  | _ =>
    ((s.collMoves f.ctx d).foldl (fun (acc : Table Nat × List (Nat × List Byte)) m =>
      if m.dst ≠ s.ownRank then acc
      else
        let from_ := if m.src = s.ownRank then f.own else tgetD f.got m.src []
        let at_ := tgetD acc.1 m.src 0
        (tset acc.1 m.src (at_ + m.len), acc.2 ++ [(m.dstOff, sliceBytes from_ at_ m.len)])) ([], [])).2

/-- A COLL writes its destination, charged to its context's HBM write weir, and completes (R328, R335, R336, R340). -/
def State.finishColl (s : State) (f : Coll) : State :=
  let d := f.desc
  let c := f.ctx
  let out := s.collResult f
  s.withWrites c d (collDst d) (out.map fun o => ((collDst d).offset + o.1, o.2.length)) fun s =>
    let s := (hbmWeir true (collDst d)).foldl (fun s w => s.charge c w (out.map fun o => o.2.length).sum) s
    let s := out.foldl (fun s o => s.putAt c d ((collDst d).at o.1) o.2) s
    s.finish c d stDone 0 0

/-- Blocks of a sharded object that the member at a position owns. -/
def shardRange (o : Obj) (k i : Nat) : Nat × Nat := chunkOf o.decl.gradBlocks k i

/-- The other members' chunks of a working copy written over its blocks: into the object's own region (H mode), or whole into
the scratch region (L mode) (R342, R343). -/
def State.spreadCopy (s : State) (f : Coll) (o : Obj) (reg : Nat) : State :=
  let d := o.decl
  let k := f.cut.length
  let gb := groupBytes d.wcFmt
  (List.range k).foldl (fun s i =>
    let r := f.cut.getD i 0
    if r = s.ownRank ∧ reg = d.wc then s
    else
      let bs := if r = s.ownRank then f.own else tgetD f.got r []
      let ch := shardRange o k i
      (List.range ch.2).foldl (fun s n =>
        let j := ch.1 + n
        let col := 64 * (j % max 1 d.nb)
        let at_ := j / max 1 d.nb * tensorPitch d.align d.wcFmt d.cols + elemByte d.wcFmt col
        s.regionPut o.ctx reg at_ ((sliceBytes bs (gb * n) gb).take (if isBlock d.wcFmt then 66 else rowBytes d.wcFmt (min 64 (d.cols - col))))) s) s

/-- Roots of another member's message: block index, whether the root is kept, the inverse root and the root; `fuel` bounds the messages
(R345). -/
def rootMsgs : Nat → List Byte → List (Nat × Bool × List Byte × List Byte)
  | 0, _ => []
  | fuel + 1, bs =>
    if bs.length < 16 then []
    else
      let n := leNat (sliceBytes bs 4 4)
      let m := leNat (sliceBytes bs 12 4)
      (leNat (sliceBytes bs 0 4), m ≠ 0, sliceBytes bs 16 (4 * n * n), sliceBytes bs (16 + 4 * n * n) (4 * m * n)) ::
        rootMsgs fuel (bs.drop (16 + 4 * n * n + 4 * m * n))

/-- Installs the roots of blocks that another member owns, with their binary16 copies where the object's products read these (R345). -/
def State.installRemote (s : State) (k : Nat) (half : Bool) (r : Nat × Bool × List Byte × List Byte) : State :=
  match tget s.stats k with
  | none => s
  | some t =>
    let b := t.decl.blockSize
    let at_ := r.1 * rootBytes b
    let s := (s.rootPutAt t at_ 0 r.2.2.1).rootPutAt t at_ (keptAt b) r.2.2.2
    let s := s.modStat k fun t => { t with remote := tset t.remote r.1 { both := r.2.1 } }
    if half then s.makeRemoteCopy k r.1 else s

/-- What an exchange the device made itself brings about once every member's data is here. -/
def State.finishExchange (s : State) (f : Coll) : State :=
  let obj := f.desc.w 6
  let arg := f.desc.w 7
  let ops := s.operands f
  match f.code with
  | 5 =>
    let sum := combine (ops.map pairOfBytes)
    { s with gran := s.gran.map fun (g : GranStep) => { g with norm := some (f32Sqrt sum.hi) } }
  | 6 =>
    let r := combine (ops.map pairOfBytes)
    let q := combine (ops.map fun b => pairOfBytes (b.drop 8))
    (s.precondDone obj f.key.toNat arg r q).granAdvance
  | 7 => match tget s.objects obj with | some o => s.spreadCopy f o o.decl.wc | none => s
  | 8 =>
    let s := match tget s.objects obj with | some o => s.spreadCopy f o o.decl.scratch | none => s
    s.modRun f.ctx f.seq fun r => { r with gathered := r.gathered ++ [(arg, obj)] }
  | 9 =>
    let new := (f.cut.filter (· != s.ownRank)).flatMap fun r => let b := tgetD f.got r []; rootMsgs b.length b
    let half := match tget s.objects obj with | some o => !o.precond.single | none => false
    new.foldl (fun s r => s.installRemote (statKey obj arg) half r) s
  | _ =>
    match (s.run? f.ctx f.seq).bind fun r => (s.planOf r.ctx r.slot).bind fun pl => pl.body.views.find? fun v => v.num == arg with
    | none => s
    | some v =>
      let p := max 1 v.pitch
      let rows := ops.flatMap fun o => (List.range (o.length / p)).map fun i => sliceBytes o (p * i) p
      s.modRun f.ctx f.seq fun r => { r with viewRows := tset r.viewRows arg rows }

/-- A COLL whose bytes the HBM write weir holds waits (R328), and so does a PERMUTE member whose destination is held by a
transaction past its vote (R212). -/
def State.collBlocked (s : State) (f : Coll) : Bool :=
  (f.desc.opcode == 0x28 && (hbmWeir true (collDst f.desc)).any fun w => !s.weirLets f.ctx w) ||
  match s.txnOf f.ctx f.desc, collDst f.desc with
  | some t, .region r _ => f.desc.opcode == 0x28 && s.holdTest t (s.holdKey f.ctx r) == .waits
  | _, _ => false

/-- Takes the first collective that lacks nothing out of flight and completes it, while the engine runs; `n` bounds how many
(R336). -/
def State.collSettle (s : State) : Nat → State
  | 0 => s
  | n + 1 =>
    match s.group.flights.find? fun f => s.collOn && !(f.cut.any (s.waitsOn f)) && !s.collBlocked f with
    | none => s
    | some f =>
      let s := { s with group := { s.group with flights := s.group.flights.erase f } }
      (if f.desc.opcode = 0x28 then s.finishColl f else s.finishExchange f).collSettle n

/-! ### What peers write (R333, R335, R336) -/

/-- Whether data belongs to a collective in flight. -/
def Coll.takes (f : Coll) (e : Early) : Bool :=
  if f.desc.opcode = 0x28 then decide (e.sub ≤ 4) && f.key == e.key
  else f.code == e.sub && f.desc.w 6 == e.count && f.desc.w 7 == e.fmt && (f.code == 8 || f.key == e.key)

/-- Whether the parameters of the data differ from the collective's own, or the peer's version from the one pinned (R336, R343). -/
def Coll.disagrees (f : Coll) (e : Early) : Bool :=
  if f.desc.opcode = 0x28 then
    e.sub != collSub f.desc || e.fmt != collFmt f.desc || e.count != collCount f.desc || e.root != collRoot f.desc
  else f.code == 8 && f.key != e.key

/-- Bytes of a peer are consumed; a credit of 64 KiB goes back for each (R335). -/
def Group.consume (g : Group) (rank n : Nat) : Group := { g with consumed := tset g.consumed rank ((tgetD g.consumed rank 0 + n) % 65536) }

/-- Gives data to its collective, or keeps it until this device begins it. -/
def State.giveData (s : State) (e : Early) : State :=
  match s.group.flights.find? fun f => f.takes e &&
    (s.waitsOn f e.rank || (f.desc.opcode == 0x28 && f.cut.contains e.rank && f.disagrees e)) with
  | none => { s with group := { s.group with early := s.group.early ++ [e] } }
  | some f =>
    if f.disagrees e then s.teardown f.ctx 1
    else
      let new : Coll := { f with got := tset f.got e.rank (tgetD f.got e.rank [] ++ e.bytes),
                                 need := if f.desc.opcode = 0x28 then f.need else tset f.need e.rank e.root }
      let g := s.group
      { s with group := { g with flights := g.flights.replace f new }.consume e.rank e.bytes.length }

/-- Data kept for collectives that have begun meanwhile. -/
def State.takeEarly (s : State) : State :=
  let es := s.group.early
  let s := { s with group := { s.group with early := [] } }
  let s := es.foldl (fun s e => s.giveData e) s
  s.collSettle (s.group.flights.length)

/-- Exchanges of the device's own that wait begin as places come free (R335). -/
def State.exchangesBegin (s : State) : State :=
  let n := if s.collOn then collPlaces - s.group.flights.length else 0
  match s.group.queue.take n with
  | [] => s
  | now =>
    let s := { s with group := { s.group with queue := s.group.queue.drop n } }
    (now.foldl (fun s f => s.beginExchange f) s).takeEarly

/-- Something of a rank has come: its time begins anew (R336; log entry 67). -/
def Group.heard (g : Group) (rank : Nat) : Group := { g with waitFrom := g.waitFrom.filter fun e => e.1 != rank }

/-- The rank whose requester ID a write carries, other than the device's own (R333). -/
def State.peerRank (s : State) (reqId : Nat) : Option Nat :=
  (List.range 64).find? fun r => s.rankValid r && r != s.ownRank && bitsOf (s.rawReg .colTopoTable (4 * r) .steward) 16 16 == reqId

/-- The port that carries peer traffic. -/
def State.peerPort (s : State) : Port := if s.rf .colCfg 14 1 = 0 then .steward else .tenant

/-- Offset that RAS_CFG_ERR records for a dropped landing-window write: COL_TOPO_TABLE (R412). -/
def landingOffset : Nat := 0x00901000

/-- A posted write into the landing window, while the link that carries peer traffic is up. Any other write there is dropped and
recorded (R289, R333, R412). -/
def execPeerWrite (reqId : Nat) (payload : PeerPayload) (s : State) : Host.Outcome State Fault Refusal :=
  if !s.portOpen s.peerPort then .next s
  else match (if s.rf .colCfg 0 1 = 1 then s.peerRank reqId else none) with
  | none => .next (s.cfgError s.peerPort landingOffset)
  | some r =>
    let s := { s with group := s.group.heard r }
    match payload with
    | .credit n =>
      let g := s.group
      .next { s with group := { g with outstanding := tset g.outstanding r (tgetD g.outstanding r 0 - n) }.send r 0 }
    | .data key sub fmt root count bytes =>
      let e : Early := { rank := r, key := key, sub := sub, fmt := fmt, root := root, count := count, bytes := bytes }
      let c := match s.group.flights.find? fun f => f.takes e && s.waitsOn f r with | some f => f.ctx | none => 0
      let s := (s.pulse 0x248 0 bytes.length c 0).giveData e
      .next (s.collSettle s.group.flights.length)

/-- Whether a transaction waits for the vote of a rank (R221). -/
def Txn.votesWait (t : Txn) (s : State) (rank : Nat) : Bool :=
  t.group && t.phase == .prepared && (s.cutRanks (bitsOf t.key.toNat 28 4)).contains rank && rank != s.ownRank && !t.votes.contains rank

/-- The group transactions of which a lost rank is a voter abort while their vote is not complete (R218; log entry 101). -/
def State.voterLost (s : State) (rank : Nat) : State :=
  let hit (t : Txn) : Bool := t.group && t.isOpen && t.phase != .voted && (s.cutRanks (bitsOf t.key.toNat 28 4)).contains rank
  (s.txns.filter hit).foldl (fun s t => s.abortTxn t.ctx t.tag dGroupVote none) s

/-- Whether the device waits for credit of a rank: its window is full and more is to be sent (R335). -/
def State.starved (s : State) (rank : Nat) : Bool :=
  decide (windowSize ≤ tgetD s.group.outstanding rank 0) && tgetD s.group.unsent rank 0 != 0

/-- Whether data, credit or a vote of a rank is waited for (R336). -/
def State.awaits (s : State) (rank : Nat) : Bool :=
  s.collOn && ((s.group.flights.any fun f => s.waitsOn f rank) || (s.txns.any fun t => t.votesWait s rank) || s.starved rank)

/-- A peer's data, credit or vote has not come within TIMEOUT: the peer is marked LOST, the context of every collective
and vote that waits on it is torn down, and the group transactions it votes on abort (R218, R336). -/
def execCollectiveTimeout (rank : Nat) (s : State) : Host.Outcome State Fault Refusal :=
  let fs := s.group.flights.filter fun f => s.waitsOn f rank
  let vs := s.txns.filter fun t => t.votesWait s rank
  if !s.awaits rank || !s.lastedFor (tget s.group.waitFrom rank) (1000 * cyclesPerUs * s.rf .colCfg 19 13) then .next s
  else
    let g := s.group
    let sending := if s.starved rank then (g.flights.filter fun f => f.cut.contains rank).map (·.ctx) else []
    let s := { s with group := { g with lost := g.lost ||| BitVec.ofNat 64 (2 ^ rank) } }
    .next (((fs.map (·.ctx) ++ sending ++ vs.map (·.ctx)).eraseDups.foldl (fun s c => s.teardown c 1) s).voterLost rank)

/-! ### Starting (R335, R337) -/

/-- Bytes this member contributes. -/
def State.collOwn (s : State) (c : Nat) (d : Desc) : List Byte :=
  match collSub d with
  | 4 => ((s.collMoves c d).filter fun m => m.src == s.ownRank && m.dst == s.ownRank).flatMap fun m =>
      s.locBytes c none ((collSrc d).at m.srcOff) m.len
  | _ => s.locBytes c none (collSrc d) (s.collSizes d (bitsOf d.w3.toNat 28 4)).1

/-- The device's data for the other members leaves (R335). -/
def State.collSend (s : State) (c : Nat) (d : Desc) (ranks : List Nat) : State :=
  let n := collCount d
  let k := max 1 ranks.length
  let size := opBytes (collSub d) (collFmt d) n
  match collSub d with
  | 0 => s.sendTo c ranks ((2 * size + k - 1) / k)
  | 1 => s.sendTo c ranks ((size + k - 1) / k)
  | 2 => s.sendTo c ranks size
  | 3 => if collRoot d = s.ownRank then s.sendTo c ranks size else s
  | _ => (s.collMoves c d).foldl (fun s m =>
      if m.src = s.ownRank ∧ m.dst ≠ s.ownRank then s.sendTo c [m.dst] m.len else s) s

def State.startColl (s : State) (c : Nat) (d : Desc) : State :=
  if collCount d = 0 then s.finish c d stDoneEmpty 0 0
  else if !s.collOn || decide (collPlaces ≤ s.group.flights.length) then s.setWait c d .window
  else s.pastWeirs c d (3 :: hbmWeir false (collSrc d)) fun s =>
    let s := s.setWait c d .engine
    let ranks := s.cutRanks (bitsOf d.w3.toNat 28 4)
    let f : Coll := { ctx := c, seq := d.seq, desc := d, cut := ranks, own := s.collOwn c d, tag := if d.inTxn then some d.tag else none }
    let s := (hbmWeir false (collSrc d)).foldl (fun s w => s.charge c w f.own.length) s
    let s := s.collSend c d ranks
    ({ s with group := { s.group with flights := s.group.flights ++ [f] } } : State).takeEarly

def State.startAllreduce (s : State) (c : Nat) (d : Desc) : State := s.startColl c d
def State.startReducescatter (s : State) (c : Nat) (d : Desc) : State := s.startColl c d
def State.startAllgather (s : State) (c : Nat) (d : Desc) : State := s.startColl c d
def State.startBroadcast (s : State) (c : Nat) (d : Desc) : State := s.startColl c d
def State.startPermute (s : State) (c : Nat) (d : Desc) : State := s.startColl c d

end Sys2Proof.Machine
end

