-- ==== Sys2Proof/Machine/SolverMath.lean ====
section
/-! DEFINITION. The arithmetic of the solver: conversions, the phases of an iteration, pivots (R44, R73, R74, R103,
R241, R247, R249–R256). The binary points of values that no rule names are free (log entry 31). -/

namespace Sys2Proof.Machine

/-! ### Values with a saturation mark (R251) -/

/-- A value, and whether forming it saturated. -/
structure Sat (α : Type) where
  val : α
  sat : Bool := false

def Sat.ofPair (r : Int × Bool) : Sat Int := { val := r.1, sat := r.2 }

/-- Applies a marking function to each element. -/
def satMap {α β : Type} (f : α → Sat β) (l : List α) : Sat (List β) :=
  { val := l.map fun x => (f x).val, sat := l.any fun x => (f x).sat }

/-- A sum of FX32 values that stays FX32. -/
def satAdd (a b : Int) : Sat Int := Sat.ofPair (satInt32 (a + b))

/-- A chain of products from a starting accumulator, in increasing index order, in 64 bits with saturation (R44, R103). -/
def fxChain (acc : Int) (ps : List (Int × Int)) : Sat Int :=
  ps.foldl (fun (s : Sat Int) p => let t := satInt64 (s.val + p.1 * p.2); { val := t.1, sat := s.sat || t.2 }) { val := acc }

/-- A 64-bit accumulator drained from q to qo fraction bits (R44). -/
def fxDrain (q qo : Nat) (a : Sat Int) : Sat Int :=
  let r := fxMove q qo a.val
  { val := r.1, sat := a.sat || r.2 }

/-- A chain drained. -/
def fxDot (q qo : Nat) (acc : Int) (ps : List (Int × Int)) : Sat Int := fxDrain q qo (fxChain acc ps)

/-- One product drained. -/
def fxMul (q qo : Nat) (a b : Int) : Sat Int := fxDot q qo 0 [(a, b)]

/-- An FX32 value as an accumulator with other fraction bits. -/
def fxTo64 (qi qo : Nat) (v : Int) : Sat Int :=
  Sat.ofPair (satInt64 (if qo ≤ qi then shiftRoundInt v (qi - qo) else v * 2 ^ (qo - qi)))

def maxAbs (l : List Int) : Nat := l.foldl (fun m v => max m v.natAbs) 0

def getI (l : List Int) (i : Nat) : Int := l.getD i 0
def getM (m : List (List Int)) (i j : Nat) : Int := (m.getD i []).getD j 0

def fxTop : Int := 2147483647
def fxBottom : Int := -2147483648

/-! ### Conversion (R247, R250) -/

/-- A binary32 value converted to FX32 at binary point q after a row scale e; infinities become the extremes, a NaN has
no stated value (log entry 31). -/
def fxOfB32 (q : Int) (w : Word) : Sat Int :=
  match f32Val w with
  | .nan => { val := signedOf 32 (Config.freeNat 45 [w.toNat] % 2 ^ 32) }
  | .inf n => { val := if n then fxBottom else fxTop }
  | .fin n m e =>
    let a := alignTo m e (-q)
    let k := if roundsUp 0 n (a.1 % 2 = 1) a.2.1 a.2.2 then a.1 + 1 else a.1
    Sat.ofPair (satInt32 (if n then -(k : Int) else k))

/-- An FX32 value at binary point q as binary32, nearest even. -/
def b32OfFx (q : Nat) (v : Int) : Word := f32OfDy { m := v, e := -(q : Int) }

/-- A stored value moved between binary points that a class change gives, with round to nearest (R249). -/
def fxShift (qi qo : Int) (v : Int) : Sat Int :=
  if qo ≤ qi then Sat.ofPair (satInt32 (shiftRoundInt v (qi - qo).toNat))
  else Sat.ofPair (satInt32 (v * 2 ^ (qo - qi).toNat))

/-- A limit moved from one binary point to another: the extremes stay unbounded. -/
def fxShiftLimit (qi qo : Int) (v : Int) : Sat Int :=
  if v = fxTop ∨ v = fxBottom then { val := v } else fxShift qi qo v

def rowScale (c : ClassDecl) (i : Nat) : Int := c.scales.getD i 0

/-- Binary points of the values of a problem at a class: of a measurement row's coefficients, value and weight. -/
def coefQ (c : ClassDecl) (i : Nat) : Int := (c.qj : Int) + rowScale c i
def zQ (c : ClassDecl) (i : Nat) : Int := (c.qz : Int) + rowScale c i
def wQ (c : ClassDecl) (i : Nat) : Int := (c.qw : Int) - 2 * rowScale c i

/-- Binary point of element k of an entry: constraint rows have no scale. -/
def entryQ (c : ClassDecl) (e : SlvEntry) (k : Nat) : Int :=
  if e.constraint then (c.qj : Int) else coefQ c (8 * e.row + k / 8)

/-- Elements of a list with their places. -/
def mapIdxI {α β : Type} (f : Nat → α → β) (l : List α) : List β := l.zipIdx.map fun p => f p.2 p.1

def satMapIdx {α β : Type} (f : Nat → α → Sat β) (l : List α) : Sat (List β) := satMap (fun p => f p.2 p.1) l.zipIdx

/-- A problem with its stored values at the binary points of another class (R244, R249); a saturated element sets
DELTA_SAT. -/
def Problem.moveTo (p : Problem) (c : ClassDecl) : Problem :=
  if c = p.conv then p
  else
    let o := p.conv
    let entry (e : SlvEntry) : Sat SlvEntry :=
      let v := satMapIdx (fun k x => fxShift (entryQ o e k) (entryQ c e k) x) e.vals
      { val := { e with vals := v.val }, sat := v.sat }
    let quad (q : SlvQuad) : Sat SlvQuad :=
      let v := fxShift (coefQ o q.row) (coefQ c q.row) q.coef
      { val := { q with coef := v.val }, sat := v.sat }
    let vec (a b : Nat) (l : List Int) : Sat (List Int) := satMap (fxShift a b) l
    let lim (a b : Nat) (l : List Int) : Sat (List Int) := satMap (fxShiftLimit a b) l
    let es := satMap entry p.entries
    let qs := satMap quad p.quads
    let z := satMapIdx (fun i x => fxShift (zQ o i) (zQ c i) x) p.z
    let w := satMapIdx (fun i x => fxShift (wQ o i) (wQ c i) x) p.w
    let lo := lim o.qx c.qx p.lo
    let hi := lim o.qx c.qx p.hi
    let cl := lim o.qy c.qy p.cl
    let ch := lim o.qy c.qy p.ch
    let st := vec o.qx c.qx (p.start.getD [])
    let slot := vec o.qx c.qx p.slot
    let dz := vec o.qy c.qy p.dualZ
    let dy := vec o.qy c.qy p.dualY
    { p with conv := c, entries := es.val, quads := qs.val, z := z.val, w := w.val, lo := lo.val, hi := hi.val, cl := cl.val,
             ch := ch.val, start := p.start.map fun _ => st.val, slot := slot.val, dualZ := dz.val, dualY := dy.val,
             deltaSat := p.deltaSat || es.sat || qs.sat || z.sat || w.sat || lo.sat || hi.sat || cl.sat || ch.sat || st.sat ||
               slot.sat || dz.sat || dy.sat }

/-! ### Free binary points (log entry 31) -/

/-- A binary point of a value no rule names, the same for every problem of a class. -/
def freeQ (what : Nat) (c : ClassDecl) : Nat :=
  Config.freeNat what [c.qx, c.qz, c.qj, c.qw, c.qh, c.ql, c.qy] % 32

/-- Of s·x_k, of T = JᵀW, of g, of 1/d′, of L·D, of ρC, of 1/ρ, and of Acᵀ(z − z_prev). -/
def qQuad (c : ClassDecl) : Nat := freeQ 40 c
def qT (c : ClassDecl) : Nat := freeQ 41 c
def qG (c : ClassDecl) : Nat := freeQ 42 c
def qInv (c : ClassDecl) : Nat := freeQ 43 c
def qLd (c : ClassDecl) : Nat := freeQ 44 c
def qRc (c : ClassDecl) : Nat := freeQ 46 c
def qRhoInv (c : ClassDecl) : Nat := freeQ 47 c
def qDual (c : ClassDecl) : Nat := freeQ 48 c

/-! ### The model of a problem (R241) -/

/-- Coefficients of a row of the measurements or of the constraints, as column and value, in increasing column. -/
def Problem.rowTerms (p : Problem) (constraint : Bool) (i : Nat) : List (Nat × Int) :=
  (List.range p.n).flatMap fun j =>
    (p.entries.filter fun e => e.constraint == constraint && e.row == i / 8 && e.col == j / 8).map fun e =>
      (j, getI e.vals (8 * (i % 8) + j % 8))

/-- The constraint matrix as FX32 rows. -/
def Problem.cMat (p : Problem) : List (Sat (List Int)) :=
  (List.range p.nc).map fun r =>
    let ts := p.rowTerms true r
    satMap (fun j => Sat.ofPair (satInt32 ((ts.filter fun (t : Nat × Int) => t.1 == j).map (·.2)).sum)) (List.range p.n)

def Problem.quadsOf (p : Problem) (i : Nat) : List SlvQuad := p.quads.filter fun q => q.row == i

/-- EVAL: residuals at Q_Z and Jacobian rows at Q_J (R252). A row of weight zero takes no part. -/
def Problem.evalRow (p : Problem) (c : ClassDecl) (x : List Int) (i : Nat) : Sat (Int × List Int) :=
  if getI p.w i = 0 then { val := (0, List.replicate p.n 0) }
  else
    let ts := p.rowTerms false i
    let qs := p.quadsOf i
    let sx (q : SlvQuad) := fxMul (c.qj + c.qx) (qQuad c) q.coef (getI x q.k)
    let lin := fxChain 0 (ts.map fun t => (t.2, getI x t.1))
    let quad := fxDrain (qQuad c + c.qx) (c.qj + c.qx)
      { fxChain 0 (qs.map fun q => ((sx q).val, getI x q.j)) with sat := qs.any fun q => (sx q).sat }
    let total := satInt64 (lin.val + (if qs.isEmpty then 0 else quad.val))
    let h := fxDrain (c.qj + c.qx) c.qz { val := total.1, sat := lin.sat || total.2 || (!qs.isEmpty && quad.sat) }
    let r := satAdd (getI p.z i) (-h.val)
    let jac := satMap (fun j =>
      let a := fxTo64 c.qj (c.qj + c.qx) ((ts.filter fun (t : Nat × Int) => t.1 == j).map (·.2)).sum
      let ps := qs.flatMap fun q =>
        (if q.j = j then [(q.coef, getI x q.k)] else []) ++ (if q.k = j then [(q.coef, getI x q.j)] else [])
      let t := fxDot (c.qj + c.qx) c.qj a.val ps
      { val := t.val, sat := a.sat || t.sat }) (List.range p.n)
    { val := (r.val, jac.val), sat := h.sat || r.sat || jac.sat }

def Problem.eval (p : Problem) (c : ClassDecl) (x : List Int) : Sat (List (Int × List Int)) :=
  satMap (p.evalRow c x) (List.range p.m)

/-- Σ w r² of a residual vector, exact and rounded once (R261). -/
def Problem.cost (p : Problem) (c : ClassDecl) (r : List Int) : Word :=
  f32OfDy { m := ((List.range p.m).map fun i => getI p.w i * getI r i * getI r i).sum, e := -((c.qw : Int) + 2 * c.qz) }

/-- FORM: the normal matrix JᵀWJ at Q_H and JᵀWr at its own point (R252). -/
def Problem.form (p : Problem) (c : ClassDecl) (r : List Int) (jac : List (List Int)) :
    Sat (List (List Int) × List Int) :=
  let rows := List.range p.m
  let t := satMap (fun i => satMap (fun j => fxMul (c.qj + c.qw) (qT c) (getM jac i j) (getI p.w i)) (List.range p.n)) rows
  let h := satMap (fun a => satMap (fun b =>
    fxDot (c.qj + qT c) c.qh 0 (rows.map fun i => (getM t.val i a, getM jac i b))) (List.range p.n)) (List.range p.n)
  let g := satMap (fun a => fxDot (qT c + c.qz) (qG c) 0 (rows.map fun i => (getM t.val i a, getI r i))) (List.range p.n)
  { val := (h.val, g.val), sat := t.sat || h.sat || g.sat }

/-- Adds σI + ρ(AcᵀAc) to the matrix (R253). -/
def Problem.addPenalty (p : Problem) (c : ClassDecl) (sigma rho : Int) (h : List (List Int)) : Sat (List (List Int)) :=
  let cm := p.cMat
  let cv := cm.map (·.val)
  let rc := satMap (fun row => satMap (fun v => fxMul (c.qh + c.qj) (qRc c) rho v) row) cv
  let rows := List.range p.nc
  let m := satMap (fun a => satMap (fun b =>
    let pen := fxDot (qRc c + c.qj) c.qh 0 (rows.map fun r => (getM rc.val r a, getM cv r b))
    let t := satInt32 (getM h a b + pen.val + if a = b then sigma + rho else 0)
    ({ val := t.1, sat := pen.sat || t.2 } : Sat Int)) (List.range p.n)) (List.range p.n)
  { val := m.val, sat := m.sat || rc.sat || cm.any (·.sat) }

/-! ### FACTOR (R256) -/

/-- A factorisation in progress: columns of L, reciprocals of the pivots, regularised pivots. -/
structure Factor where
  cols : List (List Int) := []
  piv : List Int := []
  inv : List Int := []
  regpiv : Nat := 0
  sat : Bool := false

/-- Eliminates pivot j. -/
def factorStep (c : ClassDecl) (n tau : Nat) (lam : Int) (h : List (List Int)) (f : Factor) (j : Nat) : Factor :=
  let ks := List.range j
  let ld := satMap (fun k => fxMul (c.ql + c.qh) (qLd c) (getM f.cols k j) (getI f.piv k)) ks
  let elim (i : Nat) : Sat Int :=
    let a := fxTo64 c.qh (c.ql + qLd c) (getM h i j)
    let t := fxDot (c.ql + qLd c) c.qh a.val (ks.map fun k => (-(getM f.cols k i), getI ld.val k))
    { val := t.val, sat := a.sat || t.sat }
  let e := elim j
  let d := max e.val 0
  let hjj := getM h j j
  let s := -((-hjj) / (2 ^ tau : Nat) : Int)
  let reg := decide (d < s) || d == 0
  let d' := if reg then satAdd d lam else { val := d }
  let inv := Sat.ofPair (fxPru .recip c.qh (qInv c) d'.val)
  let col := satMap (fun i =>
    if i ≤ j then { val := (0 : Int) }
    else
      let t := elim i
      let l := fxMul (c.qh + qInv c) c.ql t.val inv.val
      ({ val := l.val, sat := t.sat || l.sat } : Sat Int)) (List.range n)
  { cols := f.cols ++ [col.val], piv := f.piv ++ [d'.val], inv := f.inv ++ [inv.val],
    regpiv := f.regpiv + if reg then 1 else 0, sat := f.sat || ld.sat || e.sat || d'.sat || inv.sat || col.sat }

def factor (c : ClassDecl) (n tau : Nat) (lam : Int) (h : List (List Int)) : Factor :=
  (List.range n).foldl (factorStep c n tau lam h) {}

/-- SOLVE: forward, scaled by the reciprocals to Q_X, backward (R252). -/
def solveLdl (c : ClassDecl) (n : Nat) (cols : List (List Int)) (inv g : List Int) : Sat (List Int) :=
  let y := (List.range n).foldl (fun (y : Sat (List Int)) i =>
    let a := fxTo64 (qG c) (c.ql + qG c) (getI g i)
    let t := fxDot (c.ql + qG c) (qG c) a.val ((List.range i).map fun k => (-(getM cols k i), getI y.val k))
    { val := y.val ++ [t.val], sat := y.sat || a.sat || t.sat }) { val := [] }
  let t := satMap (fun i => fxMul (qG c + qInv c) c.qx (getI y.val i) (getI inv i)) (List.range n)
  let x := (List.range n).foldl (fun (x : Sat (List Int)) k =>
    let i := n - 1 - k
    let a := fxTo64 c.qx (c.ql + c.qx) (getI t.val i)
    let r := fxDot (c.ql + c.qx) c.qx a.val ((List.range k).map fun m => (-(getM cols i (i + 1 + m)), getI x.val m))
    { val := r.val :: x.val, sat := x.sat || a.sat || r.sat }) { val := [] }
  { val := x.val, sat := y.sat || t.sat || x.sat }

/-! ### ADMM (R253, R254) -/

/-- A limit moved to Q_Y, shifted by a value; the extremes stay unbounded. -/
def limitAt (qi qo : Nat) (lim shift : Int) : Sat Int :=
  if lim = fxTop ∨ lim = fxBottom then { val := lim }
  else
    let s := satAdd lim (-shift)
    fxDrain qi qo s

/-- The limits on Ac x at Q_Y, less the linearisation point's part. -/
def Problem.limits (p : Problem) (c : ClassDecl) (xlin : List Int) (upper : Bool) : Sat (List Int) :=
  let cv := p.cMat.map (·.val)
  let box := satMapIdx (fun j l => limitAt c.qx c.qy l (getI xlin j)) (if upper then p.hi else p.lo)
  let rows := satMapIdx (fun r l =>
    let s := fxDot (c.qj + c.qx) c.qy 0 ((List.range p.n).map fun j => (getM cv r j, getI xlin j))
    let t := limitAt c.qy c.qy l s.val
    ({ val := t.val, sat := s.sat || t.sat } : Sat Int)) (if upper then p.ch else p.cl)
  { val := box.val ++ rows.val, sat := box.sat || rows.sat }

/-- Acᵀu at a binary point qo, u being at Q_Y. -/
def Problem.acT (p : Problem) (c : ClassDecl) (qo : Nat) (u : List Int) : Sat (List Int) :=
  let cv := p.cMat.map (·.val)
  satMap (fun j =>
    let a := fxTo64 c.qy (c.qj + c.qy) (getI u j)
    let t := fxDot (c.qj + c.qy) qo a.val ((List.range p.nc).map fun r => (getM cv r j, getI u (p.n + r)))
    { val := t.val, sat := a.sat || t.sat }) (List.range p.n)

/-- Ac x at Q_Y. -/
def Problem.ac (p : Problem) (c : ClassDecl) (x : List Int) : Sat (List Int) :=
  let cv := p.cMat.map (·.val)
  let box := satMap (fun v => fxDrain c.qx c.qy { val := v }) x
  let rows := satMap (fun r => fxDot (c.qj + c.qx) c.qy 0 ((List.range p.n).map fun j => (getM cv r j, getI x j))) (List.range p.nc)
  { val := box.val ++ rows.val, sat := box.sat || rows.sat }

/-- One ADMM phase: the new iterate, z_c, y, primal and dual residuals at Q_Y. -/
structure Admm where
  x : List Int
  zc : List Int
  y : List Int
  pri : Nat
  dual : Nat
  sat : Bool

def Problem.admm (p : Problem) (c : ClassDecl) (cols : List (List Int)) (inv g : List Int) (sigma rho : Int)
    (x zc y xlin : List Int) : Admm :=
  let k := List.range (p.n + p.nc)
  let lo := p.limits c xlin false
  let hi := p.limits c xlin true
  let rz := satMap (fun i => fxMul (c.qh + c.qy) c.qy rho (getI zc i)) k
  let u := satMap (fun i => satAdd (getI rz.val i) (-(getI y i))) k
  let at' := p.acT c (qG c) u.val
  let rhs := satMap (fun j =>
    let sx := fxMul (c.qh + c.qx) (qG c) sigma (getI x j)
    let t := satInt32 (sx.val + getI g j + getI at'.val j)
    ({ val := t.1, sat := sx.sat || t.2 } : Sat Int)) (List.range p.n)
  let xn := solveLdl c p.n cols inv rhs.val
  let v := p.ac c xn.val
  let ri := Sat.ofPair (fxPru .recip c.qh (qRhoInv c) rho)
  let zn := satMap (fun i =>
    let yr := fxMul (c.qy + qRhoInv c) c.qy (getI y i) ri.val
    let t := satAdd (getI v.val i) yr.val
    ({ val := min (max t.val (getI lo.val i)) (getI hi.val i), sat := yr.sat || t.sat } : Sat Int)) k
  let dv := satMap (fun i => satAdd (getI v.val i) (-(getI zn.val i))) k
  let yn := satMap (fun i =>
    let m := fxMul (c.qh + c.qy) c.qy rho (getI dv.val i)
    let t := satAdd (getI y i) m.val
    ({ val := t.val, sat := m.sat || t.sat } : Sat Int)) k
  let dz := satMap (fun i => satAdd (getI zn.val i) (-(getI zc i))) k
  let ad := p.acT c (qDual c) dz.val
  let dual := fxMul (c.qh + qDual c) c.qy rho (maxAbs ad.val : Int)
  { x := xn.val, zc := zn.val, y := yn.val, pri := maxAbs dv.val, dual := dual.val.toNat,
    sat := lo.sat || hi.sat || rz.sat || u.sat || at'.sat || rhs.sat || xn.sat || v.sat || ri.sat || zn.sat || dv.sat || yn.sat ||
      dz.sat || ad.sat || dual.sat }

/-! ### Cost of the phases (R264) -/

def ceil128 (n : Nat) : Nat := (n + 127) / 128

def Problem.phaseCost (p : Problem) (ph : SlvPhase) : Nat :=
  let t := ceil128 p.n
  let u := ceil128 p.hbw
  let r := ceil128 p.m
  let k := ceil128 (p.n + p.nc)
  match ph with
  | .unstarted => 0
  | .eval => 256 * r * (if p.banded then u + 1 else t) + 400
  | .form => if p.banded then 512 * r * (u + 1) else 512 * r * (t * (t + 1)) / 2
  | .factor => 64 * p.n + if p.banded then 512 * t * ((u + 1) * (u + 2)) / 2 else 512 * (t * (t + 1) * (t + 2)) / 6
  | .solve => 16 * p.n + 600
  | .admm => 16 * p.n + 664 + 256 * k * (if p.banded then u + 1 else t)

/-- Fragments of at most 8,192 cycles in a phase (R238). -/
def Problem.fragments (p : Problem) (ph : SlvPhase) : Nat := max 1 ((p.phaseCost ph + 8191) / 8192)

end Sys2Proof.Machine
end

