-- ==== Sys2Proof/Machine/Solver.lean ====
section
/-! DEFINITION. The solver: SLV_STRUCT, SLV_DELTA, SLV_BATCH, release, fragments, deadlines (R237–R263). -/

namespace Sys2Proof.Machine

def dSlvContext : Nat := 0x0701
def dSlvType : Nat := 0x0702
def dSlvBand : Nat := 0x0703
def dSlvQuad : Nat := 0x0704
def dSlvClass : Nat := 0x0705
def dSlvUnknown : Nat := 0x0706
def dSlvPlan : Nat := 0x0707
def dSlvShape : Nat := 0x0708
def dSlvFull : Nat := 0x0709
def dSlvParam : Nat := 0x070A
def dSlvCount : Nat := 0x070B
def dSlvDeadline : Nat := 0x070C

/-- Status codes of solver problems (R311). -/
def stRegularised : Nat := 0x02
def stDeadlineIterate : Nat := 0x03
def stStale : Nat := 0x04

/-- A loaded problem; the numbers run from 0 to 16,383 (R242). -/
def State.problem? (s : State) (c n : Nat) : Option Problem := if n < 16384 then tget s.problems (probKey c n) else none

def State.setProblem (s : State) (c n : Nat) (p : Problem) : State := { s with problems := tset s.problems (probKey c n) p }

/-- Class of a problem in the current plan of its slot. -/
def State.classOf (s : State) (c plan cls : Nat) : Option ClassDecl :=
  (tget (s.ctxD c).plans plan).bind fun p => p.body.classes.find? fun k => k.num == cls

/-- Problems FIRST to FIRST + COUNT − 1. -/
def span (first count : Nat) : List Nat := (List.range count).map (first + ·)

/-! ### SLV_STRUCT (R243, R244) -/

/-- A problem record with its entries and terms, from the bytes of the host. -/
structure SlvRecord where
  num : Nat
  kind : Nat
  cls : Nat
  banded : Bool
  n : Nat
  m : Nat
  nc : Nat
  hbw : Nat
  nent : Nat
  nquad : Nat
  maxit : Nat
  innerMax : Nat
  tauExp : Nat
  params : List Word
  reserved : Bool
  entries : List (Nat × Nat × Bool)
  vals : List (List Word)
  quads : List (Nat × Nat × Nat × Word)

/-- Reads the records of a LOAD; the entries, values and terms follow one another in problem order. -/
def readRecords (get : Nat → Nat → List Byte) (rec : Nat) : List Nat → Nat → Nat → Nat → List SlvRecord
  | [], _, _, _ => []
  | num :: rest, ent, val, quad =>
    let b := get rec 64
    let w (i : Nat) : Nat := (leWord b (4 * i)).toNat
    let nent := bitsOf (w 3) 0 20
    let nquad := bitsOf (w 4) 0 17
    let es := (List.range nent).map fun i => get (ent + 8 * i) 8
    let vs := (List.range nent).map fun i => get (val + 256 * i) 256
    let qs := (List.range nquad).map fun i => get (quad + 16 * i) 16
    let word (x : List Byte) (i : Nat) : Nat := (leWord x (4 * i)).toNat
    let res := bitsOf (w 0) 13 19 != 0 || bitsOf (w 1) 13 3 != 0 || bitsOf (w 1) 30 2 != 0 || bitsOf (w 2) 12 4 != 0 ||
      bitsOf (w 2) 25 7 != 0 || bitsOf (w 3) 20 12 != 0 || bitsOf (w 4) 17 15 != 0 || bitsOf (w 5) 22 10 != 0 ||
      (List.range 4).any (fun i => w (12 + i) != 0) ||
      es.any (fun x => bitsOf (word x 0) 20 12 != 0 || word x 1 != 0) ||
      qs.any (fun x => bitsOf (word x 0) 13 19 != 0 || bitsOf (word x 1) 12 4 != 0 || bitsOf (word x 1) 28 4 != 0 || word x 3 != 0)
    { num := num, kind := bitsOf (w 0) 0 2, cls := bitsOf (w 0) 2 10, banded := bitsOf (w 0) 12 1 == 1, n := bitsOf (w 1) 0 13,
      m := bitsOf (w 1) 16 14, nc := bitsOf (w 2) 0 12, hbw := bitsOf (w 2) 16 9, nent := nent, nquad := nquad,
      maxit := bitsOf (w 5) 0 9, innerMax := bitsOf (w 5) 9 8, tauExp := bitsOf (w 5) 17 5,
      params := (List.range 6).map fun i => leWord b (24 + 4 * i), reserved := res,
      entries := es.map fun x => (bitsOf (word x 0) 0 10, bitsOf (word x 0) 10 9, bitsOf (word x 0) 19 1 == 1),
      vals := vs.map fun x => (List.range 64).map fun k => leWord x (4 * k),
      quads := qs.map fun x => (bitsOf (word x 0) 0 13, bitsOf (word x 1) 0 12, bitsOf (word x 1) 16 12, leWord x 8) }
    :: readRecords get (rec + 64) rest (ent + 8 * nent) (val + 256 * nent) (quad + 16 * nquad)

def structFirst (d : Desc) : Nat := d.f 2 0 14
def structCount (d : Desc) : Nat := d.f 3 0 15
def structPlan (d : Desc) : Nat := d.f 3 17 3

def State.structRecords (s : State) (c : Nat) (d : Desc) : List SlvRecord :=
  readRecords (s.hostRead (s.ctxD c).port) (d.w64 4) (span (structFirst d) (structCount d)) (d.w64 6) (d.w64 8) (d.w64 10)

def ceil8 (n : Nat) : Nat := (n + 7) / 8

/-- Limits of the table Solver Limits and blocks outside N, M or NC (R242, R244). -/
def SlvRecord.badShape (r : SlvRecord) : Bool :=
  r.n == 0 || (if r.banded then decide (4096 < r.n) || decide (256 < r.hbw) else decide (512 < r.n)) ||
  decide (8192 < r.m) || (r.m == 0 && r.kind != 1) || decide (2048 < r.nc) || decide (65536 < r.nquad) ||
  r.maxit == 0 || decide (256 < r.maxit) ||
  r.entries.any (fun e => decide (ceil8 r.n ≤ e.2.1) || decide (ceil8 (if e.2.2 then r.nc else r.m) ≤ e.1)) ||
  r.quads.any (fun q => decide (r.m ≤ q.1) || decide (r.n ≤ q.2.1) || decide (r.n ≤ q.2.2.1))

/-- Bounds data in a WLS are constraint rows or their blocks; quadratic terms in a QP (R241, R244). -/
def SlvRecord.badType (r : SlvRecord) : Bool :=
  r.kind == 3 || (r.kind == 1 && r.nquad != 0) || (r.kind == 0 && (r.nc != 0 || r.entries.any fun e => e.2.2))

def SlvRecord.badBand (r : SlvRecord) : Bool :=
  r.banded && r.entries.any fun a => r.entries.any fun b =>
    a.1 == b.1 && a.2.2 == b.2.2 && decide (b.2.1 < a.2.1) && decide (r.hbw < (a.2.1 - b.2.1 + 1) * 8 - 1)

def SlvRecord.badQuad (r : SlvRecord) : Bool :=
  let has (row col : Nat) := r.entries.any fun e => !e.2.2 && e.1 == row / 8 && e.2.1 == col / 8
  r.quads.any fun q => !has q.1 q.2.1 || !has q.1 q.2.2.1

def SlvRecord.badParam (r : SlvRecord) : Bool :=
  r.params.any (fun w => !f32Finite w || f32Lt w 0) || b32.isZero (r.params.getD 4 0).toNat || b32.isZero (r.params.getD 5 0).toNat

/-- Entries and terms the device would hold after the load. -/
def State.structTotals (s : State) (c : Nat) (rs : List SlvRecord) : Nat × Nat :=
  let keep := s.problems.filter fun e => !(rs.any fun r => probKey c r.num == e.1)
  (keep.foldl (fun n e => n + e.2.entries.length) 0 + (rs.map (·.nent)).sum,
   keep.foldl (fun n e => n + e.2.quads.length) 0 + (rs.map (·.nquad)).sum)

def State.slvKind (s : State) (c : Nat) (d : Desc) : List (Bool × Nat) :=
  [((s.ctxD c).kind != .solve, dSlvContext), (d.inTxn, dTxnMember)]

def State.checkSlvStructLoad (s : State) (c : Nat) (d : Desc) : Checks :=
  let rs := s.structRecords c d
  let tot := s.structTotals c rs
  { fmt := firstBad (s.slvKind c d ++ [
      (reservedSet d [0x3FFF, 0xF7FFF, full, full, full, full, full, full, full, full] || decide (16384 < structCount d), dReserved),
      (d.w64 4 % 64 != 0, dAlign), (rs.any (·.reserved) || rs.any (fun r => r.tauExp == 31) || rs.any (fun r => r.kind == 2 && r.innerMax == 0),
        dReserved),
      (rs.any SlvRecord.badType, dSlvType), (rs.any SlvRecord.badBand, dSlvBand), (rs.any SlvRecord.badQuad, dSlvQuad),
      (structCount d != 0 && (tget (s.ctxD c).plans (structPlan d)).isNone, dSlvClass),
      (rs.any fun r => (s.classOf c (structPlan d) r.cls).isNone, dSlvClass)])
    lim := firstBad [
      (decide (16384 < structFirst d + structCount d) || rs.any SlvRecord.badShape, dSlvShape),
      (decide (65536 * s.rf .slvStructBase 16 5 < tot.1) || decide (4194304 < tot.2), dSlvFull),
      (rs.any SlvRecord.badParam, dSlvParam)] }

def State.checkSlvStructFree (s : State) (c : Nat) (d : Desc) : Checks :=
  { fmt := firstBad (s.slvKind c d ++ [
      (reservedSet d [0x3FFF, 0xF7FFF, full, full, full, full, full, full, full, full] || decide (16384 < structCount d), dReserved),
      (d.w64 4 % 64 != 0, dAlign)])
    lim := firstBad [(decide (16384 < structFirst d + structCount d), dSlvShape)] }

/-- Whether an unfinished batch holds one of the problems; released ones only, if asked. -/
def State.batchHolds (s : State) (c : Nat) (released : Bool) (ns : List Nat) : Bool :=
  s.batches.any fun b => b.ctx == c && (!released || b.released) && ns.any fun n => decide (b.first ≤ n) && decide (n < b.first + b.count)

/-- A problem as LOAD leaves it. -/
def SlvRecord.load (r : SlvRecord) (plan : Nat) (c : ClassDecl) : Problem :=
  let pr (i : Nat) := r.params.getD i 0
  let es := r.entries.zip r.vals |>.map fun x =>
    let e : SlvEntry := { row := x.1.1, col := x.1.2.1, constraint := x.1.2.2 }
    satMapIdx (fun k w => fxOfB32 (entryQ c e k) w) x.2 |> fun v => (({ e with vals := v.val } : SlvEntry), v.sat)
  let qs := r.quads.map fun q =>
    let v := fxOfB32 (coefQ c q.1) q.2.2.2
    (({ row := q.1, j := q.2.1, k := q.2.2.1, coef := v.val } : SlvQuad), v.sat)
  let one := satMapIdx (fun i (_ : Unit) => fxOfB32 (wQ c i) 0x3F800000) (List.replicate r.m ())
  { kind := r.kind, cls := r.cls, banded := r.banded, n := r.n, m := r.m, nc := r.nc, hbw := r.hbw, maxit := r.maxit,
    innerMax := r.innerMax, tauExp := r.tauExp, lambdaReg := pr 0, epsStep := pr 1, epsPri := pr 2, epsDual := pr 3, rho := pr 4,
    sigma := pr 5, plan := plan, entries := es.map (·.1), quads := qs.map (·.1), z := List.replicate r.m 0, w := one.val,
    lo := List.replicate r.n fxBottom, hi := List.replicate r.n fxTop, cl := List.replicate r.nc fxBottom,
    ch := List.replicate r.nc fxTop, slot := List.replicate r.n 0, dualZ := List.replicate (r.n + r.nc) 0,
    dualY := List.replicate (r.n + r.nc) 0, deltaSat := es.any (·.2) || qs.any (·.2) || one.sat, conv := c }

/-- A load waits for the unfinished batches that hold its problems (R244). -/
def State.startSlvStructLoad (s : State) (c : Nat) (d : Desc) : State :=
  let ns := span (structFirst d) (structCount d)
  if ns.isEmpty then s.finish c d stDoneEmpty 0 0
  else if s.batchHolds c false ns then s.setWait c d .window
  else
    let rs := s.structRecords c d
    let s := rs.foldl (fun s r =>
      s.setProblem c r.num (r.load (structPlan d) ((s.classOf c (structPlan d) r.cls).getD default))) s
    s.finish c d stDone 0 (BitVec.ofNat 32 (rs.map (·.nent)).sum)

def State.startSlvStructFree (s : State) (c : Nat) (d : Desc) : State :=
  let ns := span (structFirst d) (structCount d)
  if ns.isEmpty then s.finish c d stDoneEmpty 0 0
  else if s.batchHolds c false ns then s.setWait c d .window
  else
    let s := { s with problems := ns.foldl (fun (t : Table Problem) n => tdel t (probKey c n)) s.problems }
    s.finish c d stDone 0 0

/-! ### SLV_DELTA (R245–R248) -/

/-- A delta entry: problem, kind, index, value, element. -/
def deltaOf (b : List Byte) : Nat × Nat × Nat × Word × Nat :=
  (bitsOf (leWord b 0).toNat 0 14, bitsOf (leWord b 0).toNat 16 4, (leWord b 4).toNat, leWord b 8, (leWord b 12).toNat)

def deltaReserved (b : List Byte) : Bool :=
  let w0 := (leWord b 0).toNat
  let w3 := (leWord b 12).toNat
  bitsOf w0 14 2 != 0 || bitsOf w0 20 12 != 0 || (if bitsOf w0 16 4 = 7 then decide (64 ≤ w3) else w3 != 0)

def deltaCount (d : Desc) : Nat := d.f 2 0 20

def State.deltaBytes (s : State) (c : Nat) (d : Desc) : List (List Byte) :=
  (List.range (deltaCount d)).map fun i => s.hostRead (s.ctxD c).port (d.w64 3 + 16 * i) 16

def State.checkSlvDelta (s : State) (c : Nat) (d : Desc) : Checks :=
  { fmt := firstBad (s.slvKind c d ++ [
      (reservedSet d [0xFFFFF, full, full], dReserved), (d.w64 3 % 16 != 0, dAlign),
      ((s.deltaBytes c d).any deltaReserved, dReserved)]) }

/-- Whether an element of a block lies inside the problem: its row below M or NC and its column below N. -/
def Problem.hasElem (p : Problem) (e : SlvEntry) (elem : Nat) : Bool :=
  decide (8 * e.row + elem / 8 < if e.constraint then p.nc else p.m) && decide (8 * e.col + elem % 8 < p.n)

/-- One entry applied: none when it is skipped, else the problem and whether the value saturated (R246, R247). -/
def Problem.delta (p : Problem) (kind idx : Nat) (v : Word) (elem : Nat) : Option (Problem × Bool) :=
  let c := p.conv
  let put (l : List Int) (i : Nat) (q : Int) : Option (List Int × Bool) :=
    let x := fxOfB32 q v
    if i < l.length then some (l.set i x.val, x.sat) else none
  let bad := b32.isNan v.toNat || (!f32Finite v && !([2, 3, 4, 5].contains kind)) || (kind == 1 && f32Lt v 0)
  if 9 < kind ∨ bad then none
  else if kind = 9 then some ({ p with deltaSat := false }, false)
  else
    let r : Option (Problem × Bool) := match kind with
      | 0 => (put p.z idx (zQ c idx)).map fun x => ({ p with z := x.1 }, x.2)
      | 1 => (put p.w idx (wQ c idx)).map fun x => ({ p with w := x.1 }, x.2)
      | 2 => (put p.lo idx c.qx).map fun x => ({ p with lo := x.1 }, x.2)
      | 3 => (put p.hi idx c.qx).map fun x => ({ p with hi := x.1 }, x.2)
      | 4 => (put p.cl idx c.qy).map fun x => ({ p with cl := x.1 }, x.2)
      | 5 => (put p.ch idx c.qy).map fun x => ({ p with ch := x.1 }, x.2)
      | 6 => (put (p.start.getD p.slot) idx c.qx).map fun x => ({ p with start := some x.1 }, x.2)
      | 7 =>
        match p.entries[idx]? with
        | some e =>
          if p.hasElem e elem then
            (put e.vals elem (entryQ c e elem)).map fun x => ({ p with entries := p.entries.set idx { e with vals := x.1 } }, x.2)
          else none
        | none => none
      | _ =>
        match p.quads[idx]? with
        | some q => let x := fxOfB32 (coefQ c q.row) v; some ({ p with quads := p.quads.set idx { q with coef := x.val } }, x.sat)
        | none => none
    r.map fun x => ({ x.1 with deltaSat := x.1.deltaSat || x.2 }, x.2)

/-- Applies the entries left in order; those of a problem of a released unfinished batch stay (R246, R248). -/
def State.applyDeltas (s : State) (w : DeltaWait) : State × DeltaWait :=
  w.left.foldl (fun (a : State × DeltaWait) e =>
    if a.1.batchHolds w.ctx true [e.1] then (a.1, { a.2 with left := a.2.left ++ [e] })
    else match a.1.problem? w.ctx e.1 with
      | none => (a.1, { a.2 with skipped := a.2.skipped + 1 })
      | some p =>
        match p.delta e.2.1 e.2.2.1 e.2.2.2.1 e.2.2.2.2 with
        | none => (a.1, { a.2 with skipped := a.2.skipped + 1 })
        | some q => (a.1.setProblem w.ctx e.1 q.1, { a.2 with sat := a.2.sat + if q.2 then 1 else 0 })) (s, { w with left := [] })

/-- What a delta has come to: it completes once no entry of it is left, else it waits. -/
def State.runDeltas (s : State) (d : Desc) (w : DeltaWait) : State :=
  let r := s.applyDeltas w
  if r.2.left.isEmpty then r.1.finish w.ctx d stDone 0 (BitVec.ofNat 32 (min r.2.skipped 65535 + 65536 * min r.2.sat 65535))
  else ({ r.1 with deltas := r.1.deltas ++ [r.2] } : State).setWait w.ctx d .window

def State.startSlvDelta (s : State) (c : Nat) (d : Desc) : State :=
  let es := (s.deltaBytes c d).map deltaOf
  if es.isEmpty then s.finish c d stDoneEmpty 0 0
  else s.runDeltas d { ctx := c, seq := d.seq, left := es }

/-- A delta that waited for a batch is tried again. -/
def State.retryDelta (s : State) (c : Nat) (d : Desc) : State :=
  match s.deltas.find? fun w => w.ctx == c && w.seq == d.seq with
  | none => s
  | some w => ({ s with deltas := s.deltas.erase w } : State).runDeltas d w

/-! ### SLV_BATCH (R260, R263) -/

def batchFirst (d : Desc) : Nat := d.f 2 0 14
def batchCount (d : Desc) : Nat := d.f 3 0 13
def batchRelease (d : Desc) : Nat := d.w 4 + 2 ^ 32 * d.f 5 0 16
def batchDeadline (d : Desc) : Nat × Nat := (d.w 6 + 2 ^ 32 * d.f 7 0 16, d.f 7 16 16)

def State.checkSlvBatch (s : State) (c : Nat) (d : Desc) : Checks :=
  let ns := span (batchFirst d) (batchCount d)
  let ps := ns.filterMap (s.problem? c)
  let rel := batchRelease d
  let dl := batchDeadline d
  { fmt := firstBad (s.slvKind c d ++ [
      (reservedSet d [0x3FFF, 0x31FFF, full, 0xFFFF, full, full, full, full, full, full, 0xFFFF, 0x101FF], dReserved),
      (d.w64 8 % 32 != 0, dAlign), (d.w64 10 % 64 != 0, dAlign),
      (ns.any fun n => (s.problem? c n).isNone, dSlvUnknown),
      (ps.any fun p => p.plan != (ps.getD 0 default).plan, dSlvPlan),
      (ps.any fun p => (s.classOf c p.plan p.cls).isNone, dSlvClass)])
    lim := firstBad [
      (decide (4096 < batchCount d) || decide (256 < d.f 13 0 9) || ps.any (fun p => decide (64 * d.f 12 0 16 < 4 * p.n)), dSlvCount),
      (d.f 3 16 1 == 1 && d.f 3 17 1 == 1 && decide (dl.1 * 65536 + dl.2 ≤ rel * 65536), dSlvDeadline)] }

def State.startSlvBatch (s : State) (c : Nat) (d : Desc) : State :=
  if batchCount d = 0 then s.finish c d stDoneEmpty 0 0
  else
    let b : Batch :=
      { ctx := c, seq := d.seq, first := batchFirst d, count := batchCount d,
        release := if d.f 3 16 1 = 1 then some (batchRelease d) else none,
        deadline := if d.f 3 17 1 = 1 then some (batchDeadline d) else none,
        recAddr := d.w64 8, solAddr := d.w64 10, solStride := d.f 12 0 16, maxit := d.f 13 0 9, fmt32 := d.f 13 16 1 == 1,
        left := span (batchFirst d) (batchCount d) }
    { s with batches := s.batches ++ [b] }

/-! ### Ending a problem (R258–R262) -/

/-- How a problem ends. -/
structure Outcome where
  status : Nat
  vec : Option (List Int) := none
  flags : Nat := 0

def flagCap : Nat := 1
def flagNoPrior : Nat := 2
def flagFactorCut : Nat := 4
def flagUnstarted : Nat := 8
def flagDeltaSat : Nat := 16
def flagBounds : Nat := 32
def flagHoldover : Nat := 64

/-- The vector and flag of a DONE_STALE problem (R259). -/
def Problem.stale (p : Problem) (flags : Nat) : Outcome :=
  if p.delivered then { status := stStale, vec := some p.slot, flags := flags }
  else { status := stStale, vec := some (p.start.getD p.slot), flags := flags + flagNoPrior }

/-- The outcome at a fragment boundary, if the problem ends there (R251, R255, R258). -/
def Problem.outcome (p : Problem) (r : SlvRun) (expired : Bool) : Option Outcome :=
  let done := if r.regpiv = 0 then stDone else stRegularised
  if r.marked then some { status := stRangeSaturated }
  else if r.converged then some { status := done, vec := r.last }
  else if r.capped then some { status := done, vec := r.last, flags := flagCap }
  else if !expired then none
  else match r.phase with
    | .unstarted => some (p.stale flagUnstarted)
    | .factor => some (p.stale flagFactorCut)
    | ph =>
      if ph = .form ∧ r.left < p.fragments .form then some (p.stale flagFactorCut)
      else match r.last with
        | none => some (p.stale 0)
        | some v => some { status := stDeadlineIterate, vec := some v }

/-- Severity of a status in the order of R262. -/
def severity (st : Nat) : Nat :=
  if st = stRangeSaturated then 4 else if st = stStale then 3 else if st = stDeadlineIterate then 2
  else if st = stRegularised then 1 else 0

def State.batchOf (s : State) (c : Nat) (seq : Word) : Option Batch := s.batches.find? fun b => b.ctx == c && b.seq == seq

def State.setBatch (s : State) (b : Batch) : State :=
  { s with batches := s.batches.map fun x => if x.ctx == b.ctx && x.seq == b.seq then b else x }

/-- SLV_STRUCT and SLV_DELTA descriptors that waited for a batch are tried again. -/
def State.retrySolver (s : State) (c : Nat) : State :=
  ((s.ctxD c).opens.filter fun o => o.wait == .window && (o.desc.opcode == 0x30 || o.desc.opcode == 0x31)).foldl (fun s o =>
    if o.desc.opcode = 0x31 then s.retryDelta c o.desc
    else if o.desc.f 3 16 1 = 1 then s.startSlvStructFree c o.desc else s.startSlvStructLoad c o.desc) s

/-- The completion of a batch whose problems have all ended (R262). -/
def State.batchMaybeDone (s : State) (c : Nat) (seq : Word) : State :=
  match s.batchOf c seq with
  | none => s
  | some b =>
    if !b.left.isEmpty then s
    else
      let sts := b.ended.map fun e => e.2.toNat
      let worst := sts.foldl (fun m x => if severity m < severity x then x else m) stDone
      let res := (sts.filter (· != stDone)).length + 65536 * (sts.filter (· == stRangeSaturated)).length
      let s := { s with batches := s.batches.filter fun x => !(x.ctx == c && x.seq == seq) }
      (s.finishSeq c seq worst 0 (BitVec.ofNat 32 res)).retrySolver c

/-- The 32-byte record of a problem (R261). -/
def State.slvRecord (s : State) (n : Nat) (p : Problem) (o : Outcome) : List Byte :=
  let r := p.run.getD {}
  let hold := if s.cad.mode == .holdover then flagHoldover else 0
  -- 256 factorisations do not fit FACTORS: what it then reads is left open (log entry 100)
  let factors := if r.factors < 256 then r.factors else Config.freeNat 61 [r.factors] % 256
  [n + 65536 * o.status, r.iter + 512 * factors + 131072 * min r.regpiv 32767, s.stamp / 65536 % 2 ^ 32,
    s.phase + 65536 * (o.flags + hold), r.resA.toNat, r.resB.toNat, p.conv.qx, 0].flatMap fun w => leBytes 4 w

/-- Ends a problem of a batch: its solution, its record, its slot and duals; the pair it ran on is free (R258–R261). -/
def State.endProblem (s : State) (b : Batch) (n : Nat) (o : Outcome) : State :=
  match s.problem? b.ctx n with
  | none => s
  | some p =>
    let port := (s.ctxD b.ctx).port
    let i := n - b.first
    let sol : List Byte := match o.vec with
      | none => []
      | some v => v.flatMap fun x => leBytes 4 (if b.fmt32 then (b32OfFx p.conv.qx x).toNat else (x % 4294967296).toNat)
    let s := if sol.isEmpty then s else s.ctxWrite b.ctx port (b.solAddr + 64 * b.solStride * i) sol
    let s := s.ctxWrite b.ctx port (b.recAddr + 32 * i) (s.slvRecord n p o)
    let s := s.charge b.ctx 2 (sol.length + 32)
    let keep := o.status == stDone || o.status == stRegularised || o.status == stDeadlineIterate
    let r := p.run.getD {}
    let p' : Problem := { p with
      run := none, slot := if keep then o.vec.getD p.slot else p.slot, delivered := p.delivered || keep,
      dualZ := if keep && p.kind != 0 then r.zc else p.dualZ, dualY := if keep && p.kind != 0 then r.y else p.dualY,
      start := if o.status = stRangeSaturated then p.start else none }
    let s := s.setProblem b.ctx n p'
    let s := { s with pairs := s.pairs.map fun (e : Nat × TwinPair) =>
      if e.2.problem = some (b.ctx, n) then (e.1, { e.2 with problem := none }) else e }
    let s := match s.batchOf b.ctx b.seq with
      | some b => s.setBatch { b with left := b.left.filter (· != n), ended := tset b.ended n (BitVec.ofNat 8 o.status) }
      | none => s
    s.batchMaybeDone b.ctx b.seq

/-! ### Release (R257) -/

def State.deadlinePast (s : State) (b : Batch) : Bool :=
  match b.deadline with
  | some (f, ph) => decide (f * 65536 + ph ≤ s.stamp)
  | none => false

/-- A problem's parameters converted at release, and its start (R239, R252, R256). -/
def Problem.begin (p : Problem) (batchMax tauDefault : Nat) : SlvRun :=
  let c := p.conv
  let q (k : Nat) (w : Word) := fxOfB32 k w
  let lam := q c.qh p.lambdaReg
  let sig := q c.qh p.sigma
  let rho := q c.qh p.rho
  let es := q c.qx p.epsStep
  let ep := q c.qy p.epsPri
  let ed := q c.qy p.epsDual
  { cls := c, tau := if p.tauExp = 0 then tauDefault else p.tauExp,
    cap := if batchMax = 0 then p.maxit else min p.maxit batchMax,
    lam := lam.val, sigma := sig.val, rho := rho.val, epsStep := es.val, epsPri := ep.val, epsDual := ed.val,
    x := p.start.getD p.slot, delta := List.replicate p.n 0, zc := p.dualZ, y := p.dualY,
    marked := lam.sat || sig.sat || rho.sat || es.sat || ep.sat || ed.sat }

/-- Whether a lower limit exceeds its upper limit. -/
def Problem.badBounds (p : Problem) : Bool :=
  (List.range p.n).any (fun j => decide (getI p.hi j < getI p.lo j)) || (List.range p.nc).any fun r => decide (getI p.ch r < getI p.cl r)

/-- Releases one problem of a batch: it begins, or ends at once (R247, R257). -/
def State.releaseProblem (s : State) (b : Batch) (late : Bool) (n : Nat) : State :=
  match s.problem? b.ctx n with
  | none => s
  | some p =>
    let cls := s.classOf b.ctx p.plan p.cls
    let p := match cls with
      | some k =>
        let p := p.moveTo k
        { p with run := some (p.begin b.maxit (s.rf .slvPivotCfg 0 5)) }
      | none => p
    let s := s.setProblem b.ctx n p
    if late then s.endProblem b n (p.stale flagUnstarted)
    else if p.deltaSat then s.endProblem b n { status := stRangeSaturated, flags := flagDeltaSat }
    else if p.badBounds then s.endProblem b n { status := stRangeSaturated, flags := flagBounds }
    else if cls.isNone then s.endProblem b n (p.stale flagUnstarted)
    else s

/-- BATCH_RELEASE. -/
def execBatchRelease (c : Nat) (seq : Word) (s : State) : Host.Outcome State Fault Refusal :=
  match s.batchOf c seq with
  | none => .next s
  | some b =>
    if !s.batchReady b then .next s
    else
      let late := s.deadlinePast b
      let b := { b with released := true, expired := b.expired || late }
      let s := s.setBatch b
      .next (b.left.foldl (fun s n => s.releaseProblem b late n) s)

/-! ### Running (R238, R252–R254) -/

/-- Whether a context may put a problem on a pair: its own, or one lent to it, idle. -/
def State.pairForProblem (s : State) (c p : Nat) : Bool :=
  let x := s.pair p
  !x.fallow && x.problem.isNone && s.pairCtx p == c && !(x.lent && x.returnAt.isSome) &&
  (s.arr (2 * p)).mode == .halted && (s.arr (2 * p + 1)).mode == .halted

/-- Whether no other pair of the context became free before this one; of pairs free since one cycle the lower takes the lower problem
(R238). -/
def State.firstFree (s : State) (c p : Nat) : Bool :=
  let since (q : Nat) : Nat := (s.pair q).freeSince.getD s.now
  (List.range 48).all fun q => q == p || !s.pairForProblem c q || decide (since p < since q) || (since p == since q && decide (p < q))

def Problem.firstPhase (p : Problem) : SlvPhase := if p.kind = 1 then .form else .eval

/-- PROBLEM_START: the pair of a context that became free first takes its next problem (R238). -/
def execProblemStart (c pair : Nat) (s : State) : Host.Outcome State Fault Refusal :=
  if 48 ≤ pair then .fault .noSuchUnit
  else if !s.pairForProblem c pair || !s.firstFree c pair || (s.ctxD c).mode != .resident || (s.ctxD c).suspended || (s.ctxD c).onHold then .next s
  else match s.nextProblem c with
    | none => .next s
    | some (_, n) =>
      match s.problem? c n with
      | none => .next s
      | some p =>
        let r := p.run.getD {}
        let r := if r.phase = .unstarted then { r with phase := p.firstPhase, left := p.fragments p.firstPhase } else r
        .next ((s.setProblem c n { p with run := some r }).modPair pair fun x => { x with problem := some (c, n) })

/-- The run goes on to a phase. -/
def SlvRun.to (r : SlvRun) (p : Problem) (ph : SlvPhase) : SlvRun := { r with phase := ph, left := p.fragments ph }

/-- The end of an iteration: counted, its iterate and residual kept; capped unless it converged (R252, R255). -/
def SlvRun.iterated (r : SlvRun) (conv : Bool) (x : List Int) (resA : Word) : SlvRun :=
  { r with iter := r.iter + 1, last := some x, resA := resA, converged := conv, capped := !conv && decide (r.cap ≤ r.iter + 1) }

/-- What a phase computes at its end. -/
def Problem.phaseEnd (p : Problem) (r : SlvRun) : SlvRun :=
  let c := r.cls
  match r.phase with
  | .unstarted => r
  | .eval =>
    let e := p.eval c r.x
    let rs : List Int := e.val.map fun (x : Int × List Int) => x.1
    let js : List (List Int) := e.val.map fun (x : Int × List Int) => x.2
    { r with r := rs, jac := js, marked := r.marked || e.sat }.to p .form
  | .form =>
    let jac := if p.kind = 1 then satMap (fun i => (p.evalRow c (List.replicate p.n 0) i)) (List.range p.m) else { val := [] }
    let jm := if p.kind = 1 then jac.val.map (·.2) else r.jac
    let res := if p.kind = 1 then p.z else r.r
    let f := p.form c res jm
    let h := if p.kind = 0 then { val := f.val.1 } else p.addPenalty c r.sigma r.rho f.val.1
    { r with h := h.val, g := f.val.2, jac := jm, marked := r.marked || jac.sat || f.sat || h.sat }.to p .factor
  | .factor =>
    let f := factor c p.n r.tau r.lam r.h
    { r with l := f.cols, d := f.inv, factors := r.factors + 1, regpiv := r.regpiv + f.regpiv, marked := r.marked || f.sat,
             inner := 0 }.to p (if p.kind = 0 then .solve else .admm)
  | .solve =>
    let dx := solveLdl c p.n r.l r.d r.g
    let x := satMapIdx (fun j v => satAdd (getI r.x j) v) dx.val
    let conv := p.quads.isEmpty || decide ((maxAbs dx.val : Int) ≤ r.epsStep)
    ({ r with x := x.val, resB := p.cost c r.r, marked := r.marked || dx.sat || x.sat }.iterated conv x.val (b32OfFx c.qx (maxAbs dx.val))).to p .eval
  | .admm =>
    let outer := p.kind == 2
    let xlin := if outer then r.x else List.replicate p.n 0
    let a := p.admm c r.l r.d r.g r.sigma r.rho (if outer then r.delta else r.x) r.zc r.y xlin
    let inner := decide ((a.pri : Int) ≤ r.epsPri) && decide ((a.dual : Int) ≤ r.epsDual)
    let r := { r with zc := a.zc, y := a.y, marked := r.marked || a.sat, inner := r.inner + 1 }
    if outer then
      let x := satMapIdx (fun j v => satAdd (getI r.x j) v) a.x
      let conv := inner && decide ((maxAbs a.x : Int) ≤ r.epsStep)
      let r := { r with delta := a.x, resB := p.cost c r.r, marked := r.marked || x.sat }.iterated conv x.val (b32OfFx c.qx (maxAbs a.x))
      if inner || decide (p.innerMax ≤ r.inner) then { r with x := x.val, delta := List.replicate p.n 0 }.to p .eval
      else r.to p .admm
    else
      ({ r with x := a.x, resB := b32OfFx c.qy a.dual }.iterated inner a.x (b32OfFx c.qy a.pri)).to p .admm

/-- A fragment of a phase: at its last fragment the phase's results appear. A saturation of the phase marks the problem at the fragment in
which it happens; which one that is is left open (R238, R251; log entry 100). -/
def Problem.fragmentEnd (p : Problem) (r : SlvRun) (key : Nat) : SlvRun :=
  let e := p.phaseEnd r
  if r.left ≤ 1 then e else { r with left := r.left - 1, marked := r.marked || (e.marked && Config.freeNat 62 [key] % 2 == 1) }

/-- The solver state region of a plan holds what a problem carries between fragments, in a layout the spec does not give: its bytes are left
open (R238; log entry 100). -/
def State.solverHeld (s : State) (c plan key : Nat) : State :=
  match tget (s.ctxD c).plans plan with
  | none => s
  | some pl =>
    let n := s.regionLen c pl.body.solverRegion
    s.regionPut c pl.body.solverRegion 0 ((List.range n).map fun i => Config.freeByte key i)

/-- A saturation of solver work sets FX_SAT of the arrays of the pair on which it happens; on which of the two is left open (R44; log entry
100). -/
def State.solverSat (s : State) (pair key : Nat) : State :=
  let k := Config.freeNat 63 [key] % 3 + 1
  let set (s : State) (a : Nat) : State := s.modArr a fun x => { x with sticky := x.sticky ||| stickyFxSat }
  let s := if k % 2 = 1 then set s (2 * pair) else s
  if 2 ≤ k then set s (2 * pair + 1) else s

/-- SOLVER_FRAGMENT: one fragment of a problem's phase ends (R238, R251, R258). A pair asked back returns. -/
def execSolverFragment (c problem : Nat) (s : State) : Host.Outcome State Fault Refusal :=
  match s.problemPair c problem, s.problem? c problem, s.batches.find? fun b => b.ctx == c && b.released && b.left.contains problem with
  | some pair, some p, some b =>
    match p.run with
    | none => .next s
    | some r =>
      let (key, s) := s.fresh
      let n := p.fragmentEnd r key
      let s := if n.marked && !r.marked then s.solverSat pair key else s
      let p := { p with run := some n }
      let s := (s.setProblem c problem p).solverHeld c p.plan key
      let s := match p.outcome n (b.expired || s.deadlinePast b) with
        | some o => s.endProblem b problem o
        | none => s
      let x := s.pair pair
      .next (if x.lent && x.returnAt.isSome then s.giveBack pair
             else if (s.ctxD c).onHold then s.modPair pair fun x => { x with problem := none } else s)
  | _, _, _ => .next s

/-- DEADLINE: problems that no pair runs end at once; the others end at their next fragment boundary (R258). -/
def execDeadline (c : Nat) (seq : Word) (s : State) : Host.Outcome State Fault Refusal :=
  match s.batchOf c seq with
  | none => .next s
  | some b =>
    if !s.deadlinePast b then .next s
    else
      let b := { b with expired := true }
      let s := s.setBatch b
      if !b.released then .next s
      else .next ((b.left.filter fun n => (s.problemPair c n).isNone).foldl (fun s n =>
        match s.problem? c n with
        | some p =>
          match p.run with
          | some r => match p.outcome r true with | some o => s.endProblem b n o | none => s
          | none => s
        | none => s) s)

end Sys2Proof.Machine
end

