-- ==== Sys2Proof/Machine/Sched.lean ====
section
/-! DEFINITION. Contexts, partitions, lending, fallow pairs, swapping and weirs (R290, R291, R314–R331, R391–R393). -/

namespace Sys2Proof.Machine

def dRing : Nat := 0x0109

/-! ### Reading a doorbell entry (R290, R291) -/

/-- Bus address of an entry of a port's doorbell table; none while the table is not enabled. -/
def State.doorbellAddr (s : State) (p : Port) (entry : Nat) : Option Nat :=
  if s.rfp .hifDoorbellBase p 0 1 == 1 then some (s.rfp .hifDoorbellBase p 12 52 * 4096 + 64 * entry) else none

/-- The ring binding an entry gives; none where it cannot be read or a size lies outside 6–16. -/
def State.readRing (s : State) (p : Port) (c : Nat) : Option Ring :=
  match s.doorbellAddr p c with
  | none => none
  | some a =>
    let f (off n : Nat) : Nat := leNat (s.hostRead p (a + off) n)
    let ok (n : Nat) : Bool := decide (6 ≤ n) && decide (n ≤ 16)
    if s.portOpen p && ok (f 32 1) && ok (f 33 1) then
      some { bound := true, sqBase := f 8 8, cqBase := f 16 8, notify := f 24 8, sqLog2 := f 32 1, cqLog2 := f 33 1,
             fetch := f 0 4, cqWrite := f 4 4, cqHead := f 4 4 }
    else none

/-! ### MGMT CTX_DEFINE (R317, R318) -/

def mgmtCtx (d : Desc) : Nat := d.f 3 0 8

/-- Checks of R288, R205 and R301 that the context functions share. -/
def State.mgmtFmt (_ : State) (d : Desc) (member : Bool) (masks : List Nat) : List (Bool × Nat) :=
  [(d.inTxn && !member, dTxnMember), (reservedSet d (0xFF :: masks), dReserved)]

def kindOf (n : Nat) : Kind := match n with | 0 => .train | 1 => .solve | 2 => .aux | _ => .management

def State.checkCtxDefine (s : State) (c : Nat) (d : Desc) : Checks :=
  let n := mgmtCtx d
  let p := if d.f 3 8 1 = 1 then Port.tenant else Port.steward
  { auth := s.isSteward c
    fmt := firstBad (s.mgmtFmt d false [0x1FFF] ++ [(d.f 3 9 2 == 3, dReserved)])
    lim := firstBad [(n == 0 || (s.ctx? n).isSome, 0), (d.f 3 9 2 == 0 && s.trainCtx?.isSome, 0), ((s.readRing p n).isNone, dRing)] }

/-- A context just defined: SWAPPED, without a partition, its tokens 0. -/
def State.newCtx (s : State) (kind : Kind) (p : Port) (r : Ring) : Ctx :=
  { kind := kind, port := p, ring := r, interval := pollUnits (s.rf .hifPollCfg 1 10) }

def State.startCtxDefine (s : State) (c : Nat) (d : Desc) : State :=
  let n := mgmtCtx d
  let p := if d.f 3 8 1 = 1 then Port.tenant else Port.steward
  match s.readRing p n with
  | none => s
  | some r =>
    let s := { s with ctxs := tset s.ctxs n (s.newCtx (kindOf (d.f 3 9 2)) p r) }
    (s.setField .ctxPrio n .steward 0 2 (d.f 3 11 2)).finish c d stDone 0 0

/-! ### MGMT PART_SET (R318, R319, R324) -/

def bitList (v n : Nat) : List Nat := (List.range n).filter fun i => bitsOf v i 1 == 1

def partPairs (d : Desc) : List Nat := bitList (d.w 4 + 2 ^ 32 * d.f 5 0 16) 48
def partSlices (d : Desc) : List Nat := bitList (d.w 6 + 2 ^ 32 * d.w 7 + 2 ^ 64 * d.w 8) 96
def partBorrower (d : Desc) : Nat := d.f 3 8 8

/-- Bytes and pages of a sector's part of the swap area of a set of slices, the 64 KiB with the first part (R324). -/
def swapPart (slices : List Nat) (secs : List Nat) (k : Nat) : Nat :=
  ((slices.filter fun n => n / 16 == k).length * sliceSize + (if secs.head? = some k then 65536 else 0) + pageSize - 1) / pageSize

def sliceSectors (slices : List Nat) : List Nat := (List.range 6).filter fun k => slices.any fun n => n / 16 == k

/-- Where each slice's contents lie in a swap area: the slices of a sector in order from the start of its part (log entry 32). -/
def swapHomes (slices : List Nat) (pages : List (Nat × Nat)) : Table Nat :=
  let secs := sliceSectors slices
  (secs.foldl (fun (acc : List (Nat × Nat) × Table Nat) k =>
    let mine := slices.filter fun n => n / 16 == k
    let homes := mine.zipIdx.map fun (e : Nat × Nat) =>
      let g := acc.1.getD (e.2 / 2) (0, 0)
      (e.1, hbmAddr g.1 g.2 (e.2 % 2 * sliceSize))
    (acc.1.drop (swapPart slices secs k), acc.2 ++ homes)) (pages, [])).2

/-- Slice contents written to their places. -/
def State.saveSlices (s : State) (homes : Table Nat) (contents : Nat → Memory) : State :=
  { s with hbm := homes.foldl (fun m e => memMove (memErase m e.2 sliceSize) 0 e.2 (contents e.1)) s.hbm }

/-- The swap area of a set of slices: each sector's part on one of its near stacks, the 64 KiB with the first part; which
near stack and which pages are left open (log entries 10, 32). -/
def State.swapAlloc (s : State) (slices : List Nat) : Option (State × List (Nat × Nat)) :=
  let secs := sliceSectors slices
  secs.foldl (fun (acc : Option (State × List (Nat × Nat))) k =>
    acc.bind fun a =>
      let pages := swapPart slices secs k
      match pickFree 7 [k, pages] ((a.1.nearStacks k).filter fun st => decide (pages ≤ a.1.allocatable st)) with
      | none => none
      | some st => let r := a.1.takePages st none pages; some (r.1, a.2 ++ r.2.map fun g => (st, g))) (some (s, []))

/-- Whether a partition meets another resident one, or breaks the slice rule of R316. -/
def State.partBad (s : State) (n : Nat) (pairs slices : List Nat) : Bool :=
  (s.ctxs.any fun e => e.1 != n && e.2.mode == .resident && (e.2.pairs.any pairs.contains || e.2.slices.any slices.contains)) ||
  pairs.any fun p => !(slices.any fun k => k / 16 == p / 8)

def State.checkPartSet (s : State) (c : Nat) (d : Desc) : Checks :=
  let n := mgmtCtx d
  let b := partBorrower d
  { auth := s.isSteward c
    fmt := firstBad (s.mgmtFmt d true [0xFFFF, full, 0xFFFF, full, full, full])
    lim := firstBad [
      (n == 0 || (s.ctx? n).isNone, 0), ((partPairs d).isEmpty || (partSlices d).isEmpty, 0),
      (s.partBad n (partPairs d) (partSlices d), 0),
      (b != 0 && ((s.ctxD n).kind != .train || (s.ctx? b).isNone || (s.ctxD b).kind == .train || b == n), 0),
      ((s.swapAlloc (partSlices d)).isNone, 0)] }

/-- Accepted: the swap area is allocated. A member completes and its change is held back; any other waits for its change
point. -/
def State.startPartSet (s : State) (c : Nat) (d : Desc) : State :=
  match s.swapAlloc (partSlices d) with
  | none => s
  | some (s, swap) =>
    let ch : PartChange := { pairs := partPairs d, slices := partSlices d, borrower := partBorrower d,
                             seq := if d.inTxn then none else some d.seq, swap := swap }
    match s.txnOf c d with
    | some t => (s.setTxn { t with deferred := t.deferred ++ [.partition (mgmtCtx d) ch] }).finish c d stDone 0 0
    | none => (s.modCtx (mgmtCtx d) fun x => { x with changes := x.changes ++ [ch] }).setWait c d .change

/-- A change that its transaction's commit releases: from then it waits for its change point (R319). -/
def State.releaseChange (s : State) (n : Nat) (ch : PartChange) : State :=
  s.modCtx n fun x => { x with changes := x.changes ++ [ch] }

/-- A step commit of the TRAIN context: changes that wait have their commit (R319). -/
def State.stepCommitted (s : State) (c : Nat) : State :=
  s.modCtx c fun x => { x with changes := x.changes.map fun (q : PartChange) => { q with due := true } }

/-! ### The change point (R319, R320) -/

/-- Whether a context is at the change point of its oldest waiting change. -/
def State.atChangePoint (s : State) (n : Nat) (x : Ctx) (ch : PartChange) : Bool :=
  x.mode != .resident || !s.partBad n ch.pairs ch.slices &&
  match x.kind with
  | .train => ch.due && !(s.runs.any fun r => r.ctx == n && !r.afterChange)
  | .solve => !(s.batches.any fun b => b.ctx == n && b.released)
  | .aux => !(s.runs.any fun r => r.ctx == n)
  | .management => true

/-- Asks for a lent pair back; a pair whose borrower runs nothing returns at once (R322). -/
def State.askBack (s : State) (p : Nat) : State :=
  let x := s.pair p
  if !x.lent then s
  else
    let s := if x.returnAt.isSome then s else s.modPair p fun x => { x with returnAt := some s.now }
    if x.problem.isNone && (s.arr (2 * p)).mode == .halted && (s.arr (2 * p + 1)).mode == .halted then s.giveBack p else s

/-- Refreshes of groups that have no pair left in the new partition are abandoned (R320 step 2). -/
def State.abandonLeft (s : State) (x : Ctx) (pairs : List Nat) : State :=
  s.abandon fun r =>
    match tget s.blocks r.block with
    | none => false
    | some b =>
      match tget s.stats (statKey b.obj b.side) with
      | none => false
      | some t =>
        x.plans.any fun (e : Nat × Plan) =>
          (e.2.body.stats.any fun q => q.obj == b.obj && q.side == b.side) &&
          match groupSectors x.pairs e.2.body.groups with
          | some secs => !(pairs.any fun p => some (p / 8) == secs[t.decl.group]?)
          | none => false

/-- A PART_SET that waited for its change point completes. -/
def State.changeDone (s : State) (n : Nat) (seq : Word) (status : Nat) (result : Word) : State :=
  match s.ctxs.find? fun e => e.2.opens.any fun o => o.desc.seq == seq && o.wait == .change && mgmtCtx o.desc == n with
  | some e => s.finishSeq e.1 seq status 0 result
  | none => s

/-- Partition changes of a freed context will not happen: their swap areas go back, their PART_SETs complete (log entry 59). -/
def State.dropChanges (s : State) (n : Nat) : State :=
  (s.ctxD n).changes.foldl (fun s q =>
    let s := q.swap.foldl (fun s g => s.givePage g.1 g.2) s
    match q.seq with
    | some q => s.changeDone n q stTornDown 0
    | none => s) s

/-- Counters of an array whose pair changes owner are disabled and cleared (R365). -/
def State.clearArrayCounters (s : State) (a : Nat) : State :=
  let s := (List.range 8).foldl (fun s k =>
    (s.setField .pmcEvselArray (8 * a + k) .steward 24 1 0).setReg .pmcCtrArray (8 * a + k) .steward 0) s
  s.setReg .pmcOvfArray a .steward 0

/-- Runs accepted after the step commit whose plan the change discarded complete PLAN_EMPTY. -/
def State.dropLateRuns (s : State) (n : Nat) : State :=
  let gone := s.runs.filter fun r => r.ctx == n && (tget (s.ctxD n).plans r.slot).isNone
  let s := { s with runs := s.runs.filter fun r => !(r.ctx == n && (tget (s.ctxD n).plans r.slot).isNone) }
  gone.foldl (fun s r => s.finishSeq n r.seq stLimit 0x0208 0) s

/-- The change itself, once no leaving pair is lent (R320 steps 2 to 6). -/
def State.changePartition (s : State) (n : Nat) (x : Ctx) (ch : PartChange) : State :=
  let s := if x.kind = .train then s.abandonLeft x ch.pairs else s
  let bad := (x.plans.filter fun (e : Nat × Plan) => (groupSectors ch.pairs e.2.body.groups).isNone).map fun e => e.1
  let s := bad.foldl (fun s k => s.dropPlan n k) s
  let moved := if x.mode = .swapped then [] else
    (List.range 48).filter fun p => x.pairs.contains p != ch.pairs.contains p
  let s := moved.foldl (fun s p => ((s.stopPair p).clearArrayCounters (2 * p)).clearArrayCounters (2 * p + 1)) s
  let s := (ch.pairs.filter fun p => !x.pairs.contains p && (s.pair p).fallow).foldl (fun s p => s.modPair p fun x => { x with wake := true }) s
  let cut := if x.mode = .swapped then [] else x.slices.filter fun k => !ch.slices.contains k
  let s := cut.foldl (fun s k => s.setSlice k []) s
  let old := swapHomes x.slices x.swapPages
  let s := if x.mode = .swapped then
    s.saveSlices ((swapHomes ch.slices ch.swap).filter fun e => x.slices.contains e.1) fun k => memCut s.hbm (tgetD old k 0) sliceSize else s
  let s := x.swapPages.foldl (fun s g => s.givePage g.1 g.2) s
  let s := s.modCtx n fun x =>
    { x with pairs := ch.pairs, slices := ch.slices, borrower := ch.borrower, swapPages := ch.swap, changes := x.changes.drop 1,
             keptSlices := x.keptSlices.map fun t => t.filter fun e => ch.slices.contains e.1 }
  let s := { s with swapArrays := tset s.swapArrays n ((tgetD s.swapArrays n []).filter fun e => ch.pairs.contains (e.1 / 2)) }
  let bits := ch.pairs.foldl (fun m p => m + 2 ^ p) 0
  let step := if x.kind = .train then tgetD s.lastSealed n 0 else 0
  let s := s.event (s.bothPorts n) 0x0012 0 n
    [BitVec.ofNat 32 n, BitVec.ofNat 32 bits, BitVec.ofNat 32 (bits / 2 ^ 32), BitVec.ofNat 32 step, BitVec.ofNat 32 bad.length]
  let s := { s with runs := s.runs.map fun (r : Run) => if r.ctx = n then { r with afterChange := false } else r }
  let s := s.dropLateRuns n
  match ch.seq with
  | none => s
  | some q =>
    s.changeDone n q stDone (BitVec.ofNat 32 bad.length)

/-- PARTITION_CHANGE: at the change point lent pairs that leave are asked back; once none is lent the change happens. -/
def execPartitionChange (c : Nat) (s : State) : Host.Outcome State Fault Refusal :=
  match s.ctx? c with
  | none => .next s
  | some x =>
    match x.changes with
    | [] => .next s
    | ch :: _ =>
      if !s.atChangePoint c x ch then .next s
      else
        let leaving := if x.mode = .swapped then [] else x.pairs.filter fun p => !ch.pairs.contains p
        let s := leaving.foldl (fun s p => if x.mode = .tornDown then (s.stopPair p).unlend p else s.askBack p) s
        if leaving.any fun p => (s.pair p).lent then .next s
        else .next (s.changePartition c (s.ctxD c) ch)

/-! ### MGMT CTX_TEARDOWN and CTX_FREE (R318, R327) -/

def State.checkCtxTeardown (s : State) (c : Nat) (d : Desc) : Checks :=
  { auth := s.isSteward c
    fmt := firstBad (s.mgmtFmt d false [0xFF])
    lim := firstBad [(mgmtCtx d == 0 || (s.ctx? (mgmtCtx d)).isNone, 0)] }

def State.startCtxTeardown (s : State) (c : Nat) (d : Desc) : State := (s.teardown (mgmtCtx d) 3).finish c d stDone 0 0

def State.checkCtxFree (s : State) (c : Nat) (d : Desc) : Checks :=
  let n := mgmtCtx d
  { auth := s.isSteward c
    fmt := firstBad (s.mgmtFmt d false [0xFF])
    lim := firstBad [(n == 0 || (s.ctx? n).isNone, 0),
      ((s.ctxD n).mode != .tornDown && (!(s.ctxD n).opens.isEmpty || s.txns.any fun t => t.ctx == n && t.isOpen), 0)] }

/-- The resident model goes with its TRAIN context: objects, statistics, factor blocks, refreshes, the update. -/
def State.freeModel (s : State) (n : Nat) : State :=
  let mine (o : Nat) : Bool := s.objCtx o == n
  let old := s.objects.flatMap fun (e : Nat × Obj) =>
    if e.2.ctx = n then (e.2.live.filter fun v => v.number != e.2.version).flatMap fun v => versionOwnPages e.2 v else []
  let s := s.abandon fun _ => true
  let s := s.poolGive old.eraseDups
  { s with blocks := s.blocks.filter fun (e : Nat × Block) => !mine e.2.obj,
           stats := s.stats.filter fun (e : Nat × Stat) => !mine e.2.decl.obj,
           objects := s.objects.filter fun (e : Nat × Obj) => e.2.ctx != n,
           curv := { s.curv with credit := 0, results := [], requests := [], seals := 0, lastSeal := 0, spacing := 0, cfgDue := [], sealing := none },
           gran := s.gran.filter fun g => g.ctx != n,
           lastSealed := tdel s.lastSealed n }

/-- Frees a context: pairs, slices, swap area, pages, blocks, entries and slots are released, its number is free. -/
def State.freeCtx (s : State) (n : Nat) : State :=
  match s.ctx? n with
  | none => s
  | some x =>
    let s := (((s.dropTxns n).dropRuns n).dropWork n).dropChanges n
    let s := (s.lentTo n).foldl (fun s p => s.giveBack p) s
    let own := if x.holds then x.pairs else []
    let s := own.foldl (fun s p => (s.stopPair p).unlend p) s
    let s := (if x.holds then x.slices else []).foldl (fun s k => s.setSlice k []) s
    let s := if x.kind = .train then s.freeModel n else s
    let s := x.swapPages.foldl (fun s g => s.givePage g.1 g.2) s
    let s := x.plans.foldl (fun s e => s.freeTable e.2.cache.pages) s
    let s := x.regions.foldl (fun s e => s.freeTable e.2.pages) s
    let s := { s with problems := s.problems.filter fun e => e.1 / 16384 != n,
                      swapArrays := tdel s.swapArrays n, swapWaiters := tdel s.swapWaiters n, ctxs := tdel s.ctxs n }
    s.settleStacks

def State.startCtxFree (s : State) (c : Nat) (d : Desc) : State := (s.freeCtx (mgmtCtx d)).finish c d stDone 0 0

/-! ### Lending (R322) -/

/-- PAIR_RETURN_REQUEST: the lender has a segment ready for a lent pair. -/
def execPairReturnRequest (pair : Nat) (s : State) : Host.Outcome State Fault Refusal :=
  if 48 ≤ pair then .fault .noSuchUnit
  else if s.segmentReady (s.pairOwner pair) pair then .next (s.askBack pair) else .next s

/-- BORROWER_OVERRUN: 65,536 cycles after the pair was asked back the borrower faults, and the pair is back at once. -/
def execBorrowerOverrun (pair : Nat) (s : State) : Host.Outcome State Fault Refusal :=
  if 48 ≤ pair then .fault .noSuchUnit
  else
    let x := s.pair pair
    if x.lent && s.lastedFor x.returnAt 65536 then
      let s := s.ctxFault x.running (2 * pair) (s.arr (2 * pair)).pc
      .next (s.startParked (s.pairOwner pair))
    else .next s

/-! ### Idle and fallow pairs (R391–R393) -/

/-- Whether both arrays of a pair are halted or waiting (R391). -/
def State.pairStill (s : State) (p : Nat) : Bool :=
  [2 * p, 2 * p + 1].all fun a => (s.arr a).mode == .halted || (s.arr a).mode == .waiting

/-- IDLE: a pair that has been halted or waiting for 32 cycles is clock-gated until it issues again. -/
def execIdle (pair : Nat) (s : State) : Host.Outcome State Fault Refusal :=
  if 48 ≤ pair then .fault .noSuchUnit
  else
    if s.pairStill pair && s.lastedFor (s.pair pair).still 32 then
      .next ((s.modArr (2 * pair) fun x => { x with idle := true }).modArr (2 * pair + 1) fun x => { x with idle := true })
    else .next s

def State.fallowAuto (s : State) : Bool := s.rf .pwrFallowCfg 0 1 == 0

/-- Whether work is ready for a pair: its owner's segment, refresh fragment or problem, or a fragment of its owner's borrower
(R165, R393). -/
def State.workReady (s : State) (p : Nat) : Bool :=
  let o := s.pairOwner p
  s.segmentReady o p || (s.dueRefresh p false).isSome ||
  ((s.ctxD o).borrower != 0 && s.fragmentReady (s.ctxD o).borrower p) || ((s.ctxD o).kind == .solve && (s.nextProblem o).isSome)

/-- A pair that does nothing and for which no work is ready. -/
def State.pairWorkless (s : State) (p : Nat) : Bool :=
  (s.arr (2 * p)).mode == .halted && (s.arr (2 * p + 1)).mode == .halted && (s.pair p).problem.isNone && (s.pair p).refresh.isNone &&
  !s.workReady p

/-- Microseconds for which the pair has had no work. -/
def TwinPair.idleFor (x : TwinPair) (now : Nat) : Nat :=
  match x.noWork with
  | some t => (now - t) / cyclesPerUs
  | none => 0

/-- Whether a pair has had no work for PWR_FALLOW_CFG.DELAY µs (R392). -/
def State.fallowDue (s : State) (p : Nat) : Bool := s.lastedFor (s.pair p).noWork (cyclesPerUs * s.rf .pwrFallowCfg 1 16)

/-- FALLOW_ENTRY: an unassigned pair, or in AUTO one that has had no work for long enough, powers down. -/
def execFallowEntry (pair : Nat) (s : State) : Host.Outcome State Fault Refusal :=
  if 48 ≤ pair then .fault .noSuchUnit
  else
    let x := s.pair pair
    let o := s.pairOwner pair
    let pru := s.prus.any fun e => e.2.any fun r => r.array / 2 == pair
    if x.fallow || x.lent || pru || !s.pairWorkless pair || s.power.state != 1 then .next s
    else if o != 0 && (!s.fallowAuto || s.prio o == 0 || !s.fallowDue pair) then .next s
    else
      let s := s.stopPair pair
      let s := (s.modArr (2 * pair) fun a => { a with mode := .fallow }).modArr (2 * pair + 1) fun a => { a with mode := .fallow }
      let s := s.modPair pair fun x => { x with fallow := true, wake := false, noWork := none }
      .next (if s.fallowAuto then
        s.devEvent 0x0500 1 [BitVec.ofNat 32 (pair + 256), BitVec.ofNat 32 o, BitVec.ofNat 32 (x.idleFor s.now)] else s)

/-- FALLOW_WAKE: an owned fallow pair that work is ready for, or that a PART_SET or spring exit wakes, powers up; segments that
wait for it load. -/
def execFallowWake (pair : Nat) (s : State) : Host.Outcome State Fault Refusal :=
  if 48 ≤ pair then .fault .noSuchUnit
  else
    let o := s.pairOwner pair
    if !(s.pair pair).fallow || o == 0 || !((s.pair pair).wake || s.workReady pair) || (s.power.state == 2 && decide (8 ≤ pair)) then .next s
    else
      let s := s.modPair pair fun x => { x with fallow := false, wake := false }
      let s := (s.modArr (2 * pair) fun a => { a with mode := .halted }).modArr (2 * pair + 1) fun a => { a with mode := .halted }
      let s := if s.fallowAuto then s.devEvent 0x0500 1 [BitVec.ofNat 32 (pair + 512), BitVec.ofNat 32 o] else s
      .next (s.startParked o)

/-! ### Blocked contexts (R325) -/

/-- Whether an accepted descriptor waits on a frame, token, SEQ, pin, version slot or release. -/
def State.openWaits (s : State) (c : Nat) (o : Open) : Bool :=
  o.wait != .engine ||
  (o.desc.opcode == 0x09 && s.runs.any fun r => r.ctx == c && r.seq == o.desc.seq && r.pins.isNone) ||
  (o.desc.opcode == 0x32 && s.batches.any fun b => b.ctx == c && b.seq == o.desc.seq && !b.released) ||
  (o.desc.opcode == 0x21 && match s.txn? c o.desc.tag with | some t => t.phase == .prepared | none => false)

/-- Whether a resident context meets the first two conditions of R325. -/
def State.mayBlock (s : State) (c : Nat) (x : Ctx) : Bool :=
  c != 0 && x.mode == .resident &&
  (x.pairs.all fun p => [2 * p, 2 * p + 1].all fun a => (s.arr a).mode == .halted || (s.arr a).mode == .waiting || (s.arr a).mode == .fallow) &&
  x.opens.all (s.openWaits c)

/-- CONTEXT_BLOCKED: the conditions have held for HOLD µs. -/
def execContextBlocked (c : Nat) (s : State) : Host.Outcome State Fault Refusal :=
  match s.ctx? c with
  | none => .next s
  | some x =>
    .next (if s.mayBlock c x && s.lastedFor x.idleSince (cyclesPerUs * s.rf .ctxPolicy 8 8) then
      s.modCtx c fun x => { x with blocked := true } else s)

/-- One cycle of the blocking test: conditions that end, end the blocking. -/
def State.blockTick (s : State) : State :=
  { s with ctxs := s.ctxs.map fun (e : Nat × Ctx) =>
      if s.mayBlock e.1 e.2 then (e.1, { e.2 with idleSince := some (e.2.idleSince.getD s.now) })
      else (e.1, { e.2 with idleSince := none, blocked := false }) }

/-! ### Swapping (R324, R325) -/

/-- Whether something a swapped-out context waits for has fallen due. -/
def State.fallenDue (s : State) (c : Nat) (x : Ctx) : Bool :=
  (x.opens.any fun o => match o.wait with
    | .frame f p => decide (f * 65536 + p ≤ s.stamp)
    | .token t n => decide (n ≤ (tgetD x.tokens t 0).toNat)
    | .seq n q => s.seqDone n q
    | _ => false) ||
  s.batches.any fun b => b.ctx == c &&
    (s.deadlinePast b || (!b.released && match b.release with | some f => decide (f ≤ s.cad.frame.toNat) | none => false))

/-- Whether a swapped-out context can be restored. -/
def State.runnable (s : State) (c : Nat) (x : Ctx) : Bool :=
  x.mode == .swapped && !x.pairs.isEmpty && !x.suspended && (x.tailMoved || !x.held.isEmpty || s.fallenDue c x)

def State.residents (s : State) : List Nat := (s.ctxs.filter fun e => e.1 != 0 && e.2.mode == .resident).map (·.1)

/-- Whether a partition lies in a victim's partition and the unowned pairs and slices. -/
def State.fitsIn (s : State) (x : Ctx) (victim : Option Ctx) : Bool :=
  let vp := match victim with | some v => v.pairs | none => []
  let vs := match victim with | some v => v.slices | none => []
  (x.pairs.all fun p => vp.contains p || s.pairOwner p == 0) && x.slices.all fun k => vs.contains k || s.sliceOwner k == 0

/-- Eligible victims (R325 step 2). -/
def State.eligible (s : State) (x : Ctx) : List Nat :=
  (s.ctxs.filter fun (e : Nat × Ctx) => e.2.mode == .resident && e.1 != 0 && e.2.blocked && s.mayBlock e.1 e.2 && s.prio e.1 != 0 &&
    !(s.txns.any fun t => t.ctx == e.1 && (match t.phase with | .prepared => true | .voted => true | .committing => t.ready | _ => false)) &&
    (e.2.pairs.all fun p => (s.arr (2 * p)).atBoundary && (s.arr (2 * p + 1)).atBoundary && (s.pair p).problem.isNone && (s.pair p).refresh.isNone) &&
    s.fitsIn x (some e.2)).map (·.1)

/-- The victim: lowest priority, then longest blocked, then lower number. -/
def State.victim (s : State) (l : List Nat) : Option Nat :=
  l.foldl (fun best c =>
    match best with
    | none => some c
    | some b =>
      let since (n : Nat) : Nat := ((s.ctxD n).idleSince).getD s.now
      if s.prio b < s.prio c ∨ (s.prio b = s.prio c ∧ since c < since b) then some c else some b) none

/-- Saves a context: slices, arrays that wait at boundaries, the order of their waiting (R324). -/
def State.swapOut (s : State) (c : Nat) : State :=
  let x := s.ctxD c
  let s := x.pairs.foldl (fun s p => if (s.pair p).lent then s.giveBack p else s) s
  let arrs := x.pairs.flatMap fun p => [(2 * p, s.arr (2 * p)), (2 * p + 1, s.arr (2 * p + 1))]
  let mine (w : Waiter) : Bool := x.pairs.contains (w.array / 2)
  let s := { s with swapArrays := tset s.swapArrays c arrs, swapWaiters := tset s.swapWaiters c (s.waiters.filter mine) }
  let s := s.saveSlices (swapHomes x.slices x.swapPages) s.slice
  let s := x.pairs.foldl (fun s p => s.stopPair p) s
  s.modCtx c fun x => { x with mode := .swapped, blocked := false, idleSince := none, keptSlices := none }

/-- Restores a context; its arrays' stores are undefined. -/
def State.swapIn (s : State) (c : Nat) : State :=
  let x := s.ctxD c
  let homes := swapHomes x.slices x.swapPages
  let s := x.slices.foldl (fun s k => s.setSlice k (match x.keptSlices with
    | some t => tgetD t k []
    | none => match tget homes k with | some a => memCut s.hbm a sliceSize | none => [])) s
  let s := (tgetD s.swapArrays c []).foldl (fun s e =>
    let (n, s) := s.fresh
    s.setArr e.1 { e.2 with store := { undef := some n }, mode := if (s.pair (e.1 / 2)).fallow then .fallow else e.2.mode }) s
  let s := { s with waiters := s.waiters ++ tgetD s.swapWaiters c [], swapArrays := tdel s.swapArrays c, swapWaiters := tdel s.swapWaiters c }
  let s := s.modCtx c fun x => { x with mode := .resident, tailMoved := false, keptSlices := none }
  (s.startParked c).serveTokens c

/-- The CTX_SWAP event; the time a save and restore takes is given only as about a figure (log entry 33). -/
def State.swapEvent (s : State) (c : Nat) (victim : Option Nat) : State :=
  let since := match victim with | some v => (s.now - ((s.ctxD v).idleSince).getD s.now) / cyclesPerUs | none => 0
  let r := s.fresh
  r.2.devEvent 0x0010 1 [BitVec.ofNat 32 c, BitVec.ofNat 32 (victim.getD 0), BitVec.ofNat 32 since, Config.freeWord 11 r.1]

/-- Tries to restore one runnable context. -/
def State.trySwap (s : State) (c : Nat) : State :=
  let x := s.ctxD c
  if s.fitsIn x none ∧ s.residents.length < 8 then (s.swapEvent c none).swapIn c
  else if s.rf .ctxPolicy 1 1 = 1 then s
  else if s.residents.all fun n => (s.ctxD n).blocked && s.mayBlock n (s.ctxD n) then
    match s.victim (s.eligible x) with
    | some v => ((s.swapEvent c (some v)).swapOut v).swapIn c
    | none => s
  else s

/-- SWAP_POLL: runnable contexts are tried in order of priority, then of number. -/
def execSwapPoll (s : State) : Host.Outcome State Fault Refusal :=
  let cs := (s.ctxs.filter fun (e : Nat × Ctx) => s.runnable e.1 e.2).map (·.1)
  let order := (List.range 4).flatMap fun k => cs.filter fun c => s.prio c == k
  .next (order.foldl (fun s c => if s.runnable c (s.ctxD c) then s.trySwap c else s) s)

/-! ### Weirs (R328, R329) -/

/-- Register index of a weir. -/
def weirIdx (c w : Nat) : Nat := 4 * c + w

def State.weirEff (s : State) (c w : Nat) : Nat := s.rfi .ctxWeirEff (weirIdx c w) 0 16

/-- Whether a weir meters traffic at a resource. -/
def weirAt (resource w : Nat) : Bool := if resource < 12 then w < 2 else if resource = 32 then w == 3 else w == 2

/-- Changes an effective rate and writes the WEIR event. -/
def State.setWeir (s : State) (c w v resource : Nat) : State :=
  let old := s.weirEff c w
  if old = v then s
  else (s.setReg .ctxWeirEff (weirIdx c w) .steward v).devEvent 0x0011 1
    [BitVec.ofNat 32 c, BitVec.ofNat 32 w, BitVec.ofNat 32 old, BitVec.ofNat 32 v, BitVec.ofNat 32 resource]

def ceil8th (n : Nat) : Nat := (n + 7) / 8

/-- The loop's treatment of one weir in a window. -/
def State.weirLoop (s : State) (seen : List Interference) (c w : Nat) : State :=
  if s.rfi .ctxWeirCfg (weirIdx c w) 0 16 = 0 then s
  else
    let used := seen.filter fun i => i.users.contains (c, w) && weirAt i.resource w
    let low := s.rfi .ctxWeirBounds (weirIdx c w) 0 16
    let top := s.rfi .ctxWeirBounds (weirIdx c w) 16 16
    let hit := used.filter fun i => match i.waiter with | some p => decide (p < s.prio c) | none => false
    let s := hit.foldl (fun s i =>
      let r := s.weirEff c w
      s.setWeir c w (max (r - ceil8th r) (min low r)) i.resource) s
    if used.any fun i => i.waiter.isSome then { s with weirQuiet := tset s.weirQuiet (weirIdx c w) 0 }
    else
      let n := tgetD s.weirQuiet (weirIdx c w) 0 + 1
      if n < 8 then { s with weirQuiet := tset s.weirQuiet (weirIdx c w) n }
      else
        let s := { s with weirQuiet := tset s.weirQuiet (weirIdx c w) 0 }
        let r := s.weirEff c w
        let res := match used with | i :: _ => i.resource | [] => Config.freeNat 33 [c, w]
        s.setWeir c w (min (r + ceil8th r) (max top r)) res

/-- WEIR_WINDOW. -/
def execWeirWindow (seen : List Interference) (s : State) : Host.Outcome State Fault Refusal :=
  if s.rf .ctxPolicy 0 1 = 1 then .next s
  else .next ((List.range 1024).foldl (fun s k => s.weirLoop seen (k / 4) (k % 4)) s)

/-- One cycle of the token buckets: each gains its effective rate, up to its capacity; in 21sts of a byte, a rate of
1 GB/s being 20/21 byte in a cycle (R328). -/
def State.weirTick (s : State) : State :=
  { s with ctxs := s.ctxs.map fun (e : Nat × Ctx) =>
      (e.1, { e.2 with buckets := (List.range 4).map fun w =>
        (w, min (tgetD e.2.buckets w 0 + 20 * s.weirEff e.1 w : Int) (21 * 65536 * s.rfi .ctxWeirCfg (weirIdx e.1 w) 16 16 : Nat)) }) }

end Sys2Proof.Machine
end

