-- ==== Sys2Proof/Machine/Spring.lean ====
section
/-! DEFINITION. Halt, spring mode, throttling, thermal trip and rails (R394–R398, R406–R410, R435, R436). -/

namespace Sys2Proof.Machine

/-! ### Links (R286, R289) -/

/-- Link generation and width that training of a port's link gives: HW values (R313; log entry 1). -/
def State.trainLink (s : State) (p : Port) : State :=
  let (n, s) := s.fresh
  s.modPort p fun x =>
    { x with linkUp := true, speed := Config.freeNat 50 [p.code, n] % 6 + 1, width := 2 ^ (Config.freeNat 51 [p.code, n] % 5) }

/-- Host writes that wait go out, in order, once the port is open; the contexts they held go on. -/
def State.flushWait (s : State) (p : Port) : State :=
  if !s.portOpen p then s
  else
    let ws := (s.portSt p).hostWait
    let s := ws.foldl (fun s (w : Nat × List Byte) => s.hostWrite p w.1 w.2) (s.modPort p fun x => { x with hostWait := [] })
    let held := s.ctxs.filter fun (e : Nat × Ctx) => e.2.port == p && e.2.hostHeld
    held.foldl (fun s (e : Nat × Ctx) =>
      ((s.modCtx e.1 fun x => { x with hostHeld := false }).startParked e.1).serveTokens e.1) s

/-! ### Ending all work (R385, R406) -/

/-- Every array stops and no work is left anywhere on the device. -/
def State.stopAll (s : State) : State :=
  let s := (List.range 48).foldl (fun s p => (s.stopPair p).unlend p) s
  { s with runs := [], batches := [], gran := none, txns := [], granaries := [], signals := [], waiters := [], prus := [],
           held := [], asking := [], outstanding := [], group := { s.group with flights := [], queue := [], early := [] },
           curv := { s.curv with queue := [], current := [], results := [], requests := [] },
           pairs := s.pairs.map fun (e : Nat × TwinPair) => (e.1, { e.2 with problem := none, returnAt := none }) }

/-- The device releases both ATTN pins. -/
def State.releasePins (s : State) : State :=
  (s.modPort .steward fun x => { x with attn := false, ready := false }).modPort .tenant fun x => { x with attn := false, ready := false }

/-- A halt: the RAS_ERROR event, then no fetching, polling or work; ATTN released; STATE 3 (R406); the derived keys are
cleared (R417). -/
def State.halt (s : State) (kind unit addr : Nat) : State :=
  let s := (s.rasEntry kind 5 0 unit addr).stopAll.releasePins
  { s with power := { s.power with state := 3 }, boot := { s.boot with identity := false } }

/-! ### Spring entry (R407–R409) -/

/-- Whether a context continues through spring mode: a SOLVE context of the steward port that meets R240. The management
context goes on, since it takes SPRING_EXIT (log entry 34). -/
def State.continues (_ : State) (c : Nat) (x : Ctx) : Bool :=
  c == 0 || (x.kind == .solve && x.port == .steward && x.pairs.all (· < 8) &&
    ((x.regions.flatMap fun e => tablePages e.2.pages) ++ x.plans.flatMap fun (e : Nat × Plan) => tablePages e.2.cache.pages).all
      fun g => g.1 < 2)

/-- Suspends a context: its work ends, its descriptors complete SUSPENDED_SPRING, it becomes SWAPPED with its sector 0
slices kept; answers the descriptors completed. -/
def State.suspend (s : State) (c : Nat) : State × Nat :=
  let x := s.ctxD c
  let s := (x.pairs.filter fun p => s.pairOwner p == c).foldl (fun s p => (s.stopPair p).unlend p) s
  let s := (s.dropItems c).dropRequests c
  let s := ((s.dropTxns c).dropRuns c).dropWork c
  let r := s.flushDescs c stSuspended
  let kept := if x.mode = .resident then some ((x.slices.filter (· < 16)).map fun k => (k, s.slice k)) else x.keptSlices
  let s := { r.1 with swapArrays := tdel r.1.swapArrays c, swapWaiters := tdel r.1.swapWaiters c }
  (s.modCtx c fun x => { x with mode := .swapped, blocked := false, idleSince := none, suspended := true, keptSlices := kept }, r.2)

/-- Counters of sectors 1 to 5 read zero while they are off (R387). -/
def State.clearOuterCounters (s : State) : State :=
  { s with regs := s.regs.filter fun e => !((e.1.reg == .pmcCtrArray && decide (128 ≤ e.1.idx)) || (e.1.reg == .pmcCtrSector && decide (16 ≤ e.1.idx))) }

/-- The rows of the table Spring Entry. -/
def State.springRows (s : State) : State :=
  -- row 2: pairs outside sector 0
  let s := (List.range 48).foldl (fun s p => if 8 ≤ p then (s.stopPair p).unlend p else s) s
  let s := { s with pairs := s.pairs.map fun (e : Nat × TwinPair) => if 8 ≤ e.1 then (e.1, { e.2 with problem := none }) else e }
  -- row 3
  let out := (s.ctxs.filter fun (e : Nat × Ctx) => !s.continues e.1 e.2 && e.2.mode != .tornDown).map fun e => e.1
  let r := out.foldl (fun (a : State × Nat) c => let t := a.1.suspend c; (t.1, a.2 + t.2)) (s, 0)
  let s := r.1
  -- row 4
  let s := (List.range 12).foldl (fun s n => if 2 ≤ n ∧ s.populated n then s.modSite n fun x => { x with selfRefresh := true } else s) s
  let s := (List.range 80).foldl (fun s k => s.setSlice (16 + k) []) s
  let s := (s.clearOuterCounters).modPort .tenant fun x => { x with linkUp := false }
  let s := { s with power := { s.power with limit := s.rf .pwrLimit 0 11, vcoreOff := true } }
  let s := s.setField .pwrLimit 0 .steward 0 11 190
  -- row 5
  let s := { s with power := { s.power with state := 2, spring := 2 } }
  s.devEvent 0x0031 2 [BitVec.ofNat 32 s.power.cause.toNat, BitVec.ofNat 32 out.length, BitVec.ofNat 32 r.2]

/-- A cause of spring mode: bit 0 thermal, 1 rail, 2 global, 3 command; `clear` where it clears at entry. The first
cause enters; a later one is added, but a second rail or global error in spring mode halts the device (R406, R407). -/
def State.springCause (s : State) (bit : Nat) (clear : Bool) (kind unit addr : Nat) : State :=
  if s.power.state = 2 ∧ (bit = 1 ∨ bit = 2) then s.halt kind unit addr
  else
    let c : BitVec 4 := BitVec.ofNat 4 (2 ^ bit)
    let s := if bit = 3 then s else s.rasEntry kind 4 0 unit addr
    let s := { s with power := { s.power with cause := s.power.cause ||| c,
                                              cleared := if clear then s.power.cleared ||| c else s.power.cleared &&& ~~~c } }
    if s.power.state = 1 then
      ({ s with power := { s.power with spring := 1, springFrame := s.cad.frame.toNat } } : State).springRows
    else s

def unitMgmt : Nat := 0x301

/-! ### MGMT SPRING_ENTER and SPRING_EXIT (R407, R410) -/

def State.checkSpringEnter (s : State) (c : Nat) (d : Desc) : Checks :=
  { auth := s.isSteward c
    fmt := firstBad (s.mgmtFmt d false [])
    lim := firstBad [(s.power.spring != 0, 0)] }

def State.startSpringEnter (s : State) (c : Nat) (d : Desc) : State := (s.springCause 3 true 0 0 0).finish c d stDone 0 0

def State.checkSpringExit (s : State) (c : Nat) (d : Desc) : Checks :=
  { auth := s.isSteward c
    fmt := firstBad (s.mgmtFmt d false [])
    lim := firstBad [(s.power.spring != 2 || s.power.cause &&& ~~~s.power.cleared != 0, 0)] }

/-- The exit: stores of sectors 1 to 5 are zeroed and their counters start from 0, their fallow pairs may wake, stacks leave
self-refresh unless they are hot, the tenant link trains, suspended contexts become runnable (R368, R393, R410). -/
def State.springLeave (s : State) : State :=
  let s := { s with arrays := s.arrays.map fun (e : Nat × Arr) => if 16 ≤ e.1 then (e.1, { e.2 with store := {} }) else e }
  let s := (List.range 96).foldl (fun s a => if 16 ≤ a ∧ (tget s.arrays a).isNone then s.setArr a {} else s) s
  let s := ((List.range 80).foldl (fun s k => s.setSlice (16 + k) []) s).clearOuterCounters
  let s := { s with pairs := s.pairs.map fun (e : Nat × TwinPair) => if 8 ≤ e.1 ∧ e.2.fallow then (e.1, { e.2 with wake := true }) else e }
  let s := if s.tenant.perstHigh then (s.trainLink .tenant).flushWait .tenant else s
  let s := { s with ctxs := s.ctxs.map fun (e : Nat × Ctx) =>
    if e.2.suspended then (e.1, { e.2 with suspended := false, tailMoved := true }) else e }
  let s := s.setField .pwrLimit 0 .steward 0 11 s.power.limit
  let cause := s.power.cause.toNat
  let frames := s.cad.frame.toNat - s.power.springFrame
  let s := { s with power := { s.power with spring := 0, state := 1, cause := 0, cleared := 0, vcoreOff := false, vcore := 750 } }
  let s := s.settleStacks
  s.devEvent 0x0032 2 [BitVec.ofNat 32 cause, BitVec.ofNat 32 frames]

def State.startSpringExit (s : State) (c : Nat) (d : Desc) : State := s.springLeave.finish c d stDone 0 0

/-! ### Throttling, thermal emergency and trip (R395, R397, R398) -/

/-- The device's choice of the VCORE set-point, 650 to 850 mV: a free value, since load and the die's speed decide it; it
is never raised while GATE is above 0 and does not move while VCORE is off (R396). -/
def State.setVcore (s : State) (throttled : Bool) : State :=
  if s.power.vcoreOff then s
  else
    let (n, s) := s.fresh
    let v := 650 + Config.freeNat 68 [n] % 201
    { s with power := { s.power with vcore := if throttled then min v s.power.vcore else v } }

/-- THERMAL_POWER_LOOP: one reading of the hottest junction and of the averaged package power. -/
def execThermalPowerLoop (junction watts : Nat) (s : State) : Host.Outcome State Fault Refusal :=
  let limit := s.rf .pwrLimit 0 11
  let hot := decide (100 ≤ junction)
  let heavy := decide (limit < watts)
  let g := s.power.gate
  let up := hot || heavy
  let g' := if up then min (g + 1) 30 else if junction ≤ 98 ∧ 100 * watts ≤ 95 * limit then g - 1 else g
  let worst := if g = 0 then g' else max s.power.worst g'
  let s := { s with power := { s.power with junction := junction, watts := watts, gate := g', worst := worst,
                                            hotSince := sinceWhen (105 ≤ junction && g' == 30) s.power.hotSince s.now,
                                            coolSince := sinceWhen (junction ≤ 95) s.power.coolSince s.now,
                                            byTemp := if g < g' then hot else s.power.byTemp,
                                            byPower := if g < g' then heavy else s.power.byPower } }
  let s := s.setVcore (g != 0 || g' != 0)
  let ev (s : State) (k : Nat) : State :=
    s.devEvent 0x0501 0 [BitVec.ofNat 32 k, BitVec.ofNat 32 junction, BitVec.ofNat 32 watts, BitVec.ofNat 32 worst]
  .next (if g = 0 ∧ g' ≠ 0 then ev s 1 else if g ≠ 0 ∧ g' = 0 then ev s 2 else s)

/-- THERMAL_EMERGENCY: a junction at Tj(max) with GATE at 30 for 10 ms. -/
def execThermalEmergency (s : State) : Host.Outcome State Fault Refusal :=
  .next (if s.lastedFor s.power.hotSince (10000 * cyclesPerUs) then s.springCause 0 false 6 unitMgmt 0 else s)

/-- THERMAL_CLEAR: the hottest junction has been at 95 °C or below for 1 s. -/
def execThermalClear (s : State) : Host.Outcome State Fault Refusal :=
  .next (if s.lastedFor s.power.coolSince (1000000 * cyclesPerUs) && s.power.cause.getLsbD 0 then
    { s with power := { s.power with cleared := s.power.cleared ||| 1 } } else s)

/-- The RAS_LOG entry of a start-up that stops (R273, R389); what it holds but the stamp is not stated (log entry 52). -/
def State.bootLog (s : State) : State :=
  let (n, s) := s.fresh
  let e := [Config.freeWord 14 n, Config.freeWord 15 n] ++ stampWords s.stamp
  let lost := (tget s.ras.log s.ras.wptr).isSome
  { s with ras := { s.ras with log := tset s.ras.log s.ras.wptr e, wptr := (s.ras.wptr + 1) % 32,
                               overflow := s.ras.overflow || lost } }

/-- THERMTRIP: the latch is set and everything but management and sideband stops; start-up stands at STOPPED, ERR 5. -/
def execThermtrip (s : State) : Host.Outcome State Fault Refusal :=
  if !s.pwrok then .next s
  else
    let s := s.stopAll.releasePins.bootLog
    .next { s with power := { s.power with thermtrip := true }, boot := { s.boot with stage := 15, err := 5 } }

/-! ### Rails (R410, R435, R436) -/

/-- What the device does about a rail's status. -/
def State.railStatus (s : State) (rail : Rail) (status : RailStatus) : State :=
  match rail with
  | .vcoreS0 => if s.power.state = 3 ∨ !s.pwrok then s else s.halt 5 unitMgmt 0
  | .vcore =>
    if s.power.vcoreOff then
      match status with
      | .otherFault => ({ s with power := { s.power with vcoreFault := true } } : State).rasEntry 5 0 0 unitMgmt 0
      | _ => s
    else
      let s := { s with power := { s.power with vcoreFault := true } }
      if s.power.state = 1 then s.springCause 1 false 5 unitMgmt 0 else s
  | .vsram =>
    let s := { s with power := { s.power with vsramFault := true } }
    if s.power.state = 1 ∨ s.power.state = 2 then s.springCause 1 false 5 unitMgmt 0 else s

/-- RAIL_FAULT. -/
def execRailFault (rail : Rail) (status : RailStatus) (s : State) : Host.Outcome State Fault Refusal := .next (s.railStatus rail status)

/-- PMB_ALERT_N: every STATUS_WORD is read. -/
def execPmbAlertN (found : List (Rail × RailStatus)) (s : State) : Host.Outcome State Fault Refusal :=
  .next (found.foldl (fun s e => s.railStatus e.1 e.2) s)

/-- RAIL_CLEAR: the regulator reports no fault. -/
def execRailClear (rail : Rail) (s : State) : Host.Outcome State Fault Refusal :=
  let p := match rail with
    | .vcore => { s.power with vcoreFault := false }
    | .vsram => { s.power with vsramFault := false }
    | .vcoreS0 => s.power
  if p.cause.getLsbD 1 && !p.vcoreFault && !p.vsramFault then .next { s with power := { p with cleared := p.cleared ||| 2 } }
  else .next { s with power := p }

end Sys2Proof.Machine
end

