-- ==== Sys2Proof/Machine/Memory.lean ====
section
/-! DEFINITION. The HBM system: BAR2, IEEE 1500, refresh and temperature, map-out, and the responses to corrected and
uncorrectable errors (R274, R276–R284, R401–R406). -/

namespace Sys2Proof.Machine

/-! ### The BAR2 window (R282, R283) -/

/-- Stack, page and byte in the page of a byte of a port's window. -/
def State.bar2Place (s : State) (p : Port) (a : Nat) : Nat × Nat × Nat :=
  (s.rfp .memBar2Base p 0 4, s.rfp .memBar2Base p 4 15 + a / pageSize, a % pageSize)

/-- Whether a page of a stack exists. -/
def State.pageExists (s : State) (stack page : Nat) : Bool := decide (page < pagesPerStack) && s.chanOk stack (page / 1024)

/-- Whether a port may reach a page: the steward port every page, the tenant port those of its contexts. -/
def State.bar2Permits (s : State) (p : Port) (stack page : Nat) : Bool :=
  p == .steward || match s.pageOwner stack page with | some c => s.ctxOnPort c .tenant | none => false

/-- One byte as BAR2 reads it; a byte of a stack held in self-refresh has no stated value (log entry 35). -/
def State.bar2Byte (s : State) (p : Port) (n a : Nat) : Byte :=
  let (st, pg, off) := s.bar2Place p a
  if !s.isReady then 0
  else if !s.pageExists st pg then 0xFF
  else if !s.bar2Permits p st pg then 0
  else if (s.site st).selfRefresh then Config.freeByte n a
  else memRead s.hbm (hbmAddr st pg off)

/-- The first page of a read that lies in a channel mapped out at run time, which is answered as an uncorrectable read
(R276). -/
def State.bar2Lost (s : State) (p : Port) (addr len : Nat) : Option (Nat × Nat) :=
  ((List.range len).find? fun i =>
    let g := s.bar2Place p (addr + i)
    s.isReady && decide (g.2.1 < pagesPerStack) && (s.site g.1).runOut.getLsbD (g.2.1 / 1024)).map fun i =>
      let g := s.bar2Place p (addr + i)
      (g.1, g.2.1)

/-- A BAR2 read of uncorrectable data: Completer Abort and a RAS_LOG entry (R283). -/
def State.bar2Abort (s : State) (p : Port) (st page : Nat) : State :=
  (s.rasEntry 2 6 0 (0x200 + st) page).modPort p fun x => { x with completerAbort := true, readData := [] }

/-- BAR2_READ. -/
def execBar2Read (p : Port) (addr len : Nat) (s : State) : Host.Outcome State Fault Refusal :=
  if !s.barOpen p || s.power.state == 3 then .next s
  else match s.bar2Lost p addr len with
  | some g => .next (s.bar2Abort p g.1 g.2)
  | none =>
    let (n, s) := s.fresh
    .next (s.modPort p fun x => { x with readData := (List.range len).map fun i => s.bar2Byte p n (addr + i), completerAbort := false })

/-- Offset that RAS_CFG_ERR records for a dropped BAR2 write. -/
def bar2Offset : Nat := 0x00800028

/-- One byte written through BAR2, or dropped. -/
def State.bar2Put (s : State) (p : Port) (a : Nat) (b : Byte) : State :=
  let (st, pg, off) := s.bar2Place p a
  if s.pageExists st pg && s.bar2Permits p st pg then s.hbmPut (hbmAddr st pg off) [b] else s.cfgError p bar2Offset

/-- BAR2_WRITE. -/
def execBar2Write (p : Port) (addr : Nat) (bytes : List Byte) (s : State) : Host.Outcome State Fault Refusal :=
  if !s.barOpen p || s.power.state == 3 then .next s
  else if !s.isReady then .next { s with boot := { s.boot with refused := some (p, bar2Offset) } }
  else .next ((bytes.zipIdx).foldl (fun s e => s.bar2Put p (addr + e.2) e.1) s)

/-! ### IEEE 1500 (R281) -/

/-- Whether the path to a stack is granted: before cold training ends to every enabled site, later while the enabled stack
has no owner and is held in self-refresh. -/
def State.granted1500 (s : State) (st : Nat) : Bool :=
  s.rfi .mem1500En st 0 1 == 1 && ((!s.boot.warm && decide (s.boot.stage < 5)) || (!s.stackOwned st && (s.site st).selfRefresh))

/-- IEEE_1500_ACCESS: without the grant nothing happens and reads return zero. What the stack's own registers answer, and
a repair's effect on later training, come from the stack (log entry 36). -/
def execIeee1500Access (stack : Nat) (op : Op1500) (s : State) : Host.Outcome State Fault Refusal :=
  if 12 ≤ stack then .fault .noSuchUnit
  else match op with
    | .read reg =>
      let (n, s) := s.fresh
      .next { s with jtag := if s.granted1500 stack then Config.freeNat 34 [stack, reg, n] else 0 }
    | .write _ _ => .next s

/-! ### Temperature and refresh (R277, R278, R280) -/

/-- A threshold of MEM_REFRESH_POLICY for a stack: T2X and T4X less the stack's offset. -/
def State.threshold (s : State) (st k : Nat) : Nat :=
  let off := if s.rf .memRefreshPolicy 0 1 = 0 then 5 * (s.site st).offset else 0
  match k with
  | 0 => s.rf .memRefreshPolicy 1 7 - off
  | 1 => s.rf .memRefreshPolicy 8 7 - off
  | _ => s.rf .memRefreshPolicy 15 7

/-- Row of the refresh table after a reading t, from row r (3 is self-refresh). -/
def State.refreshRow (s : State) (st r t : Nat) : Nat :=
  let th := s.threshold st
  let up := if t ≤ th 0 then 0 else if t ≤ th 1 then 1 else if t ≤ th 2 then 2 else 3
  let h := s.rf .memRefreshPolicy 22 3
  if r ≤ up then up else ((List.range r).find? fun k => decide (t + h ≤ th k)).getD r

/-- Contexts held by a hot stack (R278); those no longer held go on. -/
def State.thermalSettle (s : State) : State :=
  let before := s.ctxs
  let s := s.thermalMark
  before.foldl (fun s (e : Nat × Ctx) =>
    if e.2.thermalHold && !(s.ctxD e.1).thermalHold then (s.startParked e.1).serveTokens e.1 else s) s

/-- Payload words of an event that the manual does not lay out (log entry 37). -/
def openPayload (n : Nat) : List Word := (List.range 6).map fun i => Config.freeWord 12 (6 * n + i)

/-- STACK_TEMPERATURE: a reading of a stack's sensor. -/
def execStackTemperature (stack temp : Nat) (s : State) : Host.Outcome State Fault Refusal :=
  if 12 ≤ stack then .fault .noSuchUnit
  else if !s.populated stack then .next s
  else
    let x := s.site stack
    let r := s.refreshRow stack (if x.hot then 3 else x.rate) temp
    let s := s.modSite stack fun x => { x with temp := temp, rate := if r = 3 then x.rate else r, hot := r == 3 }
    if (r == 3) == x.hot then .next s
    else
      let (n, s) := (s.settleStack stack).fresh
      .next (s.thermalSettle.devEvent 0x0401 0 (openPayload n))

/-- Changes a stack's offset and writes MEM_POLICY. -/
def State.setOffset (s : State) (st v count : Nat) : State :=
  let old := (s.site st).offset
  (s.modSite st fun x => { x with offset := v }).devEvent 0x0402 1 [BitVec.ofNat 32 (st + 16 * old + 4096 * v), BitVec.ofNat 32 count]

/-- An offset stays within the largest that the policy allows (R280). -/
def State.boundOffset (s : State) (st top : Nat) : State :=
  if top < (s.site st).offset then s.setOffset st top (s.site st).minute else s

/-- REFRESH_OFFSET_ADJUST: a minute of the loop ends; `hour` counts minutes in a row without a corrected error. -/
def execRefreshOffsetAdjust (stack : Nat) (s : State) : Host.Outcome State Fault Refusal :=
  if 12 ≤ stack then .fault .noSuchUnit
  else
    let x := s.site stack
    let quiet := if x.minute = 0 then x.hour + 1 else 0
    let s := s.modSite stack fun x => { x with minute := 0, hour := quiet % 60 }
    if s.rf .memRefreshPolicy 0 1 = 1 then .next s
    else if 16 < x.minute ∧ x.offset < s.rf .memRefreshPolicy 25 2 then .next (s.setOffset stack (x.offset + 1) x.minute)
    else if quiet = 60 ∧ 0 < x.offset then .next (s.setOffset stack (x.offset - 1) x.minute)
    else .next s

/-! ### Corrected errors (R284, R401) -/

/-- A corrected error of a stack, or of its data on a path, counted there and in the minute of the refresh loop. -/
def State.countCorrected (s : State) (st : Nat) : State :=
  s.modSite st fun x => { x with corrected := min (x.corrected + 1) (2 ^ 24 - 1), minute := x.minute + 1 }

/-- CORRECTION: counted; results do not change. -/
def execCorrection (place : CorrectPlace) (s : State) : Host.Outcome State Fault Refusal :=
  match place with
  | .sram => .next (({ s with ras := { s.ras with sram := min (s.ras.sram + 1) (2 ^ 24 - 1) } } : State).pulse 0x249 0 1 0 0)
  | .path st =>
    let s := ({ s with ras := { s.ras with path := min (s.ras.path + 1) 255 } } : State).pulse 0x249 0 1 0 0
    match st with
    | none => .next s
    | some n => if 12 ≤ n then .fault .noSuchUnit else .next (s.countCorrected n)
  | .stack n => if 12 ≤ n then .fault .noSuchUnit else .next (s.countCorrected n)

/-! ### Map-out at run time (R276) -/

def secondCycles : Nat := 1000000 * cyclesPerUs

/-- Contexts that own a page of a channel. -/
def State.channelOwners (s : State) (st ch : Nat) : List Nat :=
  (s.ctxs.filter fun (e : Nat × Ctx) =>
    (e.2.pagesOf ++ s.versionPages e.1 ++ s.shadowPagesOf e.1).any fun g => g.1 == st && g.2 / 1024 == ch).map fun e => e.1

/-- A rebuilt device-global word is counted (R404, R405). -/
def State.rebuilt (s : State) (unit addr : Nat) : State :=
  ({ s with ras := { s.ras with rebuilt := s.now :: s.ras.rebuilt } } : State).rasEntry 7 7 0 unit addr

/-- Frees a problem whose structure entries are lost; one still in a batch ends stale first (R404, log entry 38). -/
def State.freeProblem (s : State) (c n : Nat) : State :=
  let s := match s.batches.find? fun b => b.ctx == c && b.left.contains n, s.problem? c n with
    | some b, some p => s.endProblem b n (p.stale 0)
    | _, _ => s
  { s with problems := tdel s.problems (probKey c n) }

/-- Device-global data in a channel that is mapped out responds as to an uncorrectable error (R276 step 4). -/
def State.globalInChannel (s : State) (st ch : Nat) : State :=
  let base := s.rf .slvStructBase 0 15
  let pages := s.rf .slvStructBase 16 5
  let table := st == 0 && (List.range pages).any fun i => (base + i) / 1024 == ch
  let s := if (st = 0 ∨ st = 1) ∧ ch = 0 then s.rebuilt (0x200 + st) 0 else s
  let s := if st = 0 ∧ ch = 0 then s.springCause 2 false 2 0x200 8 else s
  if table then
    (s.problems.foldl (fun s e => s.freeProblem (e.1 / 16384) (e.1 % 16384)) s).springCause 2 true 2 0x200 base
  else s

/-- Maps a channel out, in the steps of R276. -/
def State.mapOut (s : State) (st ch : Nat) : State :=
  let away (l : List MemReq) := l.filter fun r => r.chan != 32 * st + ch
  let s := { s with held := away s.held, asking := away s.asking, outstanding := away s.outstanding }
  let owners := s.channelOwners st ch
  let bit : Word := BitVec.ofNat 32 (2 ^ ch)
  let s := s.modSite st fun x => { x with runOut := x.runOut ||| bit }
  let s := owners.foldl (fun s c => s.teardown c 5) s
  let s := (s.modSite st fun x => { x with pool := tdel x.pool ch }).globalInChannel st ch
  let s := s.modSite st fun x => { x with out := x.out ||| bit }
  let (n, s) := s.fresh
  s.devEvent 0x0400 2 (openPayload n)

/-- An uncorrectable error of a stack, counted there and towards its channel's threshold (R276, R284). -/
def State.countUe (s : State) (st page : Nat) : State :=
  let ch := page / 1024
  let s := s.modSite st fun x => { x with uncorr := min (x.uncorr + 1) 255, ueTimes := (ch, s.now) :: x.ueTimes }
  let limit := s.rf .memErrCfg 0 8
  let window := s.rf .memErrCfg 8 8 * secondCycles
  let recent := ((s.site st).ueTimes.filter fun e => e.1 == ch && decide (s.now ≤ e.2 + window)).length
  if limit = 0 ∨ recent < limit then s
  else if s.isSmall then s.modSite st fun x => { x with failing := x.failing ||| BitVec.ofNat 32 (2 ^ ch) }
  else if s.chanOk st ch then s.mapOut st ch
  else s

/-- Takes a page out of allocation until the next cold start (R403). Whether a free page was one of its channel's free
pool pages is a free value where the channel has both kinds (log entry 87). -/
def State.withdraw (s : State) (st page : Nat) : State :=
  let ch := page / 1024
  let (n, s) := s.fresh
  let ours := s.pageFree st page && decide (0 < s.poolIn st ch) &&
    (s.openIn st ch == 0 || Config.freeNat 66 [st, page, n] % 2 == 1)
  s.modSite st fun x =>
    { x with withdrawn := if x.withdrawn.contains page then x.withdrawn else page :: x.withdrawn,
             pool := if ours then tset x.pool ch (tgetD x.pool ch 0 - 1) else x.pool }

/-! ### Uncorrectable errors (R402–R404) -/

/-- Unit code of PCIe port A or B for a port. -/
def State.portUnit (s : State) (p : Port) : Nat := if (p == .steward) == !s.portaRole then 0x302 else 0x303

/-- Teardown for an uncorrectable error, logged; data of no context is logged and discarded. -/
def State.ueContext (s : State) (c kind unit addr : Nat) : State :=
  if c = 0 then s.rasEntry kind 6 0 unit addr else (s.rasEntry kind 1 c unit addr).teardown c 2

/-- A word of an HBM page: the owner is torn down, and another context that read it; a free page is withdrawn. -/
def State.uePage (s : State) (st page : Nat) (reader : Option Nat) : State :=
  let unit := 0x200 + st
  match s.pageOwner st page with
  | some c =>
    let s := (s.rasEntry 2 1 c unit page).teardown c 2
    match reader with
    | some r => if r ≠ c then s.teardown r 2 else s
    | none => s
  | none => (s.withdraw st page).rasEntry 2 2 0 unit page

/-- A word of a transaction's shadow page, at prepare or before. -/
def State.ueShadow (s : State) (st page : Nat) (prepare : Bool) : State :=
  let unit := 0x200 + st
  match s.txns.find? fun t => t.shadows.any fun h => h.stack == st && h.page == page with
  | none => s.uePage st page none
  | some t =>
    if prepare then ((s.rasEntry 2 3 t.ctx unit page).abortTxn t.ctx t.tag dTxnUncorrectable none).withdraw st page
    else (s.rasEntry 2 1 t.ctx unit page).teardown t.ctx 2

/-- First page of the working duplicate of the firmware image (R455). -/
def State.dupImage (s : State) : Nat × Nat := if s.isSmall then (0, 1024) else (1, 0)

/-- The record of a sampler that holds a failed word is discarded: its place stays, with zeros (R402; log entry 105). -/
def State.dropSample (s : State) (sec r : Nat) : State :=
  let x := tgetD s.samplers sec {}
  if (tget x.records (r % 2048)).isNone then s
  else { s with samplers := tset s.samplers sec { x with records := tset x.records (r % 2048) (List.replicate 8 0) } }

/-- The record of a sluice ring that holds a failed word is discarded: its bytes read as zeros (R402; log entry 105). -/
def State.dropSluice (s : State) (p : Port) (r : Nat) : State :=
  s.hbmPut (sluiceBase p + 32 * (r % 1048576)) (List.replicate 32 0)

/-- The response of the table Device-global Data, and of a sluice ring. -/
def State.ueGlobal (s : State) (place : ErrorPlace) : State :=
  match place with
  | .sluice p r =>
    let page := (if p = .steward then 16 else 32) + r.getD 0 % 1048576 / 65536
    let s := match r with | some n => s.dropSluice p n | none => s
    (s.countUe 0 page).rasEntry 2 6 0 0x200 page
  | .firmware dup both =>
    let g := if dup then s.dupImage else (0, 0)
    let s := s.countUe g.1 g.2
    if both then s.halt 2 (0x200 + g.1) g.2 else s.rebuilt (0x200 + g.1) g.2
  | .pageMap st page => (s.countUe st page).springCause 2 false 2 (0x200 + st) page
  | .versionTable => (s.countUe 0 9).springCause 2 false 2 0x200 9
  | .contextTable => (s.countUe 0 8).springCause 2 false 2 0x200 8
  | .structureTable ps =>
    let base := s.rf .slvStructBase 0 15
    (ps.foldl (fun s e => s.freeProblem e.1 e.2) (s.countUe 0 base)).springCause 2 true 2 0x200 base
  | .management => s.halt 1 unitMgmt 0
  | _ => s

/-- What a management page holds, as the place of an error; none for other pages (R455). -/
def State.mgmtPlace (s : State) (st page : Nat) : Option ErrorPlace :=
  if !s.isMgmtPage st page then none
  else if s.dupImage.1 = st ∧ s.dupImage.2 ≤ page ∧ page < s.dupImage.2 + 8 then some (.firmware true false)
  else if page < 8 then some (.firmware false false)
  else if page = 8 then some .contextTable
  else if page < 16 then some .versionTable
  else if page < 32 then some (.sluice .steward none)
  else if page < 48 then some (.sluice .tenant none)
  else some (.structureTable [])

/-- The response of the tables Uncorrectable Responses and Device-global Data. -/
def State.ueRespond (s : State) (place : ErrorPlace) : State :=
  match place with
  | .array a addr => s.ueContext (s.arrCtx a) 1 a addr
  | .slice n addr => s.ueContext (s.sliceOwner n) 1 (0x100 + n / 16) addr
  | .page st page reader =>
    match s.mgmtPlace st page with
    | some g => s.ueGlobal g
    | none => (s.countUe st page).uePage st page reader
  | .shadow st page prepare => (s.countUe st page).ueShadow st page prepare
  | .collective i =>
    match s.group.flights[i]?, s.group.buffers.head? with
    | some f, b => let g := b.getD (0, 0); (s.countUe g.1 g.2).ueContext f.ctx 2 (0x200 + g.1) g.2
    | none, _ => s
  | .flight c source =>
    let s := match source with | some g => s.countUe g.1 g.2 | none => s
    s.ueContext c 3 0x300 0
  | .poisoned p c => s.ueContext c 4 (s.portUnit p) 0
  | .sample k r => (s.dropSample k r).rasEntry 1 6 0 (0x100 + k) 0
  | .bar2 p st page => (s.countUe st page).bar2Abort p st page
  | g => s.ueGlobal g

/-- Whether the unit an error names exists. -/
def placeExists : ErrorPlace → Bool
  | .array a _ => decide (a < 96)
  | .slice n _ => decide (n < 96)
  | .page st _ _ => decide (st < 12)
  | .shadow st _ _ => decide (st < 12)
  | .flight _ (some g) => decide (g.1 < 12)
  | .sample k _ => decide (k < 6)
  | .bar2 _ st _ => decide (st < 12)
  | .pageMap st _ => decide (st < 12)
  | _ => true

/-- UNCORRECTABLE_ERROR; a halted or unpowered device makes no response. -/
def execUncorrectableError (place : ErrorPlace) (s : State) : Host.Outcome State Fault Refusal :=
  if !placeExists place then .fault .noSuchUnit
  else if !s.isReady || s.power.state == 3 then .next s
  else .next (s.ueRespond place)

/-- RAS_GLOBAL_WINDOW: in AUTO, LIMIT rebuilt global errors within WINDOW hours call for spring mode (R405, R406). -/
def execRasGlobalWindow (s : State) : Host.Outcome State Fault Refusal :=
  let window := s.rf .rasGlobalCfg 8 8 * 3600 * secondCycles
  let n := (s.ras.rebuilt.filter fun t => decide (s.now ≤ t + window)).length
  if s.rf .rasGlobalCfg 0 1 = 0 ∧ s.rf .rasGlobalCfg 1 7 ≤ n ∧ (s.power.state = 1 ∨ s.power.state = 2) then
    .next (({ s with ras := { s.ras with rebuilt := [] } } : State).springCause 2 true 7 unitMgmt 0)
  else .next s

end Sys2Proof.Machine
end

