-- ==== Sys2Proof/Machine/RegWrite.lean ====
section
/-! DEFINITION. Writes of registers: sizes and held words (R444, R445), authority (R7, R365, R451), ranges, and what each
register's write does (R446, R447 and the register tables). -/

namespace Sys2Proof.Machine

def inRange (n lo hi : Nat) : Bool := decide (lo ≤ n) && decide (n ≤ hi)

/-! ### Ranges that a field alone allows -/

/-- A PMC_EVSEL whose event lies outside the bank's range, or of the reserved mode (R364, R366). Only the fields that a
write names are looked at: the cold EVENT of a sector or global counter is in no range. -/
def evselBad (lo hi named v : Nat) : Bool :=
  (bitsOf named 0 10 != 0 && !inRange (bitsOf v 0 10) lo hi) || (bitsOf named 10 2 != 0 && bitsOf v 10 2 == 3)

/-- Whether a value puts a field that a write names outside the range it alone allows. -/
def State.fieldBad (s : State) (r : Reg) (named v : Nat) : Bool :=
  match r with
  | .crvBudget => decide (500 < bitsOf v 0 10)
  | .crvRootCfg => !inRange (bitsOf v 0 6) 8 40
  | .grnNormBound => b32.isNan v || decide (0x80000000 < v)
  | .txnShadowCfg => !inRange (bitsOf v 0 5) 1 25
  | .txnGroupCfg => decide (bitsOf v 0 16 < 10)
  | .slvStructBase => !inRange (bitsOf v 16 5) 1 16
  | .slvPivotCfg => !inRange (bitsOf v 0 5) 1 30
  | .memRefreshPolicy => !inRange (bitsOf v 1 7) 60 85 || !inRange (bitsOf v 8 7) 70 95 || !inRange (bitsOf v 15 7) 90 105 ||
      bitsOf v 22 3 == 0
  | .memErrCfg => bitsOf v 8 8 == 0
  | .hifPollCfg => !inRange (bitsOf v 1 10) 10 1000 || !inRange (bitsOf v 11 10) 10 1000 || !inRange (bitsOf v 21 10) 10 1000
  | .ctxWeirCfg => bitsOf v 16 16 == 0
  | .ctxWeirBounds => bitsOf v 0 16 == 0
  | .ctxPolicy => bitsOf v 8 8 == 0
  | .colCfg => !(bitsOf v 7 7 == 0 || inRange (bitsOf v 7 7) 16 64) || bitsOf v 19 13 == 0
  | .cadCfg => !inRange (bitsOf v 1 4) 4 10 || bitsOf v 5 3 == 0 || bitsOf v 8 8 == 0
  | .cadPeriod => !inRange (bitsOf v 38 26) 1000 60000000
  | .pmcEvselArray => evselBad 0 0xFF named v
  | .pmcEvselSector => evselBad 0x100 0x1FF named v
  | .pmcEvselGlobal => evselBad 0x200 0x3FF named v
  | .pmcBwCfg => bitsOf v 1 16 == 0
  | .dbgSampleCfg => !(bitsOf v 2 5 == 0 || inRange (bitsOf v 2 5) 4 24)
  | .pwrLimit => !inRange (bitsOf v 0 11) 400 (if s.isSmall then 1350 else 1650) || bitsOf v 16 8 == 0
  | .pwrFallowCfg => bitsOf v 1 16 == 0
  | .rasGlobalCfg => bitsOf v 1 7 == 0 || bitsOf v 8 8 == 0
  | _ => false

/-! ### Limits that relate fields, registers and state -/

/-- Pages for the receive buffers, 1 MiB for each rank; which stack and page each is on is left open (log entry 10). -/
def State.colReserve (s : State) : Nat → Option (State × List (Nat × Nat))
  | 0 => some (s, [])
  | n + 1 =>
    match pickFree 6 [n] (s.stackList.filter fun k => decide (0 < s.allocatable k)) with
    | none => none
    | some st =>
      let r := s.takePages st none 1
      match r.2 with
      | [] => none
      | pg :: _ => (r.1.colReserve n).map fun a => (a.1, (st, pg) :: a.2)

/-- The buffers as a write of COL_CFG leaves them: released, or reserved for SIZE ranks; none where they cannot be. -/
def State.colBuffers (s : State) (v : Nat) : Option State :=
  let s := s.group.buffers.foldl (fun s b => s.givePage b.1 b.2) s
  if bitsOf v 0 1 = 0 then some { s with group := { s.group with buffers := [] } }
  else (s.colReserve ((bitsOf v 7 7 + 1) / 2)).map fun a => { a.1 with group := { a.1.group with buffers := a.2 } }

/-- Whether every stack's free memory covers its share at a PERCENT (R210). -/
def State.shareFits (s : State) (percent : Nat) : Bool :=
  s.stackList.all fun n => decide (s.shareOf n percent ≤ (s.site n).used + (s.freePages n).length)

/-- Whether the structure table may lie at a range of pages of stack 0 (R265). -/
def State.structFits (s : State) (page n : Nat) : Bool :=
  (List.range n).all fun i =>
    decide (page + i < pagesPerStack) && s.chanOk 0 ((page + i) / 1024) && !s.isFixedPage 0 (page + i)

/-- Whether a value breaks a limit against other fields, registers or the state. -/
def State.stateBad (s : State) (p : Port) (r : Reg) (old new : Nat) : Bool :=
  match r with
  | .crvThetaBounds => decide (bitsOf new 16 16 < bitsOf new 0 16)
  | .numScaleCfg => decide (bitsOf new 4 3 < bitsOf new 1 3) || !inRange (bitsOf new 7 3) (bitsOf new 1 3) (bitsOf new 4 3)
  | .memRefreshPolicy => decide (bitsOf new 8 7 < bitsOf new 1 7) || decide (bitsOf new 15 7 < bitsOf new 8 7)
  | .ctxWeirBounds => decide (bitsOf new 16 16 < bitsOf new 0 16)
  | .hifPollCfg => !inRange (bitsOf new 1 10) (bitsOf new 11 10) (bitsOf new 21 10)
  | .colCfg => (bitsOf new 7 7 != 0 && decide (bitsOf new 7 7 ≤ bitsOf new 1 6)) || (s.colBuffers new).isNone
  | .memChanForce => s.boot.stage != 3
  | .slvStructBase => !s.problems.isEmpty || !s.structFits (bitsOf new 0 15) (bitsOf new 16 5)
  | .txnShadowCfg => !s.shareFits (bitsOf new 0 5)
  | .cadAnchor => s.cad.anchored && decide (bitsOf new 0 48 ≤ s.cad.frame.toNat)
  | .hifDoorbellBase => bitsOf old 0 1 == 1 && bitsOf old 12 52 != bitsOf new 12 52
  | .hifEvtRing => (bitsOf new 5 1 == 1 && !inRange (bitsOf new 0 5) 6 16) ||
      (bitsOf old 5 1 == 1 && (bitsOf old 0 5 != bitsOf new 0 5 || bitsOf old 12 52 != bitsOf new 12 52))
  | .dbgSluiceDump => (s.portSt p).dumping && bitsOf old 12 52 != bitsOf new 12 52
  | .dbgTrig => bitsOf new 0 1 == 1 && bitsOf new 2 4 == 0
  | _ => false

/-! ### What writes do beyond setting fields -/

/-- Step of the last seal of the TRAIN context, for records of changes that a write makes. -/
def State.writeStep (s : State) : Nat :=
  match s.trainCtx? with
  | some c => tgetD s.lastSealed c 0
  | none => 0

/-- THETA_EFF reset to THETA, clamped (R147). -/
def State.thetaReset (s : State) : State :=
  let lo := s.rf .crvThetaBounds 0 16
  let hi := s.rf .crvThetaBounds 16 16
  ({ s with curv := { s.curv with upRun := 0, downRun := 0 } } : State).setThetaEff s.writeStep
    (max lo (min hi (s.rf .crvTheta 0 16))) 3

/-- Shifts above DAMP_SHIFT_MAX return to 0 (R164). -/
def State.shiftsReset (s : State) : State :=
  let top := s.rf .crvRootCfg 8 4
  s.stats.foldl (fun s (e : Nat × Stat) => if top < e.2.shift then s.setShift e.1 s.writeStep 0 3 else s) s

/-- The effective rate that a written RATE gives: clamped to the bounds, or as it stands with WEIR_MODE fixed; 0 stays
open (R328, R329). -/
def State.weirReset (s : State) (i : Nat) : State :=
  let rate := s.rfi .ctxWeirCfg i 0 16
  let lo := s.rfi .ctxWeirBounds i 0 16
  let hi := s.rfi .ctxWeirBounds i 16 16
  s.setReg .ctxWeirEff i .steward (if rate = 0 ∨ s.rf .ctxPolicy 0 1 = 1 then rate else max lo (min hi rate))

/-- With POLL MODE fixed every interval is ACTIVE; each change is recorded (R296). -/
def State.pollFixed (s : State) : State :=
  let a := pollUnits (s.rf .hifPollCfg 1 10)
  s.ctxs.foldl (fun s (e : Nat × Ctx) =>
    if e.2.interval = a then s
    else (s.modCtx e.1 fun x => { x with interval := a }).devEvent 0x0004 1
      [BitVec.ofNat 32 e.1, BitVec.ofNat 32 (pollNs e.2.interval), BitVec.ofNat 32 (pollNs a)]) s

/-- Context 0 reads its entry of the steward port's doorbell table (R291, R313). -/
def State.bindZero (s : State) : State :=
  s.modCtx 0 fun x => { x with ring := (s.readRing .steward 0).getD {}, held := [] }

/-- HIF_EVT_RING.EN set: EVT_HEAD is read, the write index restarts there, and waiting attention events are written; a
READY that a port reset left due goes to both rings (R299, R313, R386). -/
def State.evtStart (s : State) (p : Port) : State :=
  let h := match s.doorbellAddr p 256 with
    | some a => leNat (s.hostRead p a 4)
    | none => 0
  let s := s.modPort p fun x => { x with evtHead := h, evtWrite := h, evtAttn := [] }
  let s := match (s.portSt p).readyDue with
    | some 2 => (s.modPort p fun x => { x with readyDue := none }).event [p, p.other] 1 2 0
        [BitVec.ofNat 32 (s.hwValue .hifId 0 p), 2]
    | _ => s
  s.evtDrain p 65

/-- A PERCENT taken into use, at once or when no transaction is open (R210). -/
def State.shareWrite (s : State) (old new : Nat) : State :=
  if new = old then s
  else if s.shadowDue.isSome || decide (new < old) then ({ s with shadowDue := some new } : State).shareSettle
  else s.applyShare new

/-- Pages that have become management pages are no free pool pages (R455). -/
def State.poolSettle (s : State) (stack : Nat) : State :=
  s.modSite stack fun x => { x with pool := x.pool.map fun (e : Nat × Nat) => (e.1, min e.2 (s.freeInChan stack e.1).length) }

/-- GO (R390, R414): verification in LOAD_WAIT, training in VERIFIED; elsewhere it is refused. -/
def State.goWrite (s : State) (p : Port) : State :=
  if s.boot.stage = 1 then { s with boot := { s.boot with stage := 2, err := 0 } }
  else if s.boot.stage = 3 then { s with boot := { s.boot with stage := 4 } }
  else s.cfgError p 0xE00004

/-- Notes which array counter registers the tenant port has set (R382): key 2·index for PMC_EVSEL, 2·index + 1 for
PMC_CTR. A counter's EVSEL that the steward writes is the steward's, and so is the counter. -/
def State.notePmc (s : State) (p : Port) (r : Reg) (idx : Nat) : State :=
  let own := if r = .pmcEvselArray then [2 * idx, 2 * idx + 1] else [2 * idx + 1]
  match p with
  | .tenant => { s with tenantPmc := own ++ s.tenantPmc.filter fun k => !own.contains k }
  | .steward => { s with tenantPmc := s.tenantPmc.filter fun k => !own.contains k }

/-- Bits of a register that a field's access lets a write set. -/
def rwMask (r : Reg) (idx : Nat) : Nat := maskOf (fieldsAt r idx) fun f => f.acc == .rw || f.acc == .rws
def w1cMask (r : Reg) (idx : Nat) : Nat := maskOf (fieldsAt r idx) fun f => f.acc == .w1c

/-- Effects of a write that has been taken: `old` and `new` are the register's values, `v` the written bits, `named` the
bits the write names. -/
def State.writeEffect (s : State) (p : Port) (r : Reg) (idx old new v named : Nat) : State :=
  let set1 (i : Nat) : Bool := bitsOf v i 1 == 1
  match r with
  | .hifDoorbellBase => if p = .steward ∧ bitsOf old 0 1 = 0 ∧ bitsOf new 0 1 = 1 then s.bindZero else s
  | .hifEvtRing => if bitsOf old 5 1 = 0 ∧ bitsOf new 5 1 = 1 then s.evtStart p else s
  | .hifPollCfg => if bitsOf new 0 1 = 1 then s.pollFixed else s
  | .crvTheta => if bitsOf named 0 16 = 0 then s else s.thetaReset
  | .crvPolicy => if bitsOf named 1 1 = 1 ∧ bitsOf new 1 1 = 0 then s.thetaReset else s
  | .crvRootCfg => s.shiftsReset
  | .numScaleCfg => { s with num := { s.num with hEff := bitsOf new 7 3, zeroRun := if s.num.hEff = bitsOf new 7 3 then s.num.zeroRun else 0 } }
  | .ctxWeirCfg => s.weirReset idx
  | .ctxPolicy => if bitsOf new 0 1 = 1 then (List.range 1024).foldl (fun s i => s.weirReset i) s else s
  | .memRefreshPolicy =>
    s.stackList.foldl (fun s n => s.boundOffset n (if bitsOf new 0 1 = 1 then 0 else bitsOf new 25 2)) s
  | .mem1500En => s.settleStack idx
  | .slvStructBase => s.poolSettle 0
  | .txnShadowCfg => s.shareWrite (bitsOf old 0 5) (bitsOf new 0 5)
  | .colCfg => (s.colBuffers new).getD s
  | .colStatus =>
    { s with group := { s.group with lost := s.group.lost &&& ~~~(BitVec.ofNat 64 ((v &&& w1cMask r idx) * 2 ^ (32 * (idx - 1)))) } }
  | .cadPeriod => if s.cad.mode = .acquiring ∧ s.cad.interval = none ∧ !s.cad.source then s.setCad fun c => { c with period := s.nominal } else s
  | .cadAnchor => if bitsOf new 48 1 = 1 then s.setCad fun c => { c with ppsSeen := false } else s
  | .cadJitter => s.setCad fun c => { c with jitterMax := c.jitterMax &&& (65535 - bitsOf v 16 16) }
  | .arrStatus => s.modArr idx fun x => { x with sticky := x.sticky &&& ~~~(BitVec.ofNat 7 (bitsOf v 16 7)) }
  | .pmcCtl => (List.range 3).foldl (fun s b => if set1 (3 + b) then s.ctrClear b else s) s
  | .pmcEvselArray => s.notePmc p r idx
  | .pmcCtrArray => s.notePmc p r idx
  | .pmcBwCfg => if bitsOf old 0 1 = 0 ∧ bitsOf new 0 1 = 1 then { s with bwSince := s.now, bwLength := bitsOf new 1 16 } else s
  | .dbgSampleCfg =>
    if bitsOf old 0 1 = 0 ∧ bitsOf new 0 1 = 1 then (List.range 16).foldl (fun s k => s.modArr (16 * idx + k) fun x => { x with issued := 0 }) s
    else s
  | .dbgTrig => if set1 1 then s.trigger p 1 else s
  | .dbgSluiceCfg => if set1 0 then s.sluiceStart p else s
  | .rasLogCtl =>
    let s := if bitsOf named 5 1 = 1 then { s with ras := { s.ras with overflow := set1 5 } } else s
    if set1 6 then { s with ras := { s.ras with log := [], wptr := 0 } } else s
  | .rasCfgErr => if set1 0 then { s with ras := { s.ras with cfgErr := false } } else s
  | .pwrBoot => if set1 8 then s.goWrite p else s
  | _ => s

/-! ### One register -/

/-- Whether a vote is being exchanged (R221). -/
def State.voting (s : State) : Bool := s.txns.any fun t => t.group && t.phase == .prepared

/-- Registers whose writes wait for the collective engine (R349). -/
def waitsForCol : Reg → Bool
  | .colCfg => true
  | .colCutTable => true
  | .colTopoTable => true
  | _ => false

/-- The bits a write ignores: CHAIN on an even counter (R367). -/
def chainOff (r : Reg) (idx v : Nat) : Bool :=
  (r == .pmcEvselArray || r == .pmcEvselSector || r == .pmcEvselGlobal) && idx % 2 == 0 && bitsOf v 25 1 == 1

/-- A write that names some bits of a register, checked and carried out; `off` is what RAS_CFG_ERR records. -/
def State.applyReg (s : State) (p : Port) (r : Reg) (idx named v off : Nat) : State :=
  let home := copyOf r p
  let v := v &&& named
  let rw := rwMask r idx &&& named
  let old := s.rawReg r idx home
  let new := (old &&& (2 ^ 64 - 1 - rw)) ||| (v &&& rw)
  if rw != 0 && (s.fieldBad r named new || s.stateBad p r old new) then s.cfgError p off
  else
    let chain := chainOff r idx v
    let new := if chain then new - 2 ^ 25 else new
    let badDump := r == .dbgSluiceCfg && bitsOf v 6 1 == 1 && !s.canDump p
    let s := if r == .dbgSluiceCfg && bitsOf v 6 1 == 1 && s.canDump p then s.dumpSluice p else s
    let file := if r == .pmcOvfGlobal || r == .pmcOvfSector || r == .pmcOvfArray then old &&& (2 ^ 64 - 1 - (v &&& w1cMask r idx)) else new
    let s := if file = old then s else s.setReg r idx home file
    let s := s.writeEffect p r idx old new v named
    if chain || badDump then s.cfgError p off else s

/-- Whether a collective or a vote is in flight; exchanges that wait for EN are not (R349). -/
def State.colBusy (s : State) : Bool :=
  !s.group.flights.isEmpty || (s.rf .colCfg 0 1 == 1 && !s.group.queue.isEmpty) || s.voting

/-- The same where COL writes wait while the engine or a vote is at work. -/
def State.putReg (s : State) (p : Port) (r : Reg) (idx named v off : Nat) : State :=
  if waitsForCol r && (s.colBusy || !s.group.waiting.isEmpty) then
    let rw := rwMask r idx &&& named
    let old := s.rawReg r idx .steward
    if s.fieldBad r named ((old &&& (2 ^ 64 - 1 - rw)) ||| (v &&& rw)) then s.cfgError p off
    else { s with group := { s.group with waiting := s.group.waiting ++ [({ reg := r, idx := idx, port := p }, named, v)] } }
  else s.applyReg p r idx named v off

/-- Waiting COL writes take effect once no collective or vote is in flight (R349). -/
def State.colSettle (s : State) : State :=
  if s.group.waiting.isEmpty || s.colBusy then s
  else
    let ws := s.group.waiting
    ws.foldl (fun s (w : RegKey × Nat × Nat) => s.applyReg w.1.port w.1.reg w.1.idx w.2.1 w.2.2 (regOffset w.1.reg w.1.idx))
      { s with group := { s.group with waiting := [] } }

/-! ### Authority (R7, R365, R451) -/

/-- Whether the tenant port may write a register with a value. -/
def State.tenantMay (s : State) (r : Reg) (idx v : Nat) : Bool :=
  let own (pair : Nat) : Bool := s.ctxOnPort (s.pairOwner pair) .tenant
  match r with
  | .pmcEvselArray => own (idx / 16) && s.ctxOnPort (bitsOf v 32 8) .tenant
  | .pmcCtrArray => own (idx / 16) && s.ctxOnPort (s.rfi .pmcEvselArray idx 32 8) .tenant
  | .pmcEvselSector => false
  | .pmcCtrSector => false
  | .pmcOvfSector => false
  | .ctxSliceMap => decide (0 < s.sliceMapWord idx true)
  | _ => (maskOf (fieldsAt r idx) fun f => f.steward) == 0 && decide (0 < s.tenantMask r idx)

/-- A write of some words of one register by a port. -/
def State.portWrite (s : State) (p : Port) (r : Reg) (idx named v off : Nat) : State :=
  if p = .tenant ∧ !s.tenantMay r idx v then s.cfgError p off else s.putReg p r idx named v off

/-! ### Accesses of BAR0 -/

/-- A write that reaches no served register before READY: recorded once READY is reached (R389, R448). -/
def State.earlyDrop (s : State) (p : Port) (off : Nat) : State :=
  if s.power.state = 3 ∨ s.isReady then s else { s with boot := { s.boot with refused := some (p, off) } }

def inWindow (off : Nat) : Bool := decide (0x1000000 ≤ off) && decide (off < 0x2000000)

/-- A write of n bytes (4 or 8) at an aligned offset, the value applying to a register of that size there. -/
def State.writeAt (s : State) (p : Port) (off n v : Nat) : State :=
  match s.target p off with
  | .nothing =>
    if s.isReady && s.power.state != 3 then s.cfgError p off
    else s.earlyDrop p off
  | .reg r idx word _ _ mirror =>
    if !s.served r then s.earlyDrop p off
    else if mirror then s.cfgError p off
    else if n = 8 then s.portWrite p r idx (2 ^ 64 - 1) v off
    else s.portWrite p r idx ((2 ^ 32 - 1) * 2 ^ (32 * word)) (v * 2 ^ (32 * word)) off

/-- Whether a write of an offset is a low word to be held. -/
def State.holdsLow (s : State) (p : Port) (off : Nat) : Bool :=
  match s.target p off with
  | .reg _ _ word bytes _ mirror => bytes == 8 && word == 0 && !mirror
  | .nothing => false

/-- One 32-bit write: held, joined with a held low word, or carried out (R445). -/
def State.write32 (s : State) (p : Port) (off v : Nat) : State :=
  let x := s.portSt p
  let s := s.setPort p { x with captured := none, held := none }
  match x.held with
  | some (o, low) =>
    if o = off then s.writeAt p (off - 4) 8 (low.toNat + 2 ^ 32 * v)
    else if s.holdsLow p off then s.modPort p fun x => { x with held := some (off + 4, BitVec.ofNat 32 v) }
    else s.writeAt p off 4 v
  | none =>
    if s.holdsLow p off then s.modPort p fun x => { x with held := some (off + 4, BitVec.ofNat 32 v) }
    else s.writeAt p off 4 v

/-- One aligned 64-bit write: a 64-bit register as one value, or two registers. -/
def State.write64 (s : State) (p : Port) (off v : Nat) : State :=
  let s := s.modPort p fun x => { x with captured := none, held := none }
  if s.holdsLow p off then s.writeAt p off 8 v
  else (s.writeAt p off 4 (v % 2 ^ 32)).writeAt p (off + 4) 4 (v / 2 ^ 32)

/-- A write into the firmware load window (R414): stored in LOAD_WAIT from the steward port, else dropped and recorded. -/
def State.windowWrite (s : State) (p : Port) (off : Nat) (bs : List Byte) : State :=
  let s := s.modPort p fun x => { x with captured := none, held := none }
  if p = .steward ∧ s.boot.stage = 1 then { s with boot := { s.boot with window := memPut s.boot.window (off - 0x1000000) bs } }
  else s.cfgError p off

/-- A write of n whole words to an offset that is a multiple of 4, in increasing order (R444). -/
def State.writeWords (s : State) (p : Port) (off v : Nat) : Nat → State
  | 0 => s
  | 1 => s.write32 p off (v % 2 ^ 32)
  | n + 2 =>
    if off % 8 = 0 then (s.write64 p off (v % 2 ^ 64)).writeWords p (off + 8) (v / 2 ^ 64) n
    else (s.write32 p off (v % 2 ^ 32)).writeWords p (off + 4) (v / 2 ^ 32) (n + 1)

/-- A write of BAR0 (R443–R450): `width` bytes at an offset. -/
def State.busWrite (s : State) (p : Port) (off width v : Nat) : State :=
  if inWindow off then s.windowWrite p off (leBytes width v)
  else if width < 4 ∨ off % 4 ≠ 0 ∨ width % 4 ≠ 0 then
    (s.modPort p fun x => { x with captured := none, held := none }).cfgError p off
  else s.writeWords p off v (width / 4)

/-- The rows of the table that write a register: nothing happens where BAR0 does not answer (R448). -/
def regRow (p : Port) (off width v : Nat) (s : State) : Host.Outcome State Fault Refusal :=
  .next (if s.barOpen p then s.busWrite p off width v else s)

/-! ### The rows -/

/-- REGISTER_WRITE (R444, R446): `width` bytes, `value` in little-endian order. -/
def execRegisterWrite (p : Port) (offset width value : Nat) (s : State) : Host.Outcome State Fault Refusal :=
  regRow p offset width value s

/-- GO (R390). -/
def execGo (p : Port) (s : State) : Host.Outcome State Fault Refusal := regRow p 0xE00004 4 0x100 s

/-- FIRMWARE_LOAD_WRITE (R414): any size and alignment. -/
def execFirmwareLoadWrite (p : Port) (offset : Nat) (bytes : List Byte) (s : State) : Host.Outcome State Fault Refusal :=
  .next (if s.barOpen p then s.windowWrite p (0x1000000 + offset % 0x1000000) bytes else s)

/-- CAD_ANCHOR (R356). -/
def execCadAnchor (p : Port) (value : DWord) (s : State) : Host.Outcome State Fault Refusal := regRow p 0x200018 8 value.toNat s

/-- HIF_EVT_RING_ENABLE (R313): a write with EN set. -/
def execHifEvtRingEnable (p : Port) (value : DWord) (s : State) : Host.Outcome State Fault Refusal :=
  regRow p 0x18 8 (value.toNat ||| 0x20) s

/-- HIF_DOORBELL_ENABLE (R313): a write with EN set. -/
def execHifDoorbellEnable (p : Port) (value : DWord) (s : State) : Host.Outcome State Fault Refusal :=
  regRow p 0x10 8 (value.toNat ||| 1) s

/-- SLUICE_ENABLE (R379): a write with EN set. -/
def execSluiceEnable (p : Port) (value : Word) (s : State) : Host.Outcome State Fault Refusal :=
  regRow p 0xC00008 4 (value.toNat ||| 1) s

/-- DUMP (R381): a write of DUMP with EN clear and the other fields as they stand (log entry 41). -/
def execDump (p : Port) (s : State) : Host.Outcome State Fault Refusal :=
  regRow p 0xC00008 4 ((s.rawReg .dbgSluiceCfg 0 p &&& 0xFFFFF03E) ||| 0x40) s

/-- FORCE (R379): a write of FORCE, the other fields as they stand. -/
def execForce (p : Port) (s : State) : Host.Outcome State Fault Refusal :=
  regRow p 0xC00000 8 (s.rawReg .dbgTrig 0 p ||| 2) s

/-- PMC_CLEAR (R382): FREEZE as it stands. -/
def execPmcClear (p : Port) (banks : BitVec 3) (s : State) : Host.Outcome State Fault Refusal :=
  regRow p 0xB00000 4 (s.rf .pmcCtl 0 3 + 8 * banks.toNat) s

/-- PMC_FREEZE (R368). -/
def execPmcFreeze (p : Port) (banks : BitVec 3) (s : State) : Host.Outcome State Fault Refusal := regRow p 0xB00000 4 banks.toNat s

/-- RAS_LOG_CLEAR (R412): OVERFLOW as it stands. -/
def execRasLogClear (p : Port) (s : State) : Host.Outcome State Fault Refusal :=
  regRow p 0xD00000 4 (0x40 + 32 * b2n s.ras.overflow) s

/-- TXN_SHADOW_CFG (R210). -/
def execTxnShadowCfg (p : Port) (value : Word) (s : State) : Host.Outcome State Fault Refusal := regRow p 0x600000 4 value.toNat s

/-- CRV_THETA (R147). -/
def execCrvTheta (p : Port) (value : Word) (s : State) : Host.Outcome State Fault Refusal := regRow p 0x400004 4 value.toNat s

/-- CRV_ROOT_CFG (R164). -/
def execCrvRootCfg (p : Port) (value : Word) (s : State) : Host.Outcome State Fault Refusal := regRow p 0x400018 4 value.toNat s

/-- NUM_SCALE_CFG (R232). -/
def execNumScaleCfg (p : Port) (value : Word) (s : State) : Host.Outcome State Fault Refusal := regRow p 0xA00004 4 value.toNat s

/-- CTX_WEIR_CFG (R329). -/
def execCtxWeirCfg (p : Port) (c weir : Nat) (value : Word) (s : State) : Host.Outcome State Fault Refusal :=
  if 256 ≤ c ∨ 4 ≤ weir then .fault .noSuchUnit else regRow p (0x101000 + 16 * c + 4 * weir) 4 value.toNat s

/-- COL_CFG (R349): a write at an offset of the COL block; cuts are written whole. -/
def execColCfg (p : Port) (offset : Nat) (value : DWord) (s : State) : Host.Outcome State Fault Refusal :=
  let off := offset % 0x100000
  if inRange off 0x100 0x17F ∧ off % 8 = 0 then regRow p (0x900000 + off) 8 value.toNat s
  else regRow p (0x900000 + off) 4 (value.toNat % 2 ^ 32) s

end Sys2Proof.Machine
end

