-- ==== Sys2Proof/Machine/Commit.lean ====
section
/-! DEFINITION. The transaction descriptors, register groups, the commit sequence and group votes (R204–R223). -/

namespace Sys2Proof.Machine

def dTxnOpenLimit : Nat := 0x0606
def dTxnTagBusy : Nat := 0x0607
def dRegGroup : Nat := 0x0605

/-! ### TXN_BEGIN (R213, R214) -/

def beginGroup (d : Desc) : Bool := d.f 2 2 1 == 1

def State.checkTxnBegin (s : State) (c : Nat) (d : Desc) : Checks :=
  { auth := !beginGroup d || s.isSteward c
    fmt := firstBad [(d.inTxn, dTxnNested), (reservedSet d [7, full, 0xFFFF, full], dReserved)]
    lim := firstBad [
      (decide (64 ≤ s.openTxns), dTxnOpenLimit), ((s.txn? c d.tag).isSome, dTxnTagBusy),
      (beginGroup d && (s.groupSize == 0 || s.cutBad (d.f 5 28 4)), dCollRank)] }

/-- Ranks of a group transaction other than the device's own. -/
def State.voters (s : State) (t : Txn) : List Nat := (s.cutRanks (bitsOf t.key.toNat 28 4)).filter (· != s.ownRank)

/-- A peer's vote for a transaction (R221). -/
def State.takeVote (s : State) (t : Txn) (rank : Nat) (commit : Bool) : State :=
  if !commit then s.abortTxn t.ctx t.tag dGroupVote none
  else s.setTxn { t with votes := if t.votes.contains rank then t.votes else t.votes ++ [rank] }

/-- Votes that came before the transaction began. -/
def State.takeVotes (s : State) (c tag : Nat) (key : Word) : State :=
  let mine := s.group.votes.filter fun v => v.2.1 == key
  let s := { s with group := { s.group with votes := s.group.votes.filter fun v => v.2.1 != key } }
  mine.foldl (fun s v => match s.txn? c tag with | some t => s.takeVote t v.1 v.2.2 | none => s) s

def State.startTxnBegin (s : State) (c : Nat) (d : Desc) : State :=
  let t : Txn := { ctx := c, tag := d.tag, order := s.txnCount, atFrame := d.f 2 0 1 == 1, lateOk := d.f 2 1 1 == 1,
                   group := beginGroup d, frame := d.w 3 + 2 ^ 32 * d.f 4 0 16, key := d.w5 }
  let s := ({ s with txns := s.txns ++ [t], txnCount := s.txnCount + 1 } : State).finish c d stDone 0 0
  if t.group then s.takeVotes c d.tag t.key else s

/-! ### TXN_COMMIT and TXN_ABORT -/

def State.checkTxnCommit (s : State) (c : Nat) (d : Desc) : Checks :=
  { fmt := firstBad [(d.inTxn, dTxnNested), (reservedSet d [1, full, full, 0xFFFF], dReserved), (d.w64 3 % 32 != 0, dAlign)]
    lim := match s.txn? c d.tag with
      | none => some dTxnUnknown
      | some t => if t.isOpen && t.commitSeq.isSome then some dTxnCommitting else none }

def State.startTxnCommit (s : State) (c : Nat) (d : Desc) : State :=
  match s.txn? c d.tag with
  | none => s
  | some t =>
    match t.phase with
    | .aborted e => ({ s with txns := s.txns.filter fun x => !(x.ctx == c && x.tag == d.tag) } : State).finish c d stAbortedTxn e.toNat 0
    | _ => s.setTxn { t with phase := .committing, commitSeq := some d.seq, digests := d.f 2 0 1 == 1, digestAddr := d.w64 3,
                             digestMax := d.f 5 0 16 }

def State.checkTxnAbort (s : State) (c : Nat) (d : Desc) : Checks :=
  { fmt := firstBad [(d.inTxn, dTxnNested), (reservedSet d [], dReserved)]
    lim := match s.txn? c d.tag with
      | none => some dTxnUnknown
      | some t => if t.pastVote then some dTxnCommitting else none }

def State.startTxnAbort (s : State) (c : Nat) (d : Desc) : State :=
  let s := s.abortTxn c d.tag dTxnAborted none
  (({ s with txns := s.txns.filter fun x => !(x.ctx == c && x.tag == d.tag) } : State).finish c d stDone 0 0).shareSettle

/-! ### Register groups (R220, R308) -/

/-- An entry of a register group: offset, mask, value. -/
def groupEntries (bs : List Byte) (n : Nat) : List (Nat × Word × Word) :=
  (List.range n).map fun i => ((leWord bs (16 * i)).toNat, leWord bs (16 * i + 4), leWord bs (16 * i + 8))

def State.groupList (s : State) (c : Nat) (d : Desc) : List Byte := s.hostRead (s.ctxD c).port (d.w64 4) (16 * d.f 3 0 9)

/-- Whether an entry is refused at acceptance. -/
def State.entryRefused (s : State) (e : Nat × Word × Word) : Bool :=
  if inWindow e.1 then true
  else match s.target .steward e.1 with
    | .nothing => e.2.1 != 0
    | .reg r idx word _ _ mirror =>
      let named := e.2.1.toNat * 2 ^ (32 * word)
      let old := s.rawReg r idx .steward
      (mirror && e.2.1 != 0) || (named &&& rwMask r idx) != named ||
        s.fieldBad r named ((old &&& (2 ^ 64 - 1 - named)) ||| (e.2.2.toNat * 2 ^ (32 * word) &&& named))

def State.checkRegGroup (s : State) (c : Nat) (d : Desc) : Checks :=
  let n := d.f 3 0 9
  let bs := s.groupList c d
  let es := groupEntries bs n
  { auth := s.isSteward c
    fmt := firstBad [
      (reservedSet d [0xFF, 0x1FF, full, full] || decide (256 < n), dReserved), (d.w64 4 % 16 != 0, dAlign),
      (es.any fun e => e.1 % 4 != 0, dAlign), ((List.range n).any fun i => leWord bs (16 * i + 12) != 0, dReserved),
      (es.any s.entryRefused, dRegGroup)] }

/-- Entries of one register joined: later bits win. -/
def joinEntry (acc : List (Reg × Nat × Nat × Nat × Nat)) (x : Reg × Nat × Nat × Nat × Nat) : List (Reg × Nat × Nat × Nat × Nat) :=
  let same (y : Reg × Nat × Nat × Nat × Nat) : Bool := y.1 == x.1 && y.2.1 == x.2.1
  if acc.any same then
    acc.map fun y => if same y then (y.1, y.2.1, y.2.2.1 ||| x.2.2.1, (y.2.2.2.1 &&& (2 ^ 64 - 1 - x.2.2.1)) ||| (x.2.2.2.1 &&& x.2.2.1), y.2.2.2.2) else y
  else acc ++ [x]

/-- Entries as registers: which, bits named, value, offset for RAS_CFG_ERR. -/
def State.entryRegs (s : State) (es : List (Nat × Word × Word)) : List (Reg × Nat × Nat × Nat × Nat) :=
  es.foldl (fun (acc : List (Reg × Nat × Nat × Nat × Nat)) (e : Nat × Word × Word) => match s.target .steward e.1 with
    | .nothing => acc
    | .reg r idx word _ _ _ =>
      if e.2.1 = 0 then acc else joinEntry acc (r, idx, e.2.1.toNat * 2 ^ (32 * word), e.2.2.toNat * 2 ^ (32 * word), e.1)) []

/-- All entries applied, each register once with the value that all of them give it. -/
def State.applyGroup (s : State) (es : List (Nat × Word × Word)) : State :=
  (s.entryRegs es).foldl (fun s x => s.putReg .steward x.1 x.2.1 x.2.2.1 x.2.2.2.1 x.2.2.2.2) s

def State.startRegGroup (s : State) (c : Nat) (d : Desc) : State :=
  let n := d.f 3 0 9
  let es := groupEntries (s.groupList c d) n
  if n = 0 then s.finish c d stDoneEmpty 0 0
  else
    let s := match s.txnOf c d with
      | some t => s.setTxn { t with deferred := t.deferred ++ [Deferred.registers es] }
      | none => s.applyGroup es
    s.finish c d stDone 0 0

/-! ### Rows 1 to 5 (R215, R219, R221) -/

/-- Objects a transaction writes. -/
def Txn.objects (t : Txn) : List Nat := (t.holds.filter (· < 65536)).mergeSort fun a b => decide (a ≤ b)

/-- Bytes of the blocks of a working copy that this device owns, in block order. -/
def State.ownCopy (s : State) (o : Obj) (pages : Option Txn) : List Byte :=
  let d := o.decl
  match s.region? o.ctx d.wc with
  | none => []
  | some r =>
    let ps := match pages with | some t => t.pagesOf d.wc r | none => r.pages
    let gb := groupBytes d.wcFmt
    let own := s.ownedRange o
    (List.range own.2).flatMap fun n =>
      let j := own.1 + n
      s.regionBytesBy r ps (j / max 1 d.nb * tensorPitch d.align d.wcFmt d.cols + elemByte d.wcFmt (64 * (j % max 1 d.nb))) gb

/-- Digest of an object as its transaction leaves it; of an object in H mode the device's own blocks of the working copy
(R222, R342; log entry 42). -/
def State.commitDigest (s : State) (t : Txn) (o : Obj) (count : Nat) : DWord :=
  if o.decl.shard ≠ 1 then s.objDigest (some t) o count
  else
    let comps := (objComponents o.decl).filter fun k => k.1 != 4
    let sum := comps.foldl (fun acc k =>
      match s.region? o.ctx k.2 with
      | none => acc
      | some r => (acc + digestChunks k.1 (s.regionBytesBy r (t.pagesOf k.2 r) 0 r.decl.size)) % 2 ^ 64) 0
    digestClose o.decl.num ((sum + digestChunks 4 (s.ownCopy o (some t))) % 2 ^ 64) count

/-- Whether every object of a transaction has a version slot: at most four live versions, and for an H-mode object no pin of
the version whose buffer the commit overwrites (R128, R342). -/
def State.slotsFree (s : State) (t : Txn) : Bool :=
  t.objects.all fun n => match tget s.objects n with
    | none => true
    | some o =>
      let pinned := o.live.filter fun v => !v.pins.isEmpty
      if o.decl.shard = 1 then pinned.all fun v => v.number == o.version else decide (pinned.length < 4)

/-- Row 5 is reached: a frame already begun is late (R219). -/
def State.rowFive (s : State) (t : Txn) : State :=
  if t.atFrame && decide (t.frame ≤ s.cad.frame.toNat) then
    if t.lateOk then s.setTxn { t with frame := s.cad.frame.toNat + 1 } else s.abortTxn t.ctx t.tag dFrameLate none
  else s

/-- Rows 3 and 4 for a transaction that has prepared: a slot for each object, then the votes. -/
def State.rowsAdvance (s : State) (c tag : Nat) : State :=
  match s.txn? c tag with
  | none => s
  | some t =>
    if t.phase = .committing ∧ t.ready ∧ s.slotsFree t then
      let all := (s.voters t).all t.votes.contains
      let t : Txn := { t with phase := if t.group && all then .voted else .prepared,
                              voteBy := s.now + cyclesPerUs * s.rf .txnGroupCfg 0 16 }
      let s := s.setTxn t
      let s := if t.group then s.sendVote t.key true else s
      if t.group && !all then s else s.rowFive t
    else s

/-- Commits that wait for a slot look again (R215). -/
def State.slotsSettle (s : State) : State := s.txns.foldl (fun s t => s.rowsAdvance t.ctx t.tag) s

/-- Whether every member that the commit waits for is complete; a ROOT_REFRESH member takes effect only at the commit. -/
def State.membersDone (s : State) (t : Txn) : Bool :=
  t.members.all fun q => match (s.ctxD t.ctx).opens.find? fun o => o.desc.seq == q with
    | some o => o.desc.opcode == 0x11
    | none => true

/-- The digests of the transaction's objects, as it would install them. -/
def State.formDigests (s : State) (t : Txn) : Table DWord :=
  t.objects.foldl (fun (m : Table DWord) n => match tget s.objects n with
    | some o => tset m n (s.commitDigest t o (tgetD t.counts n o.updates))
    | none => m) []

/-- COMMIT_PREPARE (R215 rows 1 to 3): digests are formed and the slots looked at. -/
def execCommitPrepare (c tag : Nat) (s : State) : Host.Outcome State Fault Refusal :=
  match s.txn? c tag with
  | none => .next s
  | some t =>
    if t.phase ≠ .committing ∨ t.ready ∨ !s.membersDone t then .next s
    else
      .next ((s.setTxn { t with ready := true, formed := s.formDigests t }).rowsAdvance c tag)

/-- GROUP_VOTE (R221). -/
def execGroupVote (rank : Nat) (key : Word) (commit : Bool) (s : State) : Host.Outcome State Fault Refusal :=
  if rank = s.ownRank ∨ !s.rankValid rank ∨ !s.collOn ∨ !s.portOpen s.peerPort then .next s
  else
   let s := { s with group := s.group.heard rank }
   match s.txns.find? fun t => t.isOpen && t.group && t.key == key && !t.pastVote && (s.voters t).contains rank with
    | none =>
      if s.txns.any fun t => t.group && t.key == key then .next s
      else .next { s with group := { s.group with votes := s.group.votes ++ [(rank, key, commit)] } }
    | some t =>
      let s := s.takeVote t rank commit
      match s.txn? t.ctx t.tag with
      | none => .next s
      | some t =>
        if t.phase = .prepared ∧ (s.voters t).all t.votes.contains then
          let t : Txn := { t with phase := .voted }
          .next ((s.setTxn t).rowFive t)
        else .next s

/-- VOTE_TIMEOUT (R221): a vote is still missing VOTE_TIMEOUT microseconds after row 4 began. -/
def execVoteTimeout (c tag : Nat) (s : State) : Host.Outcome State Fault Refusal :=
  match s.txn? c tag with
  | none => .next s
  | some t => if t.group ∧ t.phase = .prepared ∧ t.voteBy ≤ s.now then .next (s.abortTxn c tag dGroupVote none) else .next s

/-! ### Rows 6 and 7 -/

/-- A shadow page becomes the page of the new version; what it supersedes returns to the pool, but for working copies, whose
pages stay with the old version (R209). -/
def State.installPage (s : State) (c : Nat) (h : Shadow) : State :=
  let old := match tget (s.ctxD c).regions h.region with
    | some r => (tgetD r.pages h.stack [])[h.index]?
    | none => none
  let s := s.modCtx c fun x => { x with regions := tmod x.regions h.region fun r =>
    { r with pages := tmod r.pages h.stack fun l => l.set h.index h.page } }
  match s.objOfRegion c h.region with
  | some (_, 4) => s
  | _ => match old with | some pg => s.poolGive [(h.stack, pg)] | none => s

/-- An object's version word advances (R208). -/
def State.advance (s : State) (t : Txn) (n : Nat) : State :=
  match tget s.objects n with
  | none => s
  | some o =>
    let pages := match s.region? o.ctx o.decl.wc with | some r => r.pages | none => []
    s.modObj n fun x =>
      { x with version := x.version + 1, updates := tgetD t.counts n x.updates, digest := tgetD t.formed n x.digest,
               live := x.live ++ [{ number := x.version + 1, pages := pages }] }

/-- EMAX as a byte: −127 for −127 and below, −128 for none (R189). -/
def emaxByte (e : Option Int) : Nat :=
  match e with
  | none => 0x80
  | some v => if v = -128 then 0x80 else signedField 8 (max v (-127))

/-- The update record of an applied object, from all granaries (R189). -/
def State.updateRecord (s : State) (g : GranStep) (n : Nat) : List Byte :=
  let es := s.granaries.filterMap fun e => tget e.2.emax n
  let emax := es.foldl (fun (a : Option Int) e => match a with | some b => some (max b e) | none => some e) none
  let sum (f : Granary → Table Nat) : Nat := s.granaries.foldl (fun k e => k + tgetD (f e.2) n 0) 0
  let uexp := match g.entries.find? fun e => e.obj == n with | some e => e.uexp | none => 0
  leBytes 4 (g.step % 2 ^ 32) ++ leBytes 4 (emaxByte emax + 256 * signedField 8 uexp) ++ leBytes 4 (sum (·.lost) % 2 ^ 32) ++
    leBytes 4 (sum (·.nonfin) % 2 ^ 32)

/-- The objects of an apply commit: records written, buffers released, the step's slices counted (R185, R189, R196, R197). -/
def State.commitGran (s : State) (t : Txn) : State :=
  match s.gran with
  | none => s
  | some g =>
    if !t.gran || g.ctx != t.ctx then s
    else
      let objs := t.objects.filter g.applying.contains
      let reg := match (s.ctxD t.ctx).plans with | e :: _ => e.2.body.recordRegion | [] => 0
      let s := objs.foldl (fun s n => (s.regionPut t.ctx reg (16 * n) (s.updateRecord g n)).releaseBuf n) s
      let s := { s with gran := some { g with applying := g.applying.filter fun n => !objs.contains n,
                                              committed := g.committed ++ objs, window := !(t.lastApply || g.closed),
                                              closed := t.lastApply || g.closed } }
      if t.lastApply then s.stepCommitted t.ctx else s

/-- Deferred settings take effect: register groups joined, then the others in member order; a STAT_CFG at the first seal
after the commit (R152, R205, R220). -/
def State.applyDeferred (s : State) (t : Txn) : State :=
  let s := s.applyGroup (t.deferred.flatMap fun q => match q with | .registers es => es | _ => [])
  t.deferred.foldl (fun s q => match q with
    | .registers _ => s
    | .partition n ch => s.releaseChange n ch
    | .descriptor d =>
      if d.opcode = 0x10 then { s with curv := { s.curv with cfgDue := s.curv.cfgDue ++ [(t.ctx, d)] } } else if d.opcode = 0x12 then s.doPrecondCfg t.ctx d else s.doRootRefresh t.ctx d) s

/-- Digest entries of a commit (R223). -/
def State.digestEntries (s : State) (t : Txn) (stamp : Nat) : List Byte :=
  (t.objects.take t.digestMax).flatMap fun n => match tget s.objects n with
    | none => []
    | some o => leBytes 8 n ++ leBytes 8 o.version ++ leBytes 8 o.digest.toNat ++ leBytes 8 stamp

/-- H-mode objects: the new working copy is gathered across the cut without a descriptor (R342). -/
def State.gatherCopies (s : State) (t : Txn) : State :=
  t.objects.foldl (fun s n => match tget s.objects n with
    | some o => if o.decl.shard = 1 ∧ s.inCut o.decl.shardCut then
        s.exchange o.ctx 0 7 (BitVec.ofNat 32 o.version) n 0 o.decl.shardCut (s.ownCopy o none) else s
    | none => s) s

/-- Rows 6 and 7. -/
def State.commitNow (s : State) (t : Txn) : State :=
  let stamp := s.stamp
  let s := t.shadows.foldl (fun s h => s.installPage t.ctx h) s
  let s := t.objects.foldl (fun s n => s.advance t n) s
  let s := (s.applyDeferred t).commitGran t
  let s := t.objects.foldl (fun s n => s.retire n) s
  let s := if t.digests then let bs := s.digestEntries t stamp
      (s.ctxWrite t.ctx (s.ctxD t.ctx).port t.digestAddr bs).charge t.ctx 2 bs.length
    else s
  let s := ({ s with txns := s.txns.filter fun x => !(x.ctx == t.ctx && x.tag == t.tag) } : State).pulse 0x241 0 1 t.ctx 0
  let s := (s.gatherCopies t).takeEarly
  let s := match t.commitSeq with
    | some q => s.completeSeq t.ctx q stDone 0 (BitVec.ofNat 32 t.objects.length)
    | none => s
  s.shareSettle

/-- COMMIT_POINT (R215 rows 5 to 7): the coordinator passes the commit point once the votes are in, the frame has begun and no
object would have a fifth live version, which a pin taken since row 3 may have brought about (R128). -/
def execCommitPoint (c tag : Nat) (s : State) : Host.Outcome State Fault Refusal :=
  let s := s.rowsAdvance c tag
  match s.txn? c tag with
  | none => .next s
  | some t =>
    let passed := t.phase == .voted || (t.phase == .prepared && !t.group)
    if passed && s.slotsFree t && (!t.atFrame || decide (t.frame ≤ s.cad.frame.toNat)) then .next (s.commitNow t) else .next s

end Sys2Proof.Machine
end

