-- ==== Sys2Proof/Machine/Boot.lean ====
section
/-! DEFINITION. Resets and start-up (R273–R275, R326, R383–R390, R413–R416, R431, R432, R455). -/

namespace Sys2Proof.Machine

/-! ### Pins -/

/-- Power good, and neither reset of the whole device asserted (R383). -/
def State.running (s : State) : Bool := s.pwrok && s.rstHigh && s.steward.perstHigh

/-- The host memories with the roles of the ports exchanged: each host keeps its memory when the strap moves its port to
the other role (R287). -/
def State.swapHosts (s : State) : State := { s with hostA := s.hostB, hostB := s.hostA }

/-! ### Cold reset -/

/-- What a cold reset leaves: every field at its cold value; the commands that wait, the hosts' memories, the strap last
latched and the free-value counter are outside the device (R383, R387). -/
def State.cold (s : State) : State :=
  { pending := s.pending, hostA := s.hostA, hostB := s.hostB, portaRole := s.portaRole, free := s.free }

/-- PWROK_RISE: the straps latch and start-up begins at stage 0; RST_N and both PERST_N pins count as released until a
command asserts them (log entry 2). -/
def execPwrokRise (portaRole testMode : Bool) (s : State) : Host.Outcome State Fault Refusal :=
  if s.pwrok then .next s
  else
    let s := if portaRole = s.portaRole then s else s.swapHosts
    .next { s.cold with pwrok := true, rstHigh := true, portaRole := portaRole, testMode := testMode,
                        steward := { perstHigh := true }, tenant := { perstHigh := true } }

/-- PWROK_FALL: a cold reset; every output is released and the THERMTRIP_N latch clears. -/
def execPwrokFall (s : State) : Host.Outcome State Fault Refusal := .next s.cold

/-! ### Warm reset (R383–R387) -/

/-- A sluice as a warm reset leaves it: its ring and status stay, recording is frozen (R381). -/
def PortState.sluiceKept (x : PortState) : PortState :=
  { sluiceWptr := x.sluiceWptr, triggered := x.triggered, frozen := true, wrapped := x.wrapped, ringFull := x.ringFull,
    sluiceLost := x.sluiceLost }

/-- A stack site through a warm reset: training results, map-outs and withdrawn pages stay; a stack that is present is in
self-refresh; TEMP holds what the next reading gives (R285, R385, R387). -/
def Stack.warm (x : Stack) (temp : Nat) : Stack :=
  { present := x.present, trained := x.trained, lanes := x.lanes, out := x.out, failing := x.failing,
    withdrawn := x.withdrawn, runOut := x.runOut, temp := temp, selfRefresh := x.present }

/-- What a warm reset leaves (the table Reset Survival). -/
def State.warm (s : State) : State :=
  { pending := s.pending, hostA := s.hostA, hostB := s.hostB, free := s.free + 1, now := s.now,
    pwrok := s.pwrok, rstHigh := s.rstHigh, portaRole := s.portaRole, testMode := s.testMode,
    hbm := s.hbm, sites := s.sites.map fun (e : Nat × Stack) => (e.1, e.2.warm (if e.2.present then Config.freeNat 64 [e.1, s.free] % 256 else 0)),
    regs := s.regs.filter fun (e : RegKey × DWord) => e.1.reg == .memChanForce,
    steward := { s.steward.sluiceKept with perstHigh := s.steward.perstHigh },
    tenant := { s.tenant.sluiceKept with perstHigh := s.tenant.perstHigh },
    ras := { log := s.ras.log, wptr := s.ras.wptr, overflow := s.ras.overflow },
    power := { vcoreFault := s.power.vcoreFault, vsramFault := s.power.vsramFault },
    boot := { variant := s.boot.variant, everReady := true, warm := true } }

/-- What a warm reset leaves before the first READY: a cold start without a latch of the straps (R384). -/
def State.coldAgain (s : State) : State :=
  { s.cold with pwrok := s.pwrok, rstHigh := s.rstHigh, testMode := s.testMode, now := s.now,
                steward := { perstHigh := s.steward.perstHigh }, tenant := { perstHigh := s.tenant.perstHigh } }

/-- The reset of the whole device once a pin asserts; a stopped start-up stays stopped (R390). -/
def State.warmDown (s : State) : State :=
  if s.boot.stage = 15 then
    ((s.modPort .steward fun x => { x with linkUp := false }).modPort .tenant fun x => { x with linkUp := false })
  else if s.boot.everReady then s.warm else s.coldAgain

/-- WARM_RESET: RST_N (`byPin`) or the steward port's PERST_N asserts. -/
def execWarmReset (byPin : Bool) (s : State) : Host.Outcome State Fault Refusal :=
  if !s.pwrok then .next s
  else
    let fresh := s.rstHigh && s.steward.perstHigh
    let s := if byPin then { s with rstHigh := false } else s.modPort .steward fun x => { x with perstHigh := false }
    .next (if fresh then s.warmDown else s)

/-- WARM_RESET_RELEASE: both pins are high, and start-up begins at stage 0. -/
def execWarmResetRelease (s : State) : Host.Outcome State Fault Refusal :=
  if !s.pwrok || s.running then .next s
  else .next (({ s with rstHigh := true, now := 0 } : State).modPort .steward fun x => { x with perstHigh := true })

/-! ### Port reset (R326, R386) -/

/-- Register values that a port reset takes away: the tenant's copies but HIF_PORT_CFG, the weirs of its contexts, array
counters it has set (R326, R382). -/
def State.lostAtPortReset (s : State) (k : RegKey) : Bool :=
  (k.port == .tenant && perPortReg k.reg && k.reg != .hifPortCfg) ||
  ((k.reg == .ctxWeirCfg || k.reg == .ctxWeirBounds || k.reg == .ctxWeirEff) && s.ctxOnPort (k.idx / 4) .tenant) ||
  (k.reg == .pmcEvselArray && s.tenantPmc.contains (2 * k.idx)) ||
  (k.reg == .pmcCtrArray && s.tenantPmc.contains (2 * k.idx + 1))

/-- The tenant port's own state in reset: attention events and losses not yet reported stay for its event ring. -/
def PortState.inReset (x : PortState) : PortState :=
  { evtQueue := x.evtQueue, lostInfo := x.lostInfo, lostAttn := x.lostAttn, readyDue := some 2 }

/-- The port reset of a device past READY. -/
def State.portDown (s : State) : State :=
  let mine := (s.ctxs.filter fun (e : Nat × Ctx) => e.2.port == .tenant).map fun e => e.1
  let torn := mine.filter fun c => (s.ctxD c).mode != .tornDown
  let s := torn.foldl (fun s c => s.teardown c 4) s
  let s := { s with regs := s.regs.filter fun (e : RegKey × DWord) => !s.lostAtPortReset e.1, tenantPmc := [],
                    attestQueue := s.attestQueue.filter fun (e : Port × List Byte) => e.1 != Port.tenant }
  let s := mine.foldl (fun s c => s.modCtx c fun x => { x with ring := {}, held := [] }) s
  let s := s.modPort .tenant PortState.inReset
  s.devEvent 0x0013 2 [BitVec.ofNat 32 torn.length]

/-- PORT_RESET: the tenant port's PERST_N asserts. Before READY it is absorbed (R384). -/
def execPortReset (s : State) : Host.Outcome State Fault Refusal :=
  if !s.pwrok || !s.tenant.perstHigh then .next s
  else
    let s := s.modPort .tenant fun x => { x with perstHigh := false, linkUp := false, ide := false }
    .next (if s.running && s.isReady && s.power.state != 3 then s.portDown else s)

/-- READY given to a port, or due once the port can take it (R300, R386). -/
def State.giveReady (s : State) (p : Port) (cause : Nat) : State :=
  if (s.portSt p).perstHigh then
    (s.modPort p fun x => { x with readyDue := none }).event [p] 1 2 0 [BitVec.ofNat 32 (s.hwValue .hifId 0 p), BitVec.ofNat 32 cause]
  else s.modPort p fun x => { x with readyDue := some cause }

/-- PORT_RESET_RELEASE: the tenant port's PERST_N is high and its link trains, but not in spring mode (R408). A READY held
back since start-up goes to its ring. -/
def execPortResetRelease (s : State) : Host.Outcome State Fault Refusal :=
  if !s.pwrok || s.tenant.perstHigh then .next s
  else
    let s := s.modPort .tenant fun x => { x with perstHigh := true }
    let s := if s.running && s.boot.stage != 0 && s.boot.stage != 15 && s.power.state != 2 then s.trainLink .tenant else s
    .next (match s.tenant.readyDue with
      | some 2 => s
      | some k => s.giveReady .tenant k
      | none => s)

/-! ### Start-up (R389, R390) -/

/-- A stage's completion happens only in its stage, with power good and no reset held. -/
def State.atStage (s : State) (n : Nat) : Bool := s.running && s.boot.stage == n

/-- ROM: all on-die SRAM is zero, links are brought up on the ports out of reset, LOAD_WAIT follows. -/
def execRom (s : State) : Host.Outcome State Fault Refusal :=
  if !s.atStage 0 then .next s
  else
    let s := s.trainLink .steward
    let s := if s.tenant.perstHigh then s.trainLink .tenant else s
    .next { s with boot := { s.boot with stage := 1 } }

/-- A number of the image header in the load window. -/
def State.imageWord (s : State) (off : Nat) : Nat := leNat (memBytes s.boot.window off 4)

def State.fwSize (s : State) : Nat := s.imageWord 8

/-- Whether n bytes of the window are zero. -/
def State.windowZero (s : State) (off n : Nat) : Bool := (memBytes s.boot.window off n).all (· == 0)

/-- The first check of R415: MAGIC, FORMAT, SIZE in range, reserved bytes zero (R413). -/
def State.imageOk (s : State) : Bool :=
  let n := s.fwSize
  s.imageWord 0 == 0x4657424D && s.imageWord 4 == 0x00010000 && n % 64 == 0 && decide (8192 ≤ n) && decide (n ≤ 16777216) &&
    s.windowZero 20 44 && s.windowZero (n - 19) 19

/-- Verification failed: back to LOAD_WAIT with the cause. -/
def State.bootFail (s : State) (err : Nat) : State := { s with boot := { s.boot with stage := 1, err := err } }

/-- Start-up stopped with a cause. -/
def State.bootStop (s : State) (err : Nat) : State := { s with boot := { s.boot with stage := 15, err := err } }

/-- VERIFYING: the image is checked in the order of R415; its measurement is recorded, and training follows, after a second
GO at a cold start. -/
def execVerifying (s : State) : Host.Outcome State Fault Refusal :=
  if !s.atStage 2 then .next s
  else if !s.imageOk then .next (s.bootFail 2)
  else
    let n := s.fwSize
    if !Config.signatureOk (memBytes s.boot.window 0 n) then .next (s.bootFail 1)
    else .next { s with boot := { s.boot with stage := if s.boot.warm then 4 else 3,
                                              measurement := sha3 (memBytes s.boot.window 0 (n - 3328)),
                                              version := BitVec.ofNat 32 (s.imageWord 12),
                                              svn := BitVec.ofNat 32 (s.imageWord 16) } }

/-- Channels of a stack that a list of failing ones names. -/
def failMask (failing : List (Nat × Nat)) (stack : Nat) : Word :=
  (List.range 32).foldl (fun (m : Word) k => if failing.contains (stack, k) then m ||| BitVec.ofNat 32 (2 ^ k) else m) 0

/-- A stack site after cold training; its first temperature reading is not stated (log entry 53). -/
def State.trainSite (s : State) (small : Bool) (answering : BitVec 12) (failing spare : List (Nat × Nat)) (n k : Nat) : State :=
  if !answering.getLsbD k then s
  else s.modSite k fun _ =>
    { present := true, trained := true, lanes := ((spare.filter fun e => e.1 == k).map fun e => e.2).sum,
      temp := Config.freeNat 53 [k, n] % 256,
      out := if small then 0 else failMask failing k ||| BitVec.ofNat 32 (s.rfi .memChanForce k 0 32) }

/-- The variant that a set of answering sites makes: false TG7768, true TG7384 (R273). -/
def variantOf (answering : BitVec 12) : Option Bool :=
  if answering = 0xFFF then some false else if answering = 0x555 then some true else none

/-- Whether training's map-outs stop start-up: a TG7384 channel still failing; a TG7768 stack below 16 working channels, or
a management channel out (R274, R275). -/
def State.trainBad (s : State) (small : Bool) (failing : List (Nat × Nat)) : Bool :=
  if small then s.stackList.any fun k => failMask failing k != 0
  else (s.stackList.any fun k => decide ((s.workingChans k).length < 16)) || !s.chanOk 0 0 || !s.chanOk 1 0

/-- TRAINING: cold, the sites that answer, the channels that still fail after repair and the lanes repaired give the
variant and the map-outs; warm, the stacks leave self-refresh. -/
def execTraining (answering : BitVec 12) (failing spare : List (Nat × Nat)) (s : State) : Host.Outcome State Fault Refusal :=
  if !s.atStage 4 then .next s
  else if s.boot.warm then
    let s := { s with sites := s.sites.map fun (e : Nat × Stack) => (e.1, { e.2 with selfRefresh := false }) }
    .next ({ s with boot := { s.boot with stage := 5 } } : State).settleStacks
  else
    let v := variantOf answering
    let (n, s) := s.fresh
    let s := (List.range 12).foldl (fun s k => s.trainSite (v == some true) answering failing spare n k) s
    match v with
    | none => .next (s.bootLog.bootStop 3)
    | some small =>
      let s := { s with boot := { s.boot with variant := some small } }
      if s.trainBad small failing then .next (s.bootLog.bootStop 3)
      else .next ({ s with boot := { s.boot with stage := 5 } } : State).settleStacks

/-- IDENTITY: the identity is derived, or start-up stops with ERR 4. -/
def execIdentity (s : State) : Host.Outcome State Fault Refusal :=
  if !s.atStage 5 then .next s
  else
    let (n, s) := s.fresh
    if Config.identityOk n then .next { s with boot := { s.boot with stage := 6, identity := true } }
    else .next (s.bootLog.bootStop 4)

/-- Highest working channel of stack 0. -/
def State.topChannel (s : State) : Nat := (s.workingChans 0).getLastD 0

/-- The image and its duplicate in their management pages (R414, R455). -/
def State.placeImage (s : State) : State :=
  let bs := memBytes s.boot.window 0 s.fwSize
  let twin := if s.isSmall then hbmAddr 0 1024 0 else hbmAddr 1 0 0
  (s.hbmPut (hbmAddr 0 0 0) bs).hbmPut twin bs

/-- HW values that INIT sets: the structure table's start-up place, the power limit, the shadow pool's share. -/
def State.initValues (s : State) : State :=
  let n := s.rf .slvStructBase 16 5
  let home := (s.topChannel + 1) * 1024 - n
  let s := s.setField .slvStructBase 0 .steward 0 15 home
  let s := { s with boot := { s.boot with structHome := (home, n) } }
  let s := s.setField .pwrLimit 0 .steward 0 11 (if s.isSmall then 1350 else 1650)
  s.applyShare (s.rf .txnShadowCfg 0 5)

/-- Context 0 defined: the management context, on the steward port, without a partition. -/
def State.initCtx (s : State) : State :=
  let x : Ctx := { kind := .management, port := .steward, mode := .resident, interval := pollUnits (s.rf .hifPollCfg 1 10),
                   ring := (s.readRing .steward 0).getD {} }
  { s with ctxs := tset s.ctxs 0 x }

/-- The cadence unit starts: unanchored, acquiring, at its nominal period, a boundary now (R352–R354). -/
def State.initCad (s : State) : State :=
  { s with cad := { running := true, period := s.nominal, latched := s.nominal, boundary := 8 * s.now } }

/-- Unassigned pairs are fallow, their stores undefined (R78, R392). -/
def State.initPairs (s : State) : State :=
  let ps : Table TwinPair := (List.range 48).map fun p => (p, { fallow := true })
  let xs : Table Arr := (List.range 96).map fun a => (a, { mode := .fallow, store := { undef := some (s.free + a) } })
  { s with pairs := ps, arrays := xs, free := s.free + 96 }

/-- INIT: management pages, register defaults and HW values, context 0; the device reaches READY and reports it on each
port. The hottest junction is a HW value until the first reading (log entry 1). -/
def execInit (s : State) : Host.Outcome State Fault Refusal :=
  if !s.atStage 6 then .next s
  else
    let s := s.placeImage
    let s := { s with boot := { s.boot with window := [] }, slices := [] }
    let s := s.initValues.initCtx.initCad.initPairs
    let (n, s) := s.fresh
    let s := { s with power := { s.power with state := 1, junction := Config.freeNat 56 [n] % 256 },
                      boot := { s.boot with stage := 7, everReady := true } }
    let cause := if s.boot.warm then 1 else 0
    let s := (s.giveReady .steward cause).giveReady .tenant cause
    let s := match s.boot.refused with
      | some e => ({ s with boot := { s.boot with refused := none } } : State).cfgError e.1 e.2
      | none => s
    .next (if s.power.vcoreFault || s.power.vsramFault then s.springCause 1 false 5 unitMgmt 0 else s)

end Sys2Proof.Machine
end

