-- ==== Sys2Proof/Machine/Secure.lean ====
section
/-! DEFINITION. Attestation over the DOE mailbox (R419–R422), the board controller's SMBus commands (R439). -/

namespace Sys2Proof.Machine

/-! ### Attestation (R419–R422) -/

/-- STATUS codes of a response (R420). -/
def atReport : Nat := 0
def atNotReady : Nat := 1
def atNotVisible : Nat := 2
def atRefused : Nat := 3
def atMalformed : Nat := 4

/-- Bytes that the attestation keys give: which item (0 attestation public key, 1 its statement, 2 the report signature,
3 device key and certificate chain), the starting mode's key pair, and the content (R417, R420; log entry 9). -/
def State.keyBytes (s : State) (item n : Nat) (content : List Byte) : List Byte :=
  let out := Config.sign [BitVec.ofNat 8 item, BitVec.ofNat 8 (b2n s.testMode)] content
  (List.range n).map fun i => out.getD i 0

/-- Contexts a port's report covers: its own (R419). -/
def State.attestCtxs (s : State) (p : Port) (c : Nat) : List Nat :=
  (s.ctxs.filter fun (e : Nat × Ctx) => e.2.port == p && (c == 0 || e.1 == c)).map fun e => e.1

def kindCode : Kind → Nat
  | .train => 0
  | .solve => 1
  | .aux => 2
  | .management => 3

/-- One plan entry: context, slot, kind, reserved, measurement (R420). -/
def planEntry (c slot : Nat) (k : Kind) (m : BitVec 256) : List Byte :=
  leBytes 1 c ++ leBytes 1 slot ++ leBytes 1 (kindCode k) ++ List.replicate 5 0 ++ leBytes 32 m.toNat

/-- Plan entries in increasing context, then slot; a teardown clears the measurements of its context (R418). -/
def State.planEntries (s : State) (p : Port) (c : Nat) : List (List Byte) :=
  ((s.attestCtxs p c).filter fun n => (s.ctxD n).mode != .tornDown).flatMap fun n => (s.ctxD n).plans.map fun (e : Nat × Plan) => planEntry n e.1 (s.ctxD n).kind e.2.measurement

/-- The report header (R421). -/
def State.reportHeader (s : State) (p : Port) (nonce : List Byte) (entries : Nat) : List Byte :=
  leBytes 4 0x00010000 ++ nonce ++ leBytes 4 (s.hwValue .hifId 0 p) ++ leBytes 8 (s.hwValue .secDevid 0 p) ++
    leBytes 1 (p.code + 2 * b2n (s.portSt p).ide) ++ leBytes 1 (b2n s.testMode + 2 * b2n (s.power.state == 2)) ++
    List.replicate 6 0 ++ leBytes 8 s.stamp ++ leBytes 32 s.boot.measurement.toNat ++ leBytes 4 s.boot.version.toNat ++
    leBytes 4 s.boot.svn.toNat ++ leBytes 4 (s.hwValue .memCapacity 0 .steward) ++ leBytes 4 entries ++ List.replicate 16 0

/-- The report: header, plan entries, attestation public key, its statement, and the signature over all of it. -/
def State.report (s : State) (p : Port) (nonce : List Byte) (c : Nat) : List Byte :=
  let es := s.planEntries p c
  let d := leBytes 32 s.boot.measurement.toNat
  let pub := s.keyBytes 0 1952 d
  let body := s.reportHeader p nonce es.length ++ es.flatten ++ pub ++ s.keyBytes 1 3309 (sha3Bytes (pub ++ d))
  body ++ s.keyBytes 2 3309 (sha3Bytes body)

/-- The status a request gets: not ready or halted, malformed, refused, a context that is not visible, or a report; the
order among them is not stated (log entry 54). -/
def State.attestStatus (s : State) (p : Port) (req : List Byte) : Nat :=
  let c := (req.getD 32 0).toNat
  if !s.isReady || s.power.state == 3 then atNotReady
  else if req.length != 36 || req.getD 34 0 != 0 || req.getD 35 0 != 0 then atMalformed
  else if p == .tenant && s.rf .secAttest 0 1 == 0 then atRefused
  else if c != 0 && !s.ctxOnPort c p then atNotVisible
  else atReport

/-- The response with a report: STATUS 0, its length, the report and, when requested, key and certificate chain. -/
def State.attestReport (s : State) (p : Port) (req : List Byte) : List Byte :=
  let r := s.report p (req.take 32) (req.getD 32 0).toNat
  let chain := if bitsOf (req.getD 33 0).toNat 0 1 = 1 then Config.sign [3, BitVec.ofNat 8 (b2n s.testMode)] [] else []
  leBytes 4 atReport ++ leBytes 4 r.length ++ r ++ chain

/-- ATTESTATION: a response without a report is answered at once. Requests for a report wait in order of arrival; a report is
formed, signed and sent when a cycle passes with its request first in the order (R422; log entry 54). -/
def execAttestation (p : Port) (request : List Byte) (s : State) : Host.Outcome State Fault Refusal :=
  if !s.barOpen p then .next s
  else
    let st := s.attestStatus p request
    if st = atReport then .next { s with attestQueue := s.attestQueue ++ [(p, request)] }
    else .next (s.modPort p fun x => { x with attestResponse := some (leBytes 4 st ++ leBytes 4 0) })

/-- The report first in order is formed and signed, and its response sent; COUNT counts it. -/
def State.attestTick (s : State) : State :=
  match s.attestQueue with
  | [] => s
  | e :: rest =>
    ({ s with attestQueue := rest, attestCount := min (s.attestCount + 1) 65535 } : State).modPort e.1
      fun x => { x with attestResponse := some (s.attestReport e.1 e.2) }

/-- DOE_ABORT: the port's pending requests are abandoned without a response. -/
def execDoeAbort (p : Port) (s : State) : Host.Outcome State Fault Refusal :=
  .next { s with attestQueue := s.attestQueue.filter fun (e : Port × List Byte) => e.1 != p }

/-! ### SMBus (R439) -/

/-- A read that the device answers while PWROK is high; with PWROK low it does not acknowledge. -/
def State.smb (s : State) (v : Nat) : State :=
  if s.pwrok then { s with smbus := some v, smbusNack := false } else { s with smbus := none, smbusNack := true }

/-- SMB_HOTTEST_JUNCTION: command 0x01. -/
def execSmbHottestJunction (s : State) : Host.Outcome State Fault Refusal := .next (s.smb (satN 8 s.power.junction))

/-- SMB_POWER: command 0x02. -/
def execSmbPower (s : State) : Host.Outcome State Fault Refusal := .next (s.smb (satN 11 s.power.watts))

/-- SMB_STAGE_STATE: command 0x03. -/
def execSmbStageState (s : State) : Host.Outcome State Fault Refusal := .next (s.smb (s.boot.stage % 16 + 16 * (s.power.state % 8)))

/-- The conditions of the table Alert Conditions. -/
def State.alertBits (s : State) : Nat :=
  b2n (decide (100 ≤ s.power.junction)) + 2 * b2n (s.power.spring != 0) + 4 * b2n (s.power.state == 3) +
    8 * b2n (s.boot.stage == 15) + 16 * b2n (s.stackList.any fun k => (s.site k).hot)

/-- ALERT_N is driven low while any condition holds and the device has power. -/
def State.alert (s : State) : Bool := s.pwrok && s.alertBits != 0

/-- SMB_ALERT_CONDITIONS: command 0x04. -/
def execSmbAlertConditions (s : State) : Host.Outcome State Fault Refusal := .next (s.smb s.alertBits)

/-- SMB_SPRING_CAUSE: command 0x05. -/
def execSmbSpringCause (s : State) : Host.Outcome State Fault Refusal :=
  .next (s.smb (s.power.cause.toNat + 16 * s.power.cleared.toNat))

/-- SMB_HOTTEST_STACK: command 0x06. -/
def execSmbHottestStack (s : State) : Host.Outcome State Fault Refusal :=
  .next (s.smb (satN 8 (s.stackList.foldl (fun m k => max m (s.site k).temp) 0)))

/-- SMB_OTHER_COMMAND: every other code is not acknowledged; a listed code is answered as its own row. -/
def execSmbOtherCommand (code : Nat) (s : State) : Host.Outcome State Fault Refusal :=
  match code with
  | 1 => execSmbHottestJunction s
  | 2 => execSmbPower s
  | 3 => execSmbStageState s
  | 4 => execSmbAlertConditions s
  | 5 => execSmbSpringCause s
  | 6 => execSmbHottestStack s
  | _ => .next { s with smbus := none, smbusNack := true }

end Sys2Proof.Machine
end

