-- ==== Sys2Proof/Machine/Ring.lean ====
section
/-! DEFINITION. Descriptors on their way through a ring: which row of the opcode table a descriptor is, its checks, the
order of acceptance (R292–R294, R301, R305–R308), and the meanings of the descriptor rows. -/

namespace Sys2Proof

/-- The descriptors and their functions (R301, R305, R306, R308). -/
inductive DescRow where
  | nop
  | copy
  | gather
  | scatter
  | planLoad
  | planRun
  | statCfgSet
  | statCfgReset
  | rootRefresh
  | precondCfg
  | granStepFull
  | granStepNorm
  | granStepApply
  | granStepDiscard
  | granProg
  | txnBegin
  | txnCommit
  | txnAbort
  | allreduce
  | reducescatter
  | allgather
  | broadcast
  | permute
  | slvStructLoad
  | slvStructFree
  | slvDelta
  | slvBatch
  | waitFrame
  | waitToken
  | waitSeq
  | signal
  | mark
  | watchOff
  | watchStatistics
  | watchDigest
  | harvest
  | regGroup
  | ctxDefine
  | partSet
  | ctxTeardown
  | ctxFree
  | springEnter
  | springExit
  deriving DecidableEq, Repr

/-- The function of a descriptor of one opcode, from its sub-operation field. -/
def Desc.subRow (d : Desc) : Option DescRow :=
  match d.opcode with
  | 0x10 => [DescRow.statCfgSet, .statCfgReset][d.f 2 18 2]?
  | 0x18 => [DescRow.granStepFull, .granStepNorm, .granStepApply, .granStepDiscard][d.f 3 8 2]?
  | 0x28 => [DescRow.allreduce, .reducescatter, .allgather, .broadcast, .permute][d.f 2 0 3]?
  | 0x30 => [DescRow.slvStructLoad, .slvStructFree][d.f 3 16 1]?
  | 0x38 => [DescRow.waitFrame, .waitToken, .waitSeq][d.f 2 0 2]?
  | 0x3B => [DescRow.watchOff, .watchStatistics, .watchDigest][d.f 2 4 2]?
  | 0x48 =>
    match d.f 2 0 8 with
    | 1 => some .regGroup
    | 2 => some .ctxDefine
    | 3 => some .partSet
    | 4 => some .ctxTeardown
    | 5 => some .ctxFree
    | 6 => some .springEnter
    | 7 => some .springExit
    | _ => none
  | _ => none

/-- The row a descriptor is: by its opcode, and for an opcode with functions by its sub-operation. -/
def Desc.row (d : Desc) : Option DescRow :=
  match d.opcode with
  | 0x01 => some .nop
  | 0x02 => some .copy
  | 0x03 => some .gather
  | 0x04 => some .scatter
  | 0x08 => some .planLoad
  | 0x09 => some .planRun
  | 0x11 => some .rootRefresh
  | 0x12 => some .precondCfg
  | 0x19 => some .granProg
  | 0x20 => some .txnBegin
  | 0x21 => some .txnCommit
  | 0x22 => some .txnAbort
  | 0x31 => some .slvDelta
  | 0x32 => some .slvBatch
  | 0x39 => some .signal
  | 0x3A => some .mark
  | 0x40 => some .harvest
  | _ => d.subRow

/-- Whether a row uses TXN_TAG without IN_TXN. -/
def DescRow.usesTag : DescRow → Bool
  | .txnBegin => true
  | .txnCommit => true
  | .txnAbort => true
  | _ => false

end Sys2Proof

namespace Sys2Proof.Machine

/-! ### Checks and starts by row -/

/-- The checks of a row's defining chapter. -/
def State.checksOf (s : State) (c : Nat) (d : Desc) : DescRow → Checks
  | .nop => s.checkNop c d
  | .copy => s.checkCopy c d
  | .gather => s.checkGather c d
  | .scatter => s.checkScatter c d
  | .planLoad => s.checkPlanLoad c d
  | .planRun => s.checkPlanRun c d
  | .statCfgSet => s.checkStatCfgSet c d
  | .statCfgReset => s.checkStatCfgReset c d
  | .rootRefresh => s.checkRootRefresh c d
  | .precondCfg => s.checkPrecondCfg c d
  | .granStepFull => s.checkGranStepFull c d
  | .granStepNorm => s.checkGranStepNorm c d
  | .granStepApply => s.checkGranStepApply c d
  | .granStepDiscard => s.checkGranStepDiscard c d
  | .granProg => s.checkGranProg c d
  | .txnBegin => s.checkTxnBegin c d
  | .txnCommit => s.checkTxnCommit c d
  | .txnAbort => s.checkTxnAbort c d
  | .allreduce => s.checkAllreduce c d
  | .reducescatter => s.checkReducescatter c d
  | .allgather => s.checkAllgather c d
  | .broadcast => s.checkBroadcast c d
  | .permute => s.checkPermute c d
  | .slvStructLoad => s.checkSlvStructLoad c d
  | .slvStructFree => s.checkSlvStructFree c d
  | .slvDelta => s.checkSlvDelta c d
  | .slvBatch => s.checkSlvBatch c d
  | .waitFrame => s.checkWaitFrame c d
  | .waitToken => s.checkWaitToken c d
  | .waitSeq => s.checkWaitSeq c d
  | .signal => s.checkSignal c d
  | .mark => s.checkMark c d
  | .watchOff => s.checkWatchOff c d
  | .watchStatistics => s.checkWatchStatistics c d
  | .watchDigest => s.checkWatchDigest c d
  | .harvest => s.checkHarvest c d
  | .regGroup => s.checkRegGroup c d
  | .ctxDefine => s.checkCtxDefine c d
  | .partSet => s.checkPartSet c d
  | .ctxTeardown => s.checkCtxTeardown c d
  | .ctxFree => s.checkCtxFree c d
  | .springEnter => s.checkSpringEnter c d
  | .springExit => s.checkSpringExit c d

/-- What a row does once it is accepted. -/
def State.startOf (s : State) (c : Nat) (d : Desc) : DescRow → State
  | .nop => s.startNop c d
  | .copy => s.startCopy c d
  | .gather => s.startGather c d
  | .scatter => s.startScatter c d
  | .planLoad => s.startPlanLoad c d
  | .planRun => s.startPlanRun c d
  | .statCfgSet => s.startStatCfgSet c d
  | .statCfgReset => s.startStatCfgReset c d
  | .rootRefresh => s.startRootRefresh c d
  | .precondCfg => s.startPrecondCfg c d
  | .granStepFull => s.startGranStepFull c d
  | .granStepNorm => s.startGranStepNorm c d
  | .granStepApply => s.startGranStepApply c d
  | .granStepDiscard => s.startGranStepDiscard c d
  | .granProg => s.startGranProg c d
  | .txnBegin => s.startTxnBegin c d
  | .txnCommit => s.startTxnCommit c d
  | .txnAbort => s.startTxnAbort c d
  | .allreduce => s.startAllreduce c d
  | .reducescatter => s.startReducescatter c d
  | .allgather => s.startAllgather c d
  | .broadcast => s.startBroadcast c d
  | .permute => s.startPermute c d
  | .slvStructLoad => s.startSlvStructLoad c d
  | .slvStructFree => s.startSlvStructFree c d
  | .slvDelta => s.startSlvDelta c d
  | .slvBatch => s.startSlvBatch c d
  | .waitFrame => s.startWaitFrame c d
  | .waitToken => s.startWaitToken c d
  | .waitSeq => s.startWaitSeq c d
  | .signal => s.startSignal c d
  | .mark => s.startMark c d
  | .watchOff => s.startWatchOff c d
  | .watchStatistics => s.startWatchStatistics c d
  | .watchDigest => s.startWatchDigest c d
  | .harvest => s.startHarvest c d
  | .regGroup => s.startRegGroup c d
  | .ctxDefine => s.startCtxDefine c d
  | .partSet => s.startPartSet c d
  | .ctxTeardown => s.startCtxTeardown c d
  | .ctxFree => s.startCtxFree c d
  | .springEnter => s.startSpringEnter c d
  | .springExit => s.startSpringExit c d

/-- Checks of a descriptor that is no row of its opcode: a reserved value of the field that selects the function. -/
def State.checksOfNone (s : State) (c : Nat) (d : Desc) : Checks :=
  match d.opcode with
  | 0x10 => s.checkStatCfg c d
  | 0x28 => s.checkColl c d
  | 0x38 => { fmt := some dReserved }
  | 0x3B => s.checkWatch c d
  | 0x48 => { auth := s.isSteward c, fmt := some dMgmtFunc }
  | _ => { fmt := some dBadOpcode }

/-- Opcodes of R301. -/
def knownOpcode (op : Nat) : Bool :=
  [0x01, 0x02, 0x03, 0x04, 0x08, 0x09, 0x10, 0x11, 0x12, 0x18, 0x19, 0x20, 0x21, 0x22, 0x28, 0x30, 0x31, 0x32, 0x38, 0x39,
    0x3A, 0x3B, 0x40, 0x48].contains op

/-- The outcome of all checks of a descriptor: none to accept it, else its status and detail. An opcode outside the table
is told before its other fields (log entry 55). -/
def State.verdict (s : State) (c : Nat) (d : Desc) : Option (Nat × Nat) :=
  if !knownOpcode d.opcode then some (stFormat, dBadOpcode)
  else match d.row with
    | some r => s.judge c d r.usesTag (s.checksOf c d r)
    | none => (s.judge c d false (s.checksOfNone c d)).or (some (stFormat, dReserved))

/-- Acceptance and start. -/
def State.begin (s : State) (c : Nat) (d : Desc) : State :=
  match d.row with
  | some r => (s.accept c d).startOf c d r
  | none => s

/-! ### The order of a ring (R294) -/

/-- Whether an open WAIT holds back what follows it. -/
def Ctx.inWait (x : Ctx) : Bool := x.opens.any fun o => o.desc.opcode == 0x38

/-- Whether the descriptor immediately before is accepted and not complete. -/
def Ctx.lastOpen (x : Ctx) : Bool := x.lastStatus.isNone && x.opens.any fun o => o.desc.seq == x.lastSeq

/-- Completions not yet consumed and descriptors not yet complete fill the completion ring. -/
def Ctx.ringFull (x : Ctx) : Bool :=
  x.ring.bound && decide (2 ^ x.ring.cqLog2 ≤ x.opens.length + (x.ring.cqWrite + 2 ^ 32 - x.ring.cqHead) % 2 ^ 32)

/-- Whether a context accepts nothing now: swapped out, suspended, or held by a stack above TSR or its link (R278, R289, R315, R409). -/
def Ctx.closed (x : Ctx) : Bool := x.mode == .swapped || x.suspended || x.onHold

/-- Whether the front descriptor must wait; `failed` where it failed the SEQ check. -/
def Ctx.mustWait (x : Ctx) (d : Desc) (failed : Bool) : Bool :=
  x.closed || x.ringFull ||
    (!failed && x.mode != .tornDown && (x.inWait || (d.fence && !x.opens.isEmpty) || (d.chain && x.lastOpen)))

/-- Whether CHAIN finds that the descriptor before it failed. -/
def Ctx.chainBroken (x : Ctx) (d : Desc) : Bool :=
  d.chain && match x.lastStatus with | some st => decide (16 ≤ st.toNat) | none => false

/-- Why the front descriptor is turned away without its own checks: a failed SEQ check, a torn-down context, a broken
chain. -/
def Ctx.turnedAway (x : Ctx) (d : Desc) (failed : Bool) : Option (Nat × Nat) :=
  if failed then some (stFormat, dSeqOrder)
  else if x.mode = .tornDown then some (stTornDown, 0)
  else if x.chainBroken d then some (stLimit, dChainBroken)
  else none

/-- Whether a descriptor is of a kind that the table Transaction Members lists (R205). -/
def isTxnMember (d : Desc) : Bool :=
  d.inTxn && match d.row with
    | some r => [DescRow.copy, .scatter, .gather, .granStepFull, .granStepApply, .permute, .statCfgSet, .statCfgReset, .precondCfg,
        .rootRefresh, .regGroup, .partSet, .nop, .waitFrame, .waitToken, .waitSeq, .signal, .mark].contains r
    | none => false

/-- A member that completes with a failing status without having been accepted aborts its open transaction, with detail
MEMBER_FAIL (R217); one that fails the SEQ check, comes after the TXN_COMMIT or lacks authority joins nothing and changes
nothing (R204, R214; log entry 101). -/
def State.memberRejected (s : State) (c : Nat) (d : Desc) (status detail : Nat) : State :=
  match s.txn? c d.tag with
  | none => s
  | some t =>
    if isTxnMember d && t.isOpen && t.commitSeq.isNone && detail != dSeqOrder && (status == stFormat || status == stLimit) then
      s.abortTxn c d.tag dMemberFail none
    else s

/-- The front descriptor leaves the queue: rejected with the first reason, or accepted. -/
def State.takeUp (s : State) (c : Nat) (x : Ctx) (d : Desc) (failed : Bool) : State :=
  match (x.turnedAway d failed).or (s.verdict c d) with
  | some r => (s.reject c d r.1 r.2).memberRejected c d r.1 r.2
  | none => s.begin c d

/-- Descriptors taken from the front of a context's queue while none has to wait; `n` bounds how many. -/
def State.drain (s : State) (c : Nat) : Nat → State
  | 0 => s
  | n + 1 =>
    match s.ctx? c with
    | none => s
    | some x =>
      match x.held with
      | [] => s
      | (d, failed) :: rest =>
        if x.mustWait d failed then s
        else ((s.modCtx c fun x => { x with held := rest }).takeUp c x d failed).drain c n

/-- Whether the device takes descriptors: past READY, in no reset, not halted, for a context that is defined and whose port
it can fetch on (R289). -/
def State.taking (s : State) (c : Nat) : Bool :=
  s.running && s.isReady && s.power.state != 3 && (s.ctx? c).isSome && s.portOpen (s.ctxD c).port

/-- Whether a descriptor passes the SEQ check (R293). -/
def Ctx.seqOk (x : Ctx) (d : Desc) : Bool :=
  match x.ring.expect with
  | some e => e == d.seq
  | none => true

/-- A descriptor fetched: its SEQ is checked, it joins the queue, and what can be accepted is. -/
def State.submit (s : State) (c : Nat) (d : Desc) : State :=
  if !s.taking c then s
  else
    let ok := (s.ctxD c).seqOk d
    let s := s.modCtx c fun x =>
      { x with ring := if ok then { x.ring with expect := some (d.seq + 1) } else x.ring, held := x.held ++ [(d, !ok)], active := true }
    s.drain c (s.ctxD c).held.length

/-- A command of a descriptor row: the descriptor must be one of that row, for one of the 256 contexts. -/
def descRow (r : DescRow) (c : Nat) (d : Desc) (s : State) : Host.Outcome State Fault Refusal :=
  if 256 ≤ c then .fault .noSuchUnit
  else if d.row = some r then .next (s.submit c d)
  else .fault .wrongRow

/-! ### The descriptor rows -/

/-- NOP. -/
def execNop (c : Nat) (d : Desc) (s : State) : Host.Outcome State Fault Refusal := descRow .nop c d s

/-- COPY. -/
def execCopy (c : Nat) (d : Desc) (s : State) : Host.Outcome State Fault Refusal := descRow .copy c d s

/-- GATHER. -/
def execGather (c : Nat) (d : Desc) (s : State) : Host.Outcome State Fault Refusal := descRow .gather c d s

/-- SCATTER. -/
def execScatter (c : Nat) (d : Desc) (s : State) : Host.Outcome State Fault Refusal := descRow .scatter c d s

/-- PLAN_LOAD. -/
def execPlanLoad (c : Nat) (d : Desc) (s : State) : Host.Outcome State Fault Refusal := descRow .planLoad c d s

/-- PLAN_RUN. -/
def execPlanRun (c : Nat) (d : Desc) (s : State) : Host.Outcome State Fault Refusal := descRow .planRun c d s

/-- STAT_CFG_SET. -/
def execStatCfgSet (c : Nat) (d : Desc) (s : State) : Host.Outcome State Fault Refusal := descRow .statCfgSet c d s

/-- STAT_CFG_RESET. -/
def execStatCfgReset (c : Nat) (d : Desc) (s : State) : Host.Outcome State Fault Refusal := descRow .statCfgReset c d s

/-- ROOT_REFRESH. -/
def execRootRefresh (c : Nat) (d : Desc) (s : State) : Host.Outcome State Fault Refusal := descRow .rootRefresh c d s

/-- PRECOND_CFG. -/
def execPrecondCfg (c : Nat) (d : Desc) (s : State) : Host.Outcome State Fault Refusal := descRow .precondCfg c d s

/-- GRAN_STEP_FULL. -/
def execGranStepFull (c : Nat) (d : Desc) (s : State) : Host.Outcome State Fault Refusal := descRow .granStepFull c d s

/-- GRAN_STEP_NORM. -/
def execGranStepNorm (c : Nat) (d : Desc) (s : State) : Host.Outcome State Fault Refusal := descRow .granStepNorm c d s

/-- GRAN_STEP_APPLY. -/
def execGranStepApply (c : Nat) (d : Desc) (s : State) : Host.Outcome State Fault Refusal := descRow .granStepApply c d s

/-- GRAN_STEP_DISCARD. -/
def execGranStepDiscard (c : Nat) (d : Desc) (s : State) : Host.Outcome State Fault Refusal := descRow .granStepDiscard c d s

/-- GRAN_PROG. -/
def execGranProg (c : Nat) (d : Desc) (s : State) : Host.Outcome State Fault Refusal := descRow .granProg c d s

/-- TXN_BEGIN. -/
def execTxnBegin (c : Nat) (d : Desc) (s : State) : Host.Outcome State Fault Refusal := descRow .txnBegin c d s

/-- TXN_COMMIT. -/
def execTxnCommit (c : Nat) (d : Desc) (s : State) : Host.Outcome State Fault Refusal := descRow .txnCommit c d s

/-- TXN_ABORT. -/
def execTxnAbort (c : Nat) (d : Desc) (s : State) : Host.Outcome State Fault Refusal := descRow .txnAbort c d s

/-- ALLREDUCE. -/
def execAllreduce (c : Nat) (d : Desc) (s : State) : Host.Outcome State Fault Refusal := descRow .allreduce c d s

/-- REDUCESCATTER. -/
def execReducescatter (c : Nat) (d : Desc) (s : State) : Host.Outcome State Fault Refusal := descRow .reducescatter c d s

/-- ALLGATHER. -/
def execAllgather (c : Nat) (d : Desc) (s : State) : Host.Outcome State Fault Refusal := descRow .allgather c d s

/-- BROADCAST. -/
def execBroadcast (c : Nat) (d : Desc) (s : State) : Host.Outcome State Fault Refusal := descRow .broadcast c d s

/-- PERMUTE. -/
def execPermute (c : Nat) (d : Desc) (s : State) : Host.Outcome State Fault Refusal := descRow .permute c d s

/-- SLV_STRUCT_LOAD. -/
def execSlvStructLoad (c : Nat) (d : Desc) (s : State) : Host.Outcome State Fault Refusal := descRow .slvStructLoad c d s

/-- SLV_STRUCT_FREE. -/
def execSlvStructFree (c : Nat) (d : Desc) (s : State) : Host.Outcome State Fault Refusal := descRow .slvStructFree c d s

/-- SLV_DELTA. -/
def execSlvDelta (c : Nat) (d : Desc) (s : State) : Host.Outcome State Fault Refusal := descRow .slvDelta c d s

/-- SLV_BATCH. -/
def execSlvBatch (c : Nat) (d : Desc) (s : State) : Host.Outcome State Fault Refusal := descRow .slvBatch c d s

/-- WAIT_FRAME. -/
def execWaitFrame (c : Nat) (d : Desc) (s : State) : Host.Outcome State Fault Refusal := descRow .waitFrame c d s

/-- WAIT_TOKEN. -/
def execWaitToken (c : Nat) (d : Desc) (s : State) : Host.Outcome State Fault Refusal := descRow .waitToken c d s

/-- WAIT_SEQ. -/
def execWaitSeq (c : Nat) (d : Desc) (s : State) : Host.Outcome State Fault Refusal := descRow .waitSeq c d s

/-- SIGNAL. -/
def execSignal (c : Nat) (d : Desc) (s : State) : Host.Outcome State Fault Refusal := descRow .signal c d s

/-- MARK. -/
def execMark (c : Nat) (d : Desc) (s : State) : Host.Outcome State Fault Refusal := descRow .mark c d s

/-- WATCH_OFF. -/
def execWatchOff (c : Nat) (d : Desc) (s : State) : Host.Outcome State Fault Refusal := descRow .watchOff c d s

/-- WATCH_STATISTICS. -/
def execWatchStatistics (c : Nat) (d : Desc) (s : State) : Host.Outcome State Fault Refusal := descRow .watchStatistics c d s

/-- WATCH_DIGEST. -/
def execWatchDigest (c : Nat) (d : Desc) (s : State) : Host.Outcome State Fault Refusal := descRow .watchDigest c d s

/-- HARVEST. -/
def execHarvest (c : Nat) (d : Desc) (s : State) : Host.Outcome State Fault Refusal := descRow .harvest c d s

/-- REG_GROUP. -/
def execRegGroup (c : Nat) (d : Desc) (s : State) : Host.Outcome State Fault Refusal := descRow .regGroup c d s

/-- CTX_DEFINE. -/
def execCtxDefine (c : Nat) (d : Desc) (s : State) : Host.Outcome State Fault Refusal := descRow .ctxDefine c d s

/-- PART_SET. -/
def execPartSet (c : Nat) (d : Desc) (s : State) : Host.Outcome State Fault Refusal := descRow .partSet c d s

/-- CTX_TEARDOWN. -/
def execCtxTeardown (c : Nat) (d : Desc) (s : State) : Host.Outcome State Fault Refusal := descRow .ctxTeardown c d s

/-- CTX_FREE. -/
def execCtxFree (c : Nat) (d : Desc) (s : State) : Host.Outcome State Fault Refusal := descRow .ctxFree c d s

/-- SPRING_ENTER. -/
def execSpringEnter (c : Nat) (d : Desc) (s : State) : Host.Outcome State Fault Refusal := descRow .springEnter c d s

/-- SPRING_EXIT. -/
def execSpringExit (c : Nat) (d : Desc) (s : State) : Host.Outcome State Fault Refusal := descRow .springExit c d s

end Sys2Proof.Machine
end

