-- ==== Sys2Proof/Machine/Host.lean ====
section
/-! DEFINITION. What the host side does to the device without a register: polls of the doorbell table, links, event rings
(R289–R292, R296, R297, R299, R423). -/

namespace Sys2Proof.Machine

/-! ### Links (R289, R423) -/

/-- LINK_DOWN: polling and fetching stop, writes to host memory wait. -/
def execLinkDown (p : Port) (s : State) : Host.Outcome State Fault Refusal := .next (s.modPort p fun x => { x with linkUp := false })

/-- Whether a port's link can train: power, no reset of the port or the device, past ROM, and not the tenant's in spring
mode (R408). -/
def State.canTrain (s : State) (p : Port) : Bool :=
  s.running && (s.portSt p).perstHigh && s.boot.stage != 0 && !(p == .tenant && s.power.state == 2)

/-- The rates and widths of the table PCIe Features: generations 1 to 6, 1, 2, 4, 8 or 16 lanes (R286). -/
def linkForm (speed width : Nat) : Bool := decide (1 ≤ speed) && decide (speed ≤ 6) && [1, 2, 4, 8, 16].contains width

/-- LINK_UP: the link returns with a generation and a width that the port supports; the indices the device held stand. -/
def execLinkUp (p : Port) (speed width : Nat) (s : State) : Host.Outcome State Fault Refusal :=
  if s.canTrain p && linkForm speed width then .next ((s.modPort p fun x => { x with linkUp := true, speed := speed, width := width }).flushWait p)
  else .next s

/-- IDE_LINK_STREAM: the port's IDE link stream is established or lost. -/
def execIdeLinkStream (p : Port) (up : Bool) (s : State) : Host.Outcome State Fault Refusal :=
  .next ((s.modPort p fun x => { x with ide := up }).flushWait p)

/-! ### Polls (R292, R296, R297) -/

/-- Whether a port's doorbell table is polled: past READY, not halted, the port open and out of reset, the table enabled. -/
def State.polling (s : State) (p : Port) : Bool :=
  s.running && s.isReady && s.power.state != 3 && (s.portSt p).perstHigh && s.portOpen p && s.rfp .hifDoorbellBase p 0 1 == 1

/-- An index that a free-running head has passed. -/
def passed (head j : Nat) : Bool := seqBefore (BitVec.ofNat 32 j) (BitVec.ofNat 32 head)

/-- Interval at which a context is polled: its own while active, else 100 µs (R296). -/
def Ctx.pollEvery (x : Ctx) : Nat := if x.active then x.interval else pollUnits 10000

/-- Interval at which entry 256 is polled: while ATTN is driven, the shortest of the port's active contexts, else 100 µs
(R296). -/
def State.evtPollEvery (s : State) (p : Port) : Nat :=
  if (s.portSt p).attn then
    (s.ctxs.filter fun (e : Nat × Ctx) => e.2.port == p && e.2.active).foldl (fun n e => min n e.2.interval) (pollUnits 10000)
  else pollUnits 10000

/-- CQ_HEAD as a poll reads it: completions are consumed, ATTN may be released. -/
def State.takeHead (s : State) (p : Port) (c head : Nat) : State :=
  let new (r : Ring) : Ring := { r with cqHead := head, notifyAt := r.notifyAt.filter fun j => !passed head j }
  (s.modCtx c fun x => { x with ring := new x.ring }).releaseAttn p

/-- The descriptors between the device's fetch index and SQ_TAIL. -/
def State.fetched (s : State) (p : Port) (r : Ring) (n : Nat) : List Desc :=
  (List.range n).map fun i => Desc.ofBytes (s.hostRead p (r.sqBase + 64 * ((r.fetch + i) % 2 ^ r.sqLog2)) 64)

/-- SQ_TAIL as a poll reads it: too far ahead it is ignored; a context that is not resident notes that it moved; else the
new descriptors are fetched. -/
def State.takeTail (s : State) (p : Port) (c tail : Nat) : State :=
  let x := s.ctxD c
  let n := (tail + 2 ^ 32 - x.ring.fetch) % 2 ^ 32
  let s := s.modCtx c fun x => { x with polls := x.polls + 1, moved := x.moved + if n = 0 then 0 else 1 }
  if 2 ^ x.ring.sqLog2 < n then s.cfgError p 0x10
  else
    if x.mode = .swapped || x.suspended then
      if n = 0 then s else s.modCtx c fun x => { x with tailMoved := true }
    else
      let ds := s.fetched p x.ring n
      let s := s.modCtx c fun x => { x with ring := { x.ring with fetch := tail } }
      let s := ds.foldl (fun s d => s.submit c d) s
      s.drain c (s.ctxD c).held.length

/-- A poll of a context's entry. -/
def State.pollCtx (s : State) (p : Port) (c : Nat) : State :=
  match s.doorbellAddr p c with
  | none => s
  | some a =>
    let s := s.pulse 0x244 0 1 c 0
    (s.takeHead p c (leNat (s.hostRead p (a + 4) 4))).takeTail p c (leNat (s.hostRead p a 4))

/-- A poll of entry 256: EVT_HEAD is read, ATTN may be released, waiting events are written. -/
def State.pollEvents (s : State) (p : Port) : State :=
  match s.doorbellAddr p 256 with
  | none => s
  | some a =>
    let h := leNat (s.hostRead p a 4)
    let s := s.modPort p fun x => { x with evtHead := h, evtAttn := x.evtAttn.filter fun j => !passed h j }
    (s.releaseAttn p).evtDrain p 65

/-- DOORBELL_POLL: entry c of a context assigned to the port, or entry 256. -/
def execDoorbellPoll (p : Port) (entry : Nat) (s : State) : Host.Outcome State Fault Refusal :=
  if 256 < entry then .fault .noSuchUnit
  else if !s.polling p then .next s
  else if entry = 256 then .next (s.pollEvents p)
  else if s.ctxOnPort entry p && (s.ctxD entry).ring.bound then .next (s.pollCtx p entry)
  else .next s

/-- The interval that 1,024 polls give (R296). -/
def State.nextInterval (s : State) (x : Ctx) : Nat :=
  let lo := pollUnits (s.rf .hifPollCfg 11 10)
  let hi := pollUnits (s.rf .hifPollCfg 21 10)
  if 512 < x.moved then max (min lo x.interval) (x.interval / 2)
  else if x.moved < 16 then min (max hi x.interval) (2 * x.interval)
  else x.interval

/-- POLL_INTERVAL_ADJUST: in AUTO, after 1,024 polls of the context; a change writes HIF_POLL. -/
def execPollIntervalAdjust (c : Nat) (s : State) : Host.Outcome State Fault Refusal :=
  match s.ctx? c with
  | none => .next s
  | some x =>
    if s.rf .hifPollCfg 0 1 = 1 ∨ x.polls < 1024 then .next s
    else
      let v := s.nextInterval x
      let s := s.modCtx c fun x => { x with polls := 0, moved := 0, interval := v }
      .next (if v = x.interval then s
        else s.devEvent 0x0004 1 [BitVec.ofNat 32 c, BitVec.ofNat 32 (pollNs x.interval), BitVec.ofNat 32 (pollNs v)])

/-- ACTIVE_EXPIRY: 1 ms after its last acceptance, with nothing in flight and nothing unaccepted, a context is idle. -/
def execActiveExpiry (c : Nat) (s : State) : Host.Outcome State Fault Refusal :=
  match s.ctx? c with
  | none => .next s
  | some x =>
    if x.opens.isEmpty && x.held.isEmpty && decide (x.activeUntil ≤ s.now) then .next (s.modCtx c fun x => { x with active := false })
    else .next s

/-- EVENT_QUEUE_DRAIN: waiting attention events are written while the ring is enabled and has free entries. -/
def execEventQueueDrain (p : Port) (s : State) : Host.Outcome State Fault Refusal := .next (s.evtDrain p 65)

end Sys2Proof.Machine
end

