-- ==== Sys2Proof/Machine/Dispatch.lean ====
section
/-! DEFINITION. The effect of every command on the state but for the queue: one arm per constructor. -/

namespace Sys2Proof.Machine

/-- The effect of a command. -/
def exec (i : Instr) (s : State) : Host.Outcome State Fault Refusal :=
  match i with
  | .nop c d => Sys2Proof.Machine.execNop c d s
  | .copy c d => Sys2Proof.Machine.execCopy c d s
  | .gather c d => Sys2Proof.Machine.execGather c d s
  | .scatter c d => Sys2Proof.Machine.execScatter c d s
  | .planLoad c d => Sys2Proof.Machine.execPlanLoad c d s
  | .planRun c d => Sys2Proof.Machine.execPlanRun c d s
  | .statCfgSet c d => Sys2Proof.Machine.execStatCfgSet c d s
  | .statCfgReset c d => Sys2Proof.Machine.execStatCfgReset c d s
  | .rootRefresh c d => Sys2Proof.Machine.execRootRefresh c d s
  | .precondCfg c d => Sys2Proof.Machine.execPrecondCfg c d s
  | .granStepFull c d => Sys2Proof.Machine.execGranStepFull c d s
  | .granStepNorm c d => Sys2Proof.Machine.execGranStepNorm c d s
  | .granStepApply c d => Sys2Proof.Machine.execGranStepApply c d s
  | .granStepDiscard c d => Sys2Proof.Machine.execGranStepDiscard c d s
  | .granProg c d => Sys2Proof.Machine.execGranProg c d s
  | .txnBegin c d => Sys2Proof.Machine.execTxnBegin c d s
  | .txnCommit c d => Sys2Proof.Machine.execTxnCommit c d s
  | .txnAbort c d => Sys2Proof.Machine.execTxnAbort c d s
  | .allreduce c d => Sys2Proof.Machine.execAllreduce c d s
  | .reducescatter c d => Sys2Proof.Machine.execReducescatter c d s
  | .allgather c d => Sys2Proof.Machine.execAllgather c d s
  | .broadcast c d => Sys2Proof.Machine.execBroadcast c d s
  | .permute c d => Sys2Proof.Machine.execPermute c d s
  | .slvStructLoad c d => Sys2Proof.Machine.execSlvStructLoad c d s
  | .slvStructFree c d => Sys2Proof.Machine.execSlvStructFree c d s
  | .slvDelta c d => Sys2Proof.Machine.execSlvDelta c d s
  | .slvBatch c d => Sys2Proof.Machine.execSlvBatch c d s
  | .waitFrame c d => Sys2Proof.Machine.execWaitFrame c d s
  | .waitToken c d => Sys2Proof.Machine.execWaitToken c d s
  | .waitSeq c d => Sys2Proof.Machine.execWaitSeq c d s
  | .signal c d => Sys2Proof.Machine.execSignal c d s
  | .mark c d => Sys2Proof.Machine.execMark c d s
  | .watchOff c d => Sys2Proof.Machine.execWatchOff c d s
  | .watchStatistics c d => Sys2Proof.Machine.execWatchStatistics c d s
  | .watchDigest c d => Sys2Proof.Machine.execWatchDigest c d s
  | .harvest c d => Sys2Proof.Machine.execHarvest c d s
  | .regGroup c d => Sys2Proof.Machine.execRegGroup c d s
  | .ctxDefine c d => Sys2Proof.Machine.execCtxDefine c d s
  | .partSet c d => Sys2Proof.Machine.execPartSet c d s
  | .ctxTeardown c d => Sys2Proof.Machine.execCtxTeardown c d s
  | .ctxFree c d => Sys2Proof.Machine.execCtxFree c d s
  | .springEnter c d => Sys2Proof.Machine.execSpringEnter c d s
  | .springExit c d => Sys2Proof.Machine.execSpringExit c d s
  | .cfgMode a fs fm strict rnd acc sgnS sgnM => Sys2Proof.Machine.execCfgMode a fs fm strict rnd acc sgnS sgnM s
  | .cfgAddr a areg origin stride wrap => Sys2Proof.Machine.execCfgAddr a areg origin stride wrap s
  | .cfgPos a preg base rowlen adv => Sys2Proof.Machine.execCfgPos a preg base rowlen adv s
  | .cfgFxq a qa qb qpIn qpOut => Sys2Proof.Machine.execCfgFxq a qa qb qpIn qpOut s
  | .cfgStream a stream => Sys2Proof.Machine.execCfgStream a stream s
  | .lds a areg buf orient nrows nelem => Sys2Proof.Machine.execLds a areg buf orient nrows nelem s
  | .strm a areg buf nvec offer take => Sys2Proof.Machine.execStrm a areg buf nvec offer take s
  | .maccZero a => Sys2Proof.Machine.execMaccZero a s
  | .maccStore a areg => Sys2Proof.Machine.execMaccStore a areg s
  | .maccKeep a => Sys2Proof.Machine.execMaccKeep a s
  | .drn a areg fmt stoch carried preg sh => Sys2Proof.Machine.execDrn a areg fmt stoch carried preg sh s
  | .drnNow a areg fmt stoch carried preg sh => Sys2Proof.Machine.execDrnNow a areg fmt stoch carried preg sh s
  | .gram a ra rb same nstep masken fdiv preg => Sys2Proof.Machine.execGram a ra rb same nstep masken fdiv preg s
  | .twinOffer a areg nrows nelem fmt => Sys2Proof.Machine.execTwinOffer a areg nrows nelem fmt s
  | .twinTake a areg nrows nelem fmt => Sys2Proof.Machine.execTwinTake a areg nrows nelem fmt s
  | .histWrite a areg clr => Sys2Proof.Machine.execHistWrite a areg clr s
  | .histMerge a stg clr => Sys2Proof.Machine.execHistMerge a stg clr s
  | .bchkWrite a areg bitoff bstride => Sys2Proof.Machine.execBchkWrite a areg bitoff bstride s
  | .bchkLoad a areg bitoff bstride => Sys2Proof.Machine.execBchkLoad a areg bitoff bstride s
  | .pruSqrt a fmt src dst n sync => Sys2Proof.Machine.execPruSqrt a fmt src dst n sync s
  | .pruRecip a fmt src dst n sync => Sys2Proof.Machine.execPruRecip a fmt src dst n sync s
  | .pruRsqrt a fmt src dst n sync => Sys2Proof.Machine.execPruRsqrt a fmt src dst n sync s
  | .pruPivot a fmt src dst n sync => Sys2Proof.Machine.execPruPivot a fmt src dst n sync s
  | .loop a lctr count target => Sys2Proof.Machine.execLoop a lctr count target s
  | .tokw a tok n keep => Sys2Proof.Machine.execTokw a tok n keep s
  | .toks a tok n => Sys2Proof.Machine.execToks a tok n s
  | .rng a areg preg nrow nelem => Sys2Proof.Machine.execRng a areg preg nrow nelem s
  | .markInstruction a trc id => Sys2Proof.Machine.execMarkInstruction a trc id s
  | .samp a tag => Sys2Proof.Machine.execSamp a tag s
  | .haltEnd a waitt tok => Sys2Proof.Machine.execHaltEnd a waitt tok s
  | .haltNext a seg waitt tok => Sys2Proof.Machine.execHaltNext a seg waitt tok s
  | .haltNextYield a seg waitt tok => Sys2Proof.Machine.execHaltNextYield a seg waitt tok s
  | .twinRendezvous pair => Sys2Proof.Machine.execTwinRendezvous pair s
  | .twinTimeout a => Sys2Proof.Machine.execTwinTimeout a s
  | .tokenIncrement c => Sys2Proof.Machine.execTokenIncrement c s
  | .tokwTimeout a => Sys2Proof.Machine.execTokwTimeout a s
  | .ldsComplete a buf => Sys2Proof.Machine.execLdsComplete a buf s
  | .passComplete a => Sys2Proof.Machine.execPassComplete a s
  | .fillRun a inbound => Sys2Proof.Machine.execFillRun a inbound s
  | .fillRunDone a inbound => Sys2Proof.Machine.execFillRunDone a inbound s
  | .pruRequest sector => Sys2Proof.Machine.execPruRequest sector s
  | .granaryChunk stack => Sys2Proof.Machine.execGranaryChunk stack s
  | .transactionPlace => Sys2Proof.Machine.execTransactionPlace s
  | .weirPass c weir => Sys2Proof.Machine.execWeirPass c weir s
  | .stageStart c seq stage => Sys2Proof.Machine.execStageStart c seq stage s
  | .stageComplete c seq stage => Sys2Proof.Machine.execStageComplete c seq stage s
  | .rowMap c seq view => Sys2Proof.Machine.execRowMap c seq view s
  | .fold obj => Sys2Proof.Machine.execFold obj s
  | .gramStage c seq obj side => Sys2Proof.Machine.execGramStage c seq obj side s
  | .layerReplay c seq layer => Sys2Proof.Machine.execLayerReplay c seq layer s
  | .rescale c slot => Sys2Proof.Machine.execRescale c slot s
  | .blockRelease block => Sys2Proof.Machine.execBlockRelease block s
  | .refreshStart group => Sys2Proof.Machine.execRefreshStart group s
  | .refreshFinish group => Sys2Proof.Machine.execRefreshFinish group s
  | .preconditioning obj => Sys2Proof.Machine.execPreconditioning obj s
  | .normCheck => Sys2Proof.Machine.execNormCheck s
  | .commitPrepare c tag => Sys2Proof.Machine.execCommitPrepare c tag s
  | .groupVote rank key commit => Sys2Proof.Machine.execGroupVote rank key commit s
  | .voteTimeout c tag => Sys2Proof.Machine.execVoteTimeout c tag s
  | .commitPoint c tag => Sys2Proof.Machine.execCommitPoint c tag s
  | .partitionChange c => Sys2Proof.Machine.execPartitionChange c s
  | .batchRelease c seq => Sys2Proof.Machine.execBatchRelease c seq s
  | .problemStart c pair => Sys2Proof.Machine.execProblemStart c pair s
  | .solverFragment c problem => Sys2Proof.Machine.execSolverFragment c problem s
  | .deadline c seq => Sys2Proof.Machine.execDeadline c seq s
  | .pairReturnRequest pair => Sys2Proof.Machine.execPairReturnRequest pair s
  | .borrowerOverrun pair => Sys2Proof.Machine.execBorrowerOverrun pair s
  | .fallowEntry pair => Sys2Proof.Machine.execFallowEntry pair s
  | .fallowWake pair => Sys2Proof.Machine.execFallowWake pair s
  | .contextBlocked c => Sys2Proof.Machine.execContextBlocked c s
  | .swapPoll => Sys2Proof.Machine.execSwapPoll s
  | .weirWindow seen => Sys2Proof.Machine.execWeirWindow seen s
  | .doorbellPoll p entry => Sys2Proof.Machine.execDoorbellPoll p entry s
  | .pollIntervalAdjust c => Sys2Proof.Machine.execPollIntervalAdjust c s
  | .activeExpiry c => Sys2Proof.Machine.execActiveExpiry c s
  | .eventQueueDrain p => Sys2Proof.Machine.execEventQueueDrain p s
  | .linkDown p => Sys2Proof.Machine.execLinkDown p s
  | .linkUp p speed width => Sys2Proof.Machine.execLinkUp p speed width s
  | .cadenceIn eighth => Sys2Proof.Machine.execCadenceIn eighth s
  | .holdoverBoundary => Sys2Proof.Machine.execHoldoverBoundary s
  | .internalBoundary => Sys2Proof.Machine.execInternalBoundary s
  | .ppsIn => Sys2Proof.Machine.execPpsIn s
  | .ppsTimeout => Sys2Proof.Machine.execPpsTimeout s
  | .waitFrameReached c => Sys2Proof.Machine.execWaitFrameReached c s
  | .watchRead c seq point => Sys2Proof.Machine.execWatchRead c seq point s
  | .sample a latency stall => Sys2Proof.Machine.execSample a latency stall s
  | .sluiceTrigger p cond => Sys2Proof.Machine.execSluiceTrigger p cond s
  | .sluiceFreeze p => Sys2Proof.Machine.execSluiceFreeze p s
  | .bwWindow => Sys2Proof.Machine.execBwWindow s
  | .stackTemperature stack temp => Sys2Proof.Machine.execStackTemperature stack temp s
  | .refreshOffsetAdjust stack => Sys2Proof.Machine.execRefreshOffsetAdjust stack s
  | .uncorrectableError place => Sys2Proof.Machine.execUncorrectableError place s
  | .correction place => Sys2Proof.Machine.execCorrection place s
  | .rasGlobalWindow => Sys2Proof.Machine.execRasGlobalWindow s
  | .thermalPowerLoop junction watts => Sys2Proof.Machine.execThermalPowerLoop junction watts s
  | .thermalEmergency => Sys2Proof.Machine.execThermalEmergency s
  | .thermalClear => Sys2Proof.Machine.execThermalClear s
  | .thermtrip => Sys2Proof.Machine.execThermtrip s
  | .railFault rail status => Sys2Proof.Machine.execRailFault rail status s
  | .pmbAlertN found => Sys2Proof.Machine.execPmbAlertN found s
  | .pwrokRise portaRole testMode => Sys2Proof.Machine.execPwrokRise portaRole testMode s
  | .pwrokFall => Sys2Proof.Machine.execPwrokFall s
  | .warmReset byPin => Sys2Proof.Machine.execWarmReset byPin s
  | .warmResetRelease => Sys2Proof.Machine.execWarmResetRelease s
  | .portReset => Sys2Proof.Machine.execPortReset s
  | .portResetRelease => Sys2Proof.Machine.execPortResetRelease s
  | .rom => Sys2Proof.Machine.execRom s
  | .verifying => Sys2Proof.Machine.execVerifying s
  | .training answering failing spare => Sys2Proof.Machine.execTraining answering failing spare s
  | .identity => Sys2Proof.Machine.execIdentity s
  | .init => Sys2Proof.Machine.execInit s
  | .go p => Sys2Proof.Machine.execGo p s
  | .firmwareLoadWrite p offset bytes => Sys2Proof.Machine.execFirmwareLoadWrite p offset bytes s
  | .cadAnchor p value => Sys2Proof.Machine.execCadAnchor p value s
  | .hifEvtRingEnable p value => Sys2Proof.Machine.execHifEvtRingEnable p value s
  | .hifDoorbellEnable p value => Sys2Proof.Machine.execHifDoorbellEnable p value s
  | .sluiceEnable p value => Sys2Proof.Machine.execSluiceEnable p value s
  | .dump p => Sys2Proof.Machine.execDump p s
  | .force p => Sys2Proof.Machine.execForce p s
  | .pmcClear p banks => Sys2Proof.Machine.execPmcClear p banks s
  | .pmcFreeze p banks => Sys2Proof.Machine.execPmcFreeze p banks s
  | .rasLogClear p => Sys2Proof.Machine.execRasLogClear p s
  | .txnShadowCfg p value => Sys2Proof.Machine.execTxnShadowCfg p value s
  | .crvTheta p value => Sys2Proof.Machine.execCrvTheta p value s
  | .crvRootCfg p value => Sys2Proof.Machine.execCrvRootCfg p value s
  | .numScaleCfg p value => Sys2Proof.Machine.execNumScaleCfg p value s
  | .ctxWeirCfg p c weir value => Sys2Proof.Machine.execCtxWeirCfg p c weir value s
  | .colCfg p offset value => Sys2Proof.Machine.execColCfg p offset value s
  | .registerWrite p offset width value => Sys2Proof.Machine.execRegisterWrite p offset width value s
  | .bar2Read p addr len => Sys2Proof.Machine.execBar2Read p addr len s
  | .bar2Write p addr bytes => Sys2Proof.Machine.execBar2Write p addr bytes s
  | .ieee1500Access stack op => Sys2Proof.Machine.execIeee1500Access stack op s
  | .attestation p request => Sys2Proof.Machine.execAttestation p request s
  | .peerWrite reqId payload => Sys2Proof.Machine.execPeerWrite reqId payload s
  | .collectiveTimeout rank => Sys2Proof.Machine.execCollectiveTimeout rank s
  | .smbHottestJunction => Sys2Proof.Machine.execSmbHottestJunction s
  | .smbPower => Sys2Proof.Machine.execSmbPower s
  | .smbStageState => Sys2Proof.Machine.execSmbStageState s
  | .smbAlertConditions => Sys2Proof.Machine.execSmbAlertConditions s
  | .smbSpringCause => Sys2Proof.Machine.execSmbSpringCause s
  | .smbHottestStack => Sys2Proof.Machine.execSmbHottestStack s
  | .registerRead p offset width => Sys2Proof.Machine.execRegisterRead p offset width s
  | .counterOverflow bank unit idx value => Sys2Proof.Machine.execCounterOverflow bank unit idx value s
  | .idle pair => Sys2Proof.Machine.execIdle pair s
  | .railClear rail => Sys2Proof.Machine.execRailClear rail s
  | .doeAbort p => Sys2Proof.Machine.execDoeAbort p s
  | .ideLinkStream p up => Sys2Proof.Machine.execIdeLinkStream p up s
  | .smbOtherCommand code => Sys2Proof.Machine.execSmbOtherCommand code s

end Sys2Proof.Machine
end

