-- ==== Sys2Proof/Machine/Tick.lean ====
section
/-! DEFINITION. One cycle of the device with no command waiting: time passes, counters add, records leave their queues,
pairs and PRUs take up work, and what waits for something that has come about goes on (R19, R98, R165, R192, R294, R322,
R328, R349, R366–R369, R372, R380; log entries 3, 56). -/

namespace Sys2Proof.Machine

/-! ### Values that events present (R369) -/

/-- What a counter's filters let through: a context, 0 for all; a marker, none for all (R365, R366). -/
structure CtrFilter where
  ctx : Nat := 0
  marker : Option Word := none
  deriving DecidableEq, Repr

def CtrFilter.admits (f : CtrFilter) (ctx : Nat) (marker : Word) : Bool :=
  (f.ctx == 0 || f.ctx == ctx) && (match f.marker with | some m => m == marker | none => true)

/-- Level of an array event: work of the array's present context and marker; store accesses that lost a bank are timing and
have a free value from 0 to 5 (log entry 56). -/
def State.arrLevel (s : State) (event a : Nat) : Nat :=
  let x := s.arr a
  match event with
  | 0x001 => 1
  | 0x002 => b2n (x.mode == .running)
  | 0x003 => b2n (x.mode == .waiting)
  | 0x005 => b2n x.stallFrom.isSome
  | 0x007 => x.passes.length
  | 0x008 => Config.freeNat 54 [a, s.now] % 6
  | 0x009 => b2n (match x.wait with | some (.token _ _ _) => true | _ => false)
  | 0x00A => b2n (x.taking.isSome || x.offering.isSome)
  | 0x00B => x.pruOut
  | _ => 0

/-- Pairs of a sector that a condition holds for, with the context each counts for. -/
def State.sectorPairs (s : State) (sec : Nat) (p : Nat → TwinPair → Bool) (ctx : Nat → Nat) (f : CtrFilter) : Nat :=
  ((List.range 8).filter fun k => p (8 * sec + k) (s.pair (8 * sec + k)) && f.admits (ctx (8 * sec + k)) 0).length

/-- What the work of the cycle presents for an event of a unit. -/
def State.pulseValue (s : State) (event unit : Nat) (f : CtrFilter) : Nat :=
  s.pulses.foldl (fun n (q : Pulse) => n + if q.event == event && q.unit == unit && f.admits q.ctx q.marker then q.value else 0) 0

/-- Sector whose requests a memory request counts among: its array's, or for a granary's the one whose near stack it is. -/
def MemReq.sector (m : MemReq) : Nat := if m.array < 96 then m.array / 16 else m.chan / 64

/-- Arrays of a sector with a fill in progress for a context that a filter admits. -/
def State.filling (s : State) (sec : Nat) (f : CtrFilter) : Nat :=
  ((List.range 16).filter fun k =>
    let x := s.arr (16 * sec + k)
    (x.fillIn.active || x.fillOut.active) && f.admits (s.arrCtx (16 * sec + k)) 0).length

/-- Level of a sector event. Crossbar requests not granted, one of an array with a fill in progress, and ring bytes of moves
that are no fills, which leave 1,024 in a cycle at most, are timing and have free values (R72, log entry 56). -/
def State.sectorLevel (s : State) (event sec : Nat) (f : CtrFilter) : Nat :=
  let q := (tgetD s.prus sec [])
  let free (top : Nat) : Nat := if f.marker.isSome then 0 else Config.freeNat 55 [event, sec, f.ctx, s.now] % (top + 1)
  match event with
  | 0x101 => if f.ctx = 0 then b2n (!q.isEmpty) else 0
  | 0x102 => (q.filter fun r => !r.started && f.admits r.ctx (s.arr r.array).marker).length
  | 0x103 => free (s.filling sec f)
  | 0x104 => (s.asking.filter fun m => m.sector == sec && f.admits m.ctx (if m.array < 96 then (s.arr m.array).marker else 0)).length
  | 0x10B => s.sectorPairs sec (fun _ x => x.lent) (fun p => (s.pair p).running) f
  | 0x10C => s.sectorPairs sec (fun _ x => x.fallow) s.pairOwner f
  | _ =>
    if (event = 0x109 ∨ event = 0x10A) ∧ s.ctxs.any fun (e : Nat × Ctx) => f.admits e.1 0 && !e.2.opens.isEmpty then
      free (1024 - s.pulseValue event sec {})
    else 0

/-- Shadow-pool pages in use for a filter: a context's shadow pages, and for the TRAIN context the superseded versions. -/
def State.shadowLevel (s : State) (f : CtrFilter) : Nat :=
  let used := s.stackList.foldl (fun n k => n + (s.site k).used) 0
  let all := s.txns.foldl (fun n t => n + t.shadows.length) 0
  let mine := s.txns.foldl (fun n t => n + if f.admits t.ctx 0 then t.shadows.length else 0) 0
  if f.ctx = 0 then (if f.admits 0 0 then used else 0)
  else mine + if s.trainCtx? = some f.ctx then used - all else 0

/-- Most data bytes of a stack and of a PCIe port in a cycle, each way (R13, R286). -/
def stackCycleBytes : Nat := 2438
def pcieCycleBytes : Nat := 121

/-- Whether bytes can pass at a stack, or at PCIe port A or B. -/
def State.stackMoves (s : State) (n : Nat) : Bool := (s.site n).trained && !(s.site n).selfRefresh
def State.pcieMoves (s : State) (b : Bool) : Bool := s.portOpen (if b == s.portaRole then .steward else .tenant)

/-- Level of a global event; bytes of stacks and links are timing and have free values (log entry 56). -/
def State.globalLevel (s : State) (event : Nat) (f : CtrFilter) : Nat :=
  if 0x200 ≤ event ∧ event ≤ 0x20B then
    b2n ((s.granary (event - 0x200)).items.any fun i => f.admits i.ctx (s.markerOf i.ctx i.seq))
  else if (0x210 ≤ event ∧ event ≤ 0x21B) ∨ (0x220 ≤ event ∧ event ≤ 0x22B) then
    if f.marker.isSome || !s.stackMoves (event % 16) then 0 else Config.freeNat 55 [event, 0, f.ctx, s.now] % (stackCycleBytes + 1)
  else if 0x230 ≤ event ∧ event ≤ 0x233 then
    if f.marker.isSome || !s.pcieMoves (decide (0x232 ≤ event)) then 0
    else Config.freeNat 55 [event, 0, f.ctx, s.now] % (pcieCycleBytes + 1)
  else match event with
    | 0x240 => (s.txns.filter fun t => t.phase == .committing && t.ready && f.admits t.ctx 0).length
    | 0x243 => s.shadowLevel f
    | 0x246 => (s.held.filter fun m => f.admits m.ctx (if m.array < 96 then (s.arr m.array).marker else 0)).length +
        (s.ctxs.map fun (e : Nat × Ctx) => (e.2.opens.filter fun o => o.wait == .weir && f.admits e.1 o.marker).length).sum
    | _ => 0

/-- The value v of an event for one counter (R366, R369). -/
def State.eventValue (s : State) (bank event unit : Nat) (f : CtrFilter) : Nat :=
  let v := s.pulseValue event unit f
  match bank with
  | 0 => if f.admits (s.arrCtx unit) (s.arr unit).marker then v + s.arrLevel event unit else v
  | 1 => if event = 0x101 then min 1 (v + s.sectorLevel event unit f) else v + s.sectorLevel event unit f
  | _ => v + s.globalLevel event f

/-! ### Counters (R366) -/

/-- The bank of a selection register. -/
def bankOf (r : Reg) : Option Nat :=
  match r with
  | .pmcEvselArray => some 0
  | .pmcEvselSector => some 1
  | .pmcEvselGlobal => some 2
  | _ => none

/-- Key of a counter's last value. -/
def ctrKey (bank k : Nat) : Nat := 1024 * bank + k

/-- What a counter adds for a value v, `was` being the value of the cycle before. -/
def ctrGain (mode thresh v was : Nat) : Nat :=
  match mode with
  | 0 => v
  | 1 => b2n (decide (thresh < v))
  | _ => b2n (decide (thresh < v) && decide (was ≤ thresh))

/-- One counter's cycle. A chained odd counter counts its neighbour's wraps alone. -/
def State.ctrTick (s : State) (bank k : Nat) : State :=
  match ctrBank bank with
  | none => s
  | some b =>
    let unit := k / b.per
    let f : CtrFilter := { ctx := s.rfi b.evsel k 32 8,
                           marker := if s.rfi b.evsel k 26 1 = 1 then some (BitVec.ofNat 32 (s.rawReg b.mark unit .steward)) else none }
    let v := s.eventValue bank (s.rfi b.evsel k 0 10) unit f
    let gain := ctrGain (s.rfi b.evsel k 10 2) (s.rfi b.evsel k 12 12) v (tgetD s.levels (ctrKey bank k) 0)
    let s := { s with levels := tset s.levels (ctrKey bank k) v }
    if s.ctrRuns bank b unit (k % b.per) && !s.ctrChained b unit (k % b.per) && gain != 0 then s.ctrAdd bank b unit (k % b.per) gain
    else s

/-- The most that an event presents in one cycle, where the table Performance Events or the rule it names bounds it. -/
def cycleCap (event : Nat) : Option Nat :=
  match event with
  | 0x004 => some 1
  | 0x006 => some 1
  | 0x00C => some 1024
  | 0x00D => some 512
  | 0x00E => some 512
  | 0x101 => some 1
  | 0x105 => some (2 * stackCycleBytes)
  | 0x106 => some (2 * stackCycleBytes)
  | 0x107 => some 1024
  | 0x108 => some 1024
  | 0x109 => some 1024
  | 0x10A => some 1024
  | _ => none

/-- What work has presented, oldest first: the part of this cycle and the part of later ones (log entry 56). -/
def splitPulses : Table Nat → List Pulse → List Pulse × List Pulse
  | _, [] => ([], [])
  | used, q :: qs =>
    let key := 1024 * q.event + q.unit
    let k := match cycleCap q.event with
      | some cap => min q.value (cap - tgetD used key 0)
      | none => q.value
    let r := splitPulses (tset used key (tgetD used key 0 + k)) qs
    (if k = 0 then r.1 else { q with value := k } :: r.1, if k = q.value then r.2 else { q with value := q.value - k } :: r.2)

/-- Every counter with a selection written takes the cycle's values; work beyond what a cycle can present is left for later
cycles. -/
def State.countersTick (s : State) : State :=
  let ks := s.regs.filterMap fun (e : RegKey × DWord) => (bankOf e.1.reg).map fun b => (b, e.1.idx)
  let parts := splitPulses [] s.pulses.reverse
  let s := ks.foldl (fun s (k : Nat × Nat) => s.ctrTick k.1 k.2) { s with pulses := parts.1 }
  { s with pulses := parts.2.reverse }

/-! ### Descriptors that wait -/

/-- Tries an open descriptor again, by what it waits for. -/
def State.retryOpen (s : State) (c : Nat) (o : Open) : State :=
  let d := o.desc
  match o.wait with
  | .token _ _ => s.startWaitToken c d
  | .seq _ _ => s.startWaitSeq c d
  | .frame _ _ => s.retryWaitFrame c d
  | .window | .weir =>
    match d.opcode with
    | 0x02 => s.startCopy c d
    | 0x03 => s.startGather c d
    | 0x04 => s.startScatter c d
    | 0x09 => s.emptyRun c d
    | 0x18 => s.applyBegin
    | 0x28 => s.startColl c d
    | 0x30 => if d.f 3 16 1 = 1 then s.startSlvStructFree c d else s.startSlvStructLoad c d
    | 0x31 => s.retryDelta c d
    | 0x40 => s.startHarvest c d
    | _ => s
  | _ => s

/-- The open descriptors of a context tried again in order, those gone meanwhile left out; then its queue. Nothing is taken
up while its port cannot fetch (R289). -/
def State.ringTick (s : State) (c : Nat) : State :=
  let os := (s.ctxD c).opens
  if !s.portOpen (s.ctxD c).port then s else
  let s := if (s.ctxD c).closed then s
    else os.foldl (fun s (o : Open) => if (s.ctxD c).opens.contains o then s.retryOpen c o else s) s
  s.drain c (s.ctxD c).held.length

/-- Everything that waits looks again: writes of the COL block, version slots, shares, collectives, loads of microprograms,
tokens, rings. -/
def State.settle (s : State) : State :=
  let s := s.colSettle.slotsSettle.shareSettle
  let s := (s.collSettle s.group.flights.length).exchangesBegin
  s.ctxs.foldl (fun s (e : Nat × Ctx) => ((s.recipesSettle e.1).serveTokens e.1).ringTick e.1) s

/-- The cycles since which a pair has had no work, has been free for a problem and has stood still (R238, R391, R392). -/
def State.idleTick (s : State) (p : Nat) : State :=
  let x := s.pair p
  let idle := sinceWhen (s.pairWorkless p) x.noWork s.now
  let free := sinceWhen (s.pairForProblem (s.pairCtx p) p) x.freeSince s.now
  let still := sinceWhen (s.pairStill p) x.still s.now
  if idle = x.noWork ∧ free = x.freeSince ∧ still = x.still then s
  else s.modPair p fun x => { x with noWork := idle, freeSince := free, still := still }

/-- One cycle of the waiting limits of arrays: what waits has waited a cycle more, unless its context is suspended (R68, R98,
R278). -/
def State.waitTick (s : State) : State :=
  { s with arrays := s.arrays.map fun (e : Nat × Arr) => (e.1, e.2.waitCycle (s.ctxD (s.arrCtx e.1)).thermalHold) }

/-- One cycle of the peer timeout: the ranks that something waits on (R336). -/
def State.peerTick (s : State) : State :=
  if s.group.flights.isEmpty ∧ s.txns.isEmpty ∧ s.group.waitFrom.isEmpty then s
  else
    let g := s.group
    let from_ := ((List.range 64).filter s.awaits).map fun r => (r, (tget g.waitFrom r).getD s.now)
    { s with group := { g with waitFrom := from_ } }

/-- What units do of their own accord: refreshes advance, pairs and PRUs take up work, the update goes on; a granary's memory
transactions of the cycle are complete (R19, R165, R193, R322; log entry 99). -/
def State.unitsTick (s : State) : State :=
  let s := ((List.range 6).foldl State.pruTick s).refreshTick
  let s := ((List.range 48).foldl (fun s p => (s.takeWork p).idleTick p) s).waitTick.peerTick
  let s := { s with outstanding := s.outstanding.filter fun m => decide (m.array < 96) }
  let s := if s.ctxs.any (fun (e : Nat × Ctx) => e.2.thermalHold) || s.sites.any (fun (e : Nat × Stack) => e.2.hot) then s.thermalSettle
    else s
  s.granAdvance

/-! ### The cycle -/

/-- What happens in a cycle of a device past READY and not halted. -/
def State.work (s : State) : State :=
  let s := s.countersTick.blockTick.weirTick
  let s := (s.sluiceTick .steward).sluiceTick .tenant
  let s := (List.range 6).foldl (fun s k => s.samplerTick k) s
  s.unitsTick.settle.attestTick

/-- One cycle. With PWROK low nothing happens. -/
def State.tick (s : State) : State :=
  if !s.pwrok then s
  else
    let s := { s with now := s.now + 1 }
    if s.running && s.isReady && s.power.state != 3 then s.work else s

end Sys2Proof.Machine
end

