-- ==== Sys2Proof/WellFormed.lean ====
section
/-! DEFINITION. Which commands are well formed: every unit they name exists, a descriptor is one of its row's, and the fields
of a tile instruction lie in the ranges of R86. -/

namespace Sys2Proof

/-- A descriptor of a row, for one of the 256 contexts (R301, R314). -/
def descOf (r : DescRow) (c : Nat) (d : Desc) : Bool := decide (c < 256) && d.row == some r

/-- Whether the stack a corrected word lies in exists (R1). -/
def correctExists : CorrectPlace → Bool
  | .stack n => decide (n < 12)
  | .path (some n) => decide (n < 12)
  | .path none => true
  | .sram => true

/-- Whether a bank has a counter (R364). -/
def counterExists (bank unit idx : Nat) : Bool :=
  match Machine.ctrBank bank with
  | some b => decide (unit < b.units) && decide (idx < b.per)
  | none => false

/-- Whether every unit a command names exists (R1, R11, R314, R364), and a descriptor is one of its row's. -/
def Instr.unitsExist : Instr → Bool
  | .nop c d => descOf .nop c d
  | .copy c d => descOf .copy c d
  | .gather c d => descOf .gather c d
  | .scatter c d => descOf .scatter c d
  | .planLoad c d => descOf .planLoad c d
  | .planRun c d => descOf .planRun c d
  | .statCfgSet c d => descOf .statCfgSet c d
  | .statCfgReset c d => descOf .statCfgReset c d
  | .rootRefresh c d => descOf .rootRefresh c d
  | .precondCfg c d => descOf .precondCfg c d
  | .granStepFull c d => descOf .granStepFull c d
  | .granStepNorm c d => descOf .granStepNorm c d
  | .granStepApply c d => descOf .granStepApply c d
  | .granStepDiscard c d => descOf .granStepDiscard c d
  | .granProg c d => descOf .granProg c d
  | .txnBegin c d => descOf .txnBegin c d
  | .txnCommit c d => descOf .txnCommit c d
  | .txnAbort c d => descOf .txnAbort c d
  | .allreduce c d => descOf .allreduce c d
  | .reducescatter c d => descOf .reducescatter c d
  | .allgather c d => descOf .allgather c d
  | .broadcast c d => descOf .broadcast c d
  | .permute c d => descOf .permute c d
  | .slvStructLoad c d => descOf .slvStructLoad c d
  | .slvStructFree c d => descOf .slvStructFree c d
  | .slvDelta c d => descOf .slvDelta c d
  | .slvBatch c d => descOf .slvBatch c d
  | .waitFrame c d => descOf .waitFrame c d
  | .waitToken c d => descOf .waitToken c d
  | .waitSeq c d => descOf .waitSeq c d
  | .signal c d => descOf .signal c d
  | .mark c d => descOf .mark c d
  | .watchOff c d => descOf .watchOff c d
  | .watchStatistics c d => descOf .watchStatistics c d
  | .watchDigest c d => descOf .watchDigest c d
  | .harvest c d => descOf .harvest c d
  | .regGroup c d => descOf .regGroup c d
  | .ctxDefine c d => descOf .ctxDefine c d
  | .partSet c d => descOf .partSet c d
  | .ctxTeardown c d => descOf .ctxTeardown c d
  | .ctxFree c d => descOf .ctxFree c d
  | .springEnter c d => descOf .springEnter c d
  | .springExit c d => descOf .springExit c d
  | .cfgMode a _ _ _ _ _ _ _ => decide (a < 96)
  | .cfgAddr a _ _ _ _ => decide (a < 96)
  | .cfgPos a _ _ _ _ => decide (a < 96)
  | .cfgFxq a _ _ _ _ => decide (a < 96)
  | .cfgStream a _ => decide (a < 96)
  | .lds a _ _ _ _ _ => decide (a < 96)
  | .strm a _ _ _ _ _ => decide (a < 96)
  | .maccZero a => decide (a < 96)
  | .maccStore a _ => decide (a < 96)
  | .maccKeep a => decide (a < 96)
  | .drn a _ _ _ _ _ _ => decide (a < 96)
  | .drnNow a _ _ _ _ _ _ => decide (a < 96)
  | .gram a _ _ _ _ _ _ _ => decide (a < 96)
  | .twinOffer a _ _ _ _ => decide (a < 96)
  | .twinTake a _ _ _ _ => decide (a < 96)
  | .histWrite a _ _ => decide (a < 96)
  | .histMerge a _ _ => decide (a < 96)
  | .bchkWrite a _ _ _ => decide (a < 96)
  | .bchkLoad a _ _ _ => decide (a < 96)
  | .pruSqrt a _ _ _ _ _ => decide (a < 96)
  | .pruRecip a _ _ _ _ _ => decide (a < 96)
  | .pruRsqrt a _ _ _ _ _ => decide (a < 96)
  | .pruPivot a _ _ _ _ _ => decide (a < 96)
  | .loop a _ _ _ => decide (a < 96)
  | .tokw a _ _ _ => decide (a < 96)
  | .toks a _ _ => decide (a < 96)
  | .rng a _ _ _ _ => decide (a < 96)
  | .markInstruction a _ _ => decide (a < 96)
  | .samp a _ => decide (a < 96)
  | .haltEnd a _ _ => decide (a < 96)
  | .haltNext a _ _ _ => decide (a < 96)
  | .haltNextYield a _ _ _ => decide (a < 96)
  | .twinRendezvous pair => decide (pair < 48)
  | .twinTimeout a => decide (a < 96)
  | .tokenIncrement c => decide (c < 256)
  | .tokwTimeout a => decide (a < 96)
  | .ldsComplete a _ => decide (a < 96)
  | .passComplete a => decide (a < 96)
  | .fillRun a _ => decide (a < 96)
  | .fillRunDone a _ => decide (a < 96)
  | .pruRequest sector => decide (sector < 6)
  | .granaryChunk stack => decide (stack < 12)
  | .transactionPlace => true
  | .weirPass c weir => decide (c < 256) && decide (weir < 4)
  | .stageStart _ _ _ => true
  | .stageComplete _ _ _ => true
  | .rowMap _ _ _ => true
  | .fold _ => true
  | .gramStage _ _ _ _ => true
  | .layerReplay _ _ _ => true
  | .rescale _ _ => true
  | .blockRelease _ => true
  | .refreshStart _ => true
  | .refreshFinish _ => true
  | .preconditioning _ => true
  | .normCheck => true
  | .commitPrepare _ _ => true
  | .groupVote _ _ _ => true
  | .voteTimeout _ _ => true
  | .commitPoint _ _ => true
  | .partitionChange _ => true
  | .batchRelease _ _ => true
  | .problemStart _ pair => decide (pair < 48)
  | .solverFragment _ _ => true
  | .deadline _ _ => true
  | .pairReturnRequest pair => decide (pair < 48)
  | .borrowerOverrun pair => decide (pair < 48)
  | .fallowEntry pair => decide (pair < 48)
  | .fallowWake pair => decide (pair < 48)
  | .contextBlocked _ => true
  | .swapPoll => true
  | .weirWindow _ => true
  | .doorbellPoll _ entry => decide (entry ≤ 256)
  | .pollIntervalAdjust _ => true
  | .activeExpiry _ => true
  | .eventQueueDrain _ => true
  | .linkDown _ => true
  | .linkUp _ _ _ => true
  | .cadenceIn _ => true
  | .holdoverBoundary => true
  | .internalBoundary => true
  | .ppsIn => true
  | .ppsTimeout => true
  | .waitFrameReached _ => true
  | .watchRead _ _ _ => true
  | .sample a _ _ => decide (a < 96)
  | .sluiceTrigger _ _ => true
  | .sluiceFreeze _ => true
  | .bwWindow => true
  | .stackTemperature stack _ => decide (stack < 12)
  | .refreshOffsetAdjust stack => decide (stack < 12)
  | .uncorrectableError place => Machine.placeExists place
  | .correction place => correctExists place
  | .rasGlobalWindow => true
  | .thermalPowerLoop _ _ => true
  | .thermalEmergency => true
  | .thermalClear => true
  | .thermtrip => true
  | .railFault _ _ => true
  | .pmbAlertN _ => true
  | .pwrokRise _ _ => true
  | .pwrokFall => true
  | .warmReset _ => true
  | .warmResetRelease => true
  | .portReset => true
  | .portResetRelease => true
  | .rom => true
  | .verifying => true
  | .training _ _ _ => true
  | .identity => true
  | .init => true
  | .go _ => true
  | .firmwareLoadWrite _ _ _ => true
  | .cadAnchor _ _ => true
  | .hifEvtRingEnable _ _ => true
  | .hifDoorbellEnable _ _ => true
  | .sluiceEnable _ _ => true
  | .dump _ => true
  | .force _ => true
  | .pmcClear _ _ => true
  | .pmcFreeze _ _ => true
  | .rasLogClear _ => true
  | .txnShadowCfg _ _ => true
  | .crvTheta _ _ => true
  | .crvRootCfg _ _ => true
  | .numScaleCfg _ _ => true
  | .ctxWeirCfg _ c weir _ => decide (c < 256) && decide (weir < 4)
  | .colCfg _ _ _ => true
  | .registerWrite _ _ _ _ => true
  | .bar2Read _ _ _ => true
  | .bar2Write _ _ _ => true
  | .ieee1500Access stack _ => decide (stack < 12)
  | .attestation _ _ => true
  | .peerWrite _ _ => true
  | .collectiveTimeout _ => true
  | .smbHottestJunction => true
  | .smbPower => true
  | .smbStageState => true
  | .smbAlertConditions => true
  | .smbSpringCause => true
  | .smbHottestStack => true
  | .registerRead _ _ _ => true
  | .counterOverflow bank unit idx _ => counterExists bank unit idx
  | .idle pair => decide (pair < 48)
  | .railClear _ => true
  | .doeAbort _ => true
  | .ideLinkStream _ _ => true
  | .smbOtherCommand _ => true

/-- The tile instruction that a command issues. -/
def Instr.tile? : Instr → Option Tile
  | .nop _ _ => none
  | .copy _ _ => none
  | .gather _ _ => none
  | .scatter _ _ => none
  | .planLoad _ _ => none
  | .planRun _ _ => none
  | .statCfgSet _ _ => none
  | .statCfgReset _ _ => none
  | .rootRefresh _ _ => none
  | .precondCfg _ _ => none
  | .granStepFull _ _ => none
  | .granStepNorm _ _ => none
  | .granStepApply _ _ => none
  | .granStepDiscard _ _ => none
  | .granProg _ _ => none
  | .txnBegin _ _ => none
  | .txnCommit _ _ => none
  | .txnAbort _ _ => none
  | .allreduce _ _ => none
  | .reducescatter _ _ => none
  | .allgather _ _ => none
  | .broadcast _ _ => none
  | .permute _ _ => none
  | .slvStructLoad _ _ => none
  | .slvStructFree _ _ => none
  | .slvDelta _ _ => none
  | .slvBatch _ _ => none
  | .waitFrame _ _ => none
  | .waitToken _ _ => none
  | .waitSeq _ _ => none
  | .signal _ _ => none
  | .mark _ _ => none
  | .watchOff _ _ => none
  | .watchStatistics _ _ => none
  | .watchDigest _ _ => none
  | .harvest _ _ => none
  | .regGroup _ _ => none
  | .ctxDefine _ _ => none
  | .partSet _ _ => none
  | .ctxTeardown _ _ => none
  | .ctxFree _ _ => none
  | .springEnter _ _ => none
  | .springExit _ _ => none
  | .cfgMode _ fs fm strict rnd acc sgnS sgnM => some (.cfgMode fs fm strict rnd acc sgnS sgnM)
  | .cfgAddr _ areg origin stride wrap => some (.cfgAddr areg origin stride wrap)
  | .cfgPos _ preg base rowlen adv => some (.cfgPos preg base rowlen adv)
  | .cfgFxq _ qa qb qpIn qpOut => some (.cfgFxq qa qb qpIn qpOut)
  | .cfgStream _ stream => some (.cfgStream stream)
  | .lds _ areg buf orient nrows nelem => some (.lds areg buf orient nrows nelem)
  | .strm _ areg buf nvec offer take => some (.strm areg buf nvec offer take)
  | .maccZero _ => some (.maccZero)
  | .maccStore _ areg => some (.maccStore areg)
  | .maccKeep _ => some (.maccKeep)
  | .drn _ areg fmt stoch carried preg sh => some (.drn areg fmt stoch carried preg sh)
  | .drnNow _ areg fmt stoch carried preg sh => some (.drnNow areg fmt stoch carried preg sh)
  | .gram _ ra rb same nstep masken fdiv preg => some (.gram ra rb same nstep masken fdiv preg)
  | .twinOffer _ areg nrows nelem fmt => some (.twinOffer areg nrows nelem fmt)
  | .twinTake _ areg nrows nelem fmt => some (.twinTake areg nrows nelem fmt)
  | .histWrite _ areg clr => some (.histWrite areg clr)
  | .histMerge _ stg clr => some (.histMerge stg clr)
  | .bchkWrite _ areg bitoff bstride => some (.bchkWrite areg bitoff bstride)
  | .bchkLoad _ areg bitoff bstride => some (.bchkLoad areg bitoff bstride)
  | .pruSqrt _ fmt src dst n sync => some (.pru .sqrt fmt src dst n sync)
  | .pruRecip _ fmt src dst n sync => some (.pru .recip fmt src dst n sync)
  | .pruRsqrt _ fmt src dst n sync => some (.pru .rsqrt fmt src dst n sync)
  | .pruPivot _ fmt src dst n sync => some (.pru .pivot fmt src dst n sync)
  | .loop _ lctr count target => some (.loop lctr count target)
  | .tokw _ tok n keep => some (.tokw tok n keep)
  | .toks _ tok n => some (.toks tok n)
  | .rng _ areg preg nrow nelem => some (.rng areg preg nrow nelem)
  | .markInstruction _ trc id => some (.mark trc id)
  | .samp _ tag => some (.samp tag)
  | .haltEnd _ waitt tok => some (.haltEnd waitt tok)
  | .haltNext _ seg waitt tok => some (.haltNext seg waitt tok)
  | .haltNextYield _ seg waitt tok => some (.haltNextYield seg waitt tok)
  | .twinRendezvous _ => none
  | .twinTimeout _ => none
  | .tokenIncrement _ => none
  | .tokwTimeout _ => none
  | .ldsComplete _ _ => none
  | .passComplete _ => none
  | .fillRun _ _ => none
  | .fillRunDone _ _ => none
  | .pruRequest _ => none
  | .granaryChunk _ => none
  | .transactionPlace => none
  | .weirPass _ _ => none
  | .stageStart _ _ _ => none
  | .stageComplete _ _ _ => none
  | .rowMap _ _ _ => none
  | .fold _ => none
  | .gramStage _ _ _ _ => none
  | .layerReplay _ _ _ => none
  | .rescale _ _ => none
  | .blockRelease _ => none
  | .refreshStart _ => none
  | .refreshFinish _ => none
  | .preconditioning _ => none
  | .normCheck => none
  | .commitPrepare _ _ => none
  | .groupVote _ _ _ => none
  | .voteTimeout _ _ => none
  | .commitPoint _ _ => none
  | .partitionChange _ => none
  | .batchRelease _ _ => none
  | .problemStart _ _ => none
  | .solverFragment _ _ => none
  | .deadline _ _ => none
  | .pairReturnRequest _ => none
  | .borrowerOverrun _ => none
  | .fallowEntry _ => none
  | .fallowWake _ => none
  | .contextBlocked _ => none
  | .swapPoll => none
  | .weirWindow _ => none
  | .doorbellPoll _ _ => none
  | .pollIntervalAdjust _ => none
  | .activeExpiry _ => none
  | .eventQueueDrain _ => none
  | .linkDown _ => none
  | .linkUp _ _ _ => none
  | .cadenceIn _ => none
  | .holdoverBoundary => none
  | .internalBoundary => none
  | .ppsIn => none
  | .ppsTimeout => none
  | .waitFrameReached _ => none
  | .watchRead _ _ _ => none
  | .sample _ _ _ => none
  | .sluiceTrigger _ _ => none
  | .sluiceFreeze _ => none
  | .bwWindow => none
  | .stackTemperature _ _ => none
  | .refreshOffsetAdjust _ => none
  | .uncorrectableError _ => none
  | .correction _ => none
  | .rasGlobalWindow => none
  | .thermalPowerLoop _ _ => none
  | .thermalEmergency => none
  | .thermalClear => none
  | .thermtrip => none
  | .railFault _ _ => none
  | .pmbAlertN _ => none
  | .pwrokRise _ _ => none
  | .pwrokFall => none
  | .warmReset _ => none
  | .warmResetRelease => none
  | .portReset => none
  | .portResetRelease => none
  | .rom => none
  | .verifying => none
  | .training _ _ _ => none
  | .identity => none
  | .init => none
  | .go _ => none
  | .firmwareLoadWrite _ _ _ => none
  | .cadAnchor _ _ => none
  | .hifEvtRingEnable _ _ => none
  | .hifDoorbellEnable _ _ => none
  | .sluiceEnable _ _ => none
  | .dump _ => none
  | .force _ => none
  | .pmcClear _ _ => none
  | .pmcFreeze _ _ => none
  | .rasLogClear _ => none
  | .txnShadowCfg _ _ => none
  | .crvTheta _ _ => none
  | .crvRootCfg _ _ => none
  | .numScaleCfg _ _ => none
  | .ctxWeirCfg _ _ _ _ => none
  | .colCfg _ _ _ => none
  | .registerWrite _ _ _ _ => none
  | .bar2Read _ _ _ => none
  | .bar2Write _ _ _ => none
  | .ieee1500Access _ _ => none
  | .attestation _ _ => none
  | .peerWrite _ _ => none
  | .collectiveTimeout _ => none
  | .smbHottestJunction => none
  | .smbPower => none
  | .smbStageState => none
  | .smbAlertConditions => none
  | .smbSpringCause => none
  | .smbHottestStack => none
  | .registerRead _ _ _ => none
  | .counterOverflow _ _ _ _ => none
  | .idle _ => none
  | .railClear _ => none
  | .doeAbort _ => none
  | .ideLinkStream _ _ => none
  | .smbOtherCommand _ => none

/-- A command with existing units and, for a tile instruction, every field in its range. -/
def Instr.wf (i : Instr) : Bool :=
  i.unitsExist && match i.tile? with
    | some t => Machine.tileOk t
    | none => true

end Sys2Proof
end

