-- ==== Sys2Proof/Safety.lean ====
section
/-! DEFINITION. The terms in which claims about the device are put: when a descriptor is taken at once and what its
acceptance leaves, when an array issues, which part of the state a command may touch, and the invariants of the device. -/

namespace Sys2Proof.Machine

/-! ### Descriptors -/

/-- The device takes a descriptor the moment it is fetched: it serves descriptors, the context is resident and holds none
back, the SEQ is the expected one, and neither the completion ring, nor a WAIT, nor FENCE, nor CHAIN makes it wait
(R293, R294). -/
def State.takesNow (s : State) (c : Nat) (d : Desc) : Bool :=
  s.taking c && (s.ctxD c).held.isEmpty && (s.ctxD c).seqOk d && (s.ctxD c).mode == .resident && !(s.ctxD c).mustWait d false &&
    !(s.ctxD c).chainBroken d

/-- The state once a descriptor has passed the SEQ check and its context has become active (R293, R296). -/
def State.seqTaken (s : State) (c : Nat) (d : Desc) : State :=
  s.modCtx c fun x => { x with ring := { x.ring with expect := some (d.seq + 1) }, active := true }

/-- A descriptor of a row that is taken at once and passes every check of its row (R294). -/
def State.admits (s : State) (c : Nat) (d : Desc) (r : DescRow) : Bool :=
  descOf r c d && s.takesNow c d && (s.seqTaken c d).verdict c d == none

/-- The state in which an admitted descriptor starts: its SEQ is taken and it is open. -/
def State.accepted (s : State) (c : Nat) (d : Desc) : State := (s.seqTaken c d).accept c d

/-- The state in which a descriptor's writes of some ranges of a location are prepared: a member's in its transaction's own
pages, any other's as it stands (R206, R215). -/
def State.prepares (s : State) (c : Nat) (d : Desc) (l : Loc) (ranges : List (Nat × Nat)) (k : State) : Prop :=
  match l with
  | .region r _ => if d.inTxn then s.memberWrites c d r ranges = .go k else k = s
  | _ => k = s

/-- Every weir on a movement's way lets it pass (R328). -/
def State.weirsOpen (s : State) (c : Nat) (src dst : Loc) : Bool := (moveWeirs src dst).all fun w => s.weirLets c w

/-! ### Arrays -/

/-- An array whose next instruction is the given one, of n words, and may issue but for the engine that performs it: the
array exists and runs, and no PRU with SYNC holds it (R80, R95). -/
def State.issues (s : State) (a : Nat) (t : Tile) (n : Nat) : Bool :=
  decide (a < 96) && (s.arr a).next == some (t, n) && !((s.arr a).sync && decide (0 < (s.arr a).pruOut))

/-! ### Frames -/

/-- Nothing but what acceptance, completion and tracing of descriptors touch: contexts, host memories, the ports' state,
trigger registers, counters' pulses. -/
def State.onlyReports (s t : State) : Prop :=
  { t with ctxs := s.ctxs, hostA := s.hostA, hostB := s.hostB, steward := s.steward, tenant := s.tenant, regs := s.regs,
           pulses := s.pulses } = s

/-- Nothing but one array and the counters' pulses. -/
def State.onlyArray (s t : State) (a : Nat) : Prop :=
  (∀ b, b ≠ a → t.arr b = s.arr b) ∧ { t with arrays := s.arrays, pulses := s.pulses } = s

/-! ### Registers -/

/-- A port whose register writes are carried out at once: BAR0 answers it, the device is past READY and not halted, and no low
word is held (R445, R448). -/
def State.serves (s : State) (p : Port) : Bool :=
  s.barOpen p && s.isReady && s.power.state != 3 && (s.portSt p).held.isNone

/-- Nothing but the registers named and the units' own settings and reports: contexts, arrays, objects, runs, transactions,
problems, pairs, memory, start-up and power are as they were. -/
def State.onlySettings (s t : State) (rs : List Reg) : Prop :=
  { t with regs := s.regs, steward := s.steward, tenant := s.tenant, pulses := s.pulses, hostA := s.hostA, hostB := s.hostB,
           curv := s.curv, num := s.num, stats := s.stats, sites := s.sites, shadowDue := s.shadowDue, cad := s.cad,
           ras := s.ras, group := s.group } = s ∧
    ∀ q, q ∉ rs → ∀ idx p, t.rawReg q idx p = s.rawReg q idx p

/-! ### Bounds (R299, R377, R380, R394, R412, R422) -/

/-- A port's queues have their places and its counters their widths. -/
def PortState.bounded (x : PortState) : Prop :=
  x.evtQueue.length ≤ 64 ∧ x.sluiceQueue.length ≤ 256 ∧ x.lostTotal ≤ 65535 ∧ x.lostAttnTotal ≤ 255 ∧ x.sluiceLost ≤ 0xFFFFFFFF

/-- The device's queues have their places, its saturating counters their widths, GATE its range, the error log its entries, and
the memories their canonical form. -/
def State.bounded (s : State) : Prop :=
  s.steward.bounded ∧ s.tenant.bounded ∧ s.power.gate ≤ 30 ∧ s.ras.wptr < 32 ∧ s.ras.sram < 2 ^ 24 ∧ s.ras.path < 256 ∧
    s.attestCount ≤ 65535 ∧ Memory.wf s.hbm = true ∧ Memory.wf s.hostA = true ∧ Memory.wf s.hostB = true

end Sys2Proof.Machine
end

