-- ==== Sys2Proof/Certificates/Slice0/Obligations.lean ====
section
/-! DEFINITION. The statements about the device that are put to the provers, by family of commands. -/

open Sys2Proof Sys2Proof.Machine

/-! ### The machine as a whole -/

/-- A step takes the command at the front of the queue and is exec of it on the state with the queue's rest. -/
def Obligations.StepRunsTheFrontCommand : Prop :=
  ∀ (s : State) (c : Instr) (rest : List Instr), s.pending = c :: rest → step s = exec c { s with pending := rest }

/-- Every command whose units exist is answered with a next state, in every state; every other command stops with a fault,
and none is ever refused. -/
def Obligations.CommandsStopOnlyForAbsentUnits : Prop :=
  ∀ (i : Instr) (s : State),
    (i.unitsExist = true → ∃ t, exec i s = .next t) ∧ (i.unitsExist = false → ∃ f, exec i s = .fault f)

/-! ### Descriptors: NOP, MARK, SIGNAL, WAIT (R306) -/

/-- NOP, MARK and SIGNAL complete DONE at once: MARK sets its context's marker id and records it, SIGNAL adds COUNT to the
token of the context it names. Each WAIT completes DONE at acceptance when what it waits for has come about, a FRAME wait
with the frames since; else it is open and waits for it. A TOKEN wait takes its count from the token. -/
def Obligations.MarkersSignalsAndWaits : Prop :=
  (∀ (s : State) (c : Nat) (d : Desc), s.admits c d .nop = true →
    exec (.nop c d) s = .next ((s.accepted c d).finish c d stDone 0 0)) ∧
  (∀ (s : State) (c : Nat) (d : Desc), s.admits c d .mark = true →
    exec (.mark c d) s = .next ((((s.accepted c d).modCtx c fun x => { x with marker := d.w2 }).markRecord c 0x200 d.w2
      (d.f 3 0 1 == 1) d.seq).finish c d stDone 0 0)) ∧
  (∀ (s : State) (c : Nat) (d : Desc), s.admits c d .signal = true →
    exec (.signal c d) s = .next (((s.accepted c d).modCtx (d.f 3 0 8) fun x =>
      { x with tokens := tset x.tokens (d.f 2 0 5) (tgetD x.tokens (d.f 2 0 5) 0 + d.w4) }).finish c d stDone 0 0)) ∧
  (∀ (s : State) (c : Nat) (d : Desc), s.admits c d .waitFrame = true →
    exec (.waitFrame c d) s = .next (
      if waitStamp d ≤ s.stamp then
        (s.accepted c d).finish c d stDone 0 (BitVec.ofNat 32 (min ((s.stamp - waitStamp d) / 65536) 0xFFFFFFFF))
      else (s.accepted c d).setWait c d (.frame (waitStamp d / 65536) (waitStamp d % 65536)))) ∧
  (∀ (s : State) (c : Nat) (d : Desc), s.admits c d .waitToken = true →
    exec (.waitToken c d) s = .next (
      if d.w 4 ≤ (tgetD (s.ctxD c).tokens (d.f 3 0 5) 0).toNat then
        ((s.accepted c d).modCtx c fun x =>
          { x with tokens := tset x.tokens (d.f 3 0 5) (tgetD (s.ctxD c).tokens (d.f 3 0 5) 0 - d.w4) }).finish c d stDone 0 0
      else (s.accepted c d).setWait c d (.token (d.f 3 0 5) (d.w 4)))) ∧
  (∀ (s : State) (c : Nat) (d : Desc), s.admits c d .waitSeq = true →
    exec (.waitSeq c d) s = .next (
      if (s.accepted c d).seqDone (d.f 3 0 8) d.w4 then (s.accepted c d).finish c d stDone 0 0
      else (s.accepted c d).setWait c d (.seq (d.f 3 0 8) d.w4)))

/-! ### Descriptors: moves of data (R303) -/

/-- COPY, GATHER and SCATTER of nothing complete DONE_EMPTY. GATHER and SCATTER with an index outside BASE complete LIMIT
with INDEX_RANGE and nothing moved. One whose bytes meet a shut weir stays open and waits for it. Else, once a member's
writes are prepared in its transaction's own pages, the weirs on the way are charged, and: COPY writes the bytes of the
source at the destination; GATHER and SCATTER exchange row k of the packed rows with the row the list names; they complete
DONE. A COPY of a harvest record onto a master restores the object (R348). -/
def Obligations.MovesOfData : Prop :=
  (∀ (s : State) (c : Nat) (d : Desc), s.admits c d .copy = true → d.w64 8 = 0 →
    exec (.copy c d) s = .next ((s.accepted c d).finish c d stDoneEmpty 0 0)) ∧
  (∀ (s : State) (c : Nat) (d : Desc), s.admits c d .copy = true → d.w64 8 ≠ 0 →
    (s.accepted c d).weirsOpen c (dSrc d) (dDst d) = false →
    exec (.copy c d) s = .next ((s.accepted c d).setWait c d .weir)) ∧
  (∀ (s k m : State) (c : Nat) (d : Desc), s.admits c d .copy = true → d.w64 8 ≠ 0 →
    (s.accepted c d).weirsOpen c (dSrc d) (dDst d) = true → (s.accepted c d).restoreTarget c d = none →
    (s.accepted c d).prepares c d (dDst d) [((dDst d).offset, d.w64 8)] k → m = k.chargeMove c (dSrc d) (dDst d) (d.w64 8) →
    exec (.copy c d) s =
      .next ((m.locPut c (m.txnOf c d) (dDst d) (m.locBytes c (m.txnOf c d) (dSrc d) (d.w64 8))).finish c d stDone 0 0)) ∧
  (∀ (s : State) (c : Nat) (d : Desc) (x : Obj), s.admits c d .copy = true → d.w64 8 ≠ 0 →
    (s.accepted c d).weirsOpen c (dSrc d) (dDst d) = true → (s.accepted c d).restoreTarget c d = some x →
    exec (.copy c d) s = .next ((s.accepted c d).restoreRecord c d x)) ∧
  (∀ (s : State) (c : Nat) (d : Desc), d.w 11 = 0 →
    (s.admits c d .gather = true → exec (.gather c d) s = .next ((s.accepted c d).finish c d stDoneEmpty 0 0)) ∧
    (s.admits c d .scatter = true → exec (.scatter c d) s = .next ((s.accepted c d).finish c d stDoneEmpty 0 0))) ∧
  (∀ (s : State) (c : Nat) (d : Desc), d.w 11 ≠ 0 → (s.accepted c d).rowsInside c d ((s.accepted c d).indexList c d) = false →
    (s.admits c d .gather = true → exec (.gather c d) s = .next ((s.accepted c d).finish c d stLimit dIndexRange 0)) ∧
    (s.admits c d .scatter = true → exec (.scatter c d) s = .next ((s.accepted c d).finish c d stLimit dIndexRange 0))) ∧
  (∀ (s : State) (c : Nat) (d : Desc), d.w 11 ≠ 0 → (s.accepted c d).rowsInside c d ((s.accepted c d).indexList c d) = true →
    (s.admits c d .gather = true → (s.accepted c d).weirsOpen c (dSrc d) (dDst d) = false →
      exec (.gather c d) s = .next ((s.accepted c d).setWait c d .weir)) ∧
    (s.admits c d .scatter = true → (s.accepted c d).weirsOpen c (dDst d) (dSrc d) = false →
      exec (.scatter c d) s = .next ((s.accepted c d).setWait c d .weir))) ∧
  (∀ (s k m : State) (c : Nat) (d : Desc) (idx : List Nat), s.admits c d .gather = true → d.w 11 ≠ 0 →
    idx = (s.accepted c d).indexList c d → (s.accepted c d).rowsInside c d idx = true →
    (s.accepted c d).weirsOpen c (dSrc d) (dDst d) = true →
    (s.accepted c d).prepares c d (dDst d) [((dDst d).offset, d.w 11 * d.w 12)] k →
    m = k.chargeMove c (dSrc d) (dDst d) (d.w 11 * d.w 12) →
    exec (.gather c d) s = .next ((m.moveRows c d (fun _ i => (dSrc d).plus (i * d.w 12)) (fun n _ => (dDst d).plus (n * d.w 12))
      idx).finish c d stDone 0 0)) ∧
  (∀ (s k m : State) (c : Nat) (d : Desc) (idx : List Nat), s.admits c d .scatter = true → d.w 11 ≠ 0 →
    idx = (s.accepted c d).indexList c d → (s.accepted c d).rowsInside c d idx = true →
    (s.accepted c d).weirsOpen c (dDst d) (dSrc d) = true →
    (s.accepted c d).prepares c d (dSrc d) (idx.map fun i => ((dSrc d).offset + i * d.w 12, d.w 12)) k →
    m = k.chargeMove c (dDst d) (dSrc d) (d.w 11 * d.w 12) →
    exec (.scatter c d) s = .next ((m.moveRows c d (fun n _ => (dDst d).plus (n * d.w 12)) (fun _ i => (dSrc d).plus (i * d.w 12))
      idx).finish c d stDone 0 0))

/-! ### Descriptors: plans (R107, R124, R304) -/

/-- PLAN_LOAD of a container whose checks pass and whose regions can be placed leaves in its slot the container's content,
its size and its measurement. PLAN_RUN with samples puts one run in flight, with its slot, micro-batch slot, samples, seed
and step, and stays open; without samples it completes DONE_EMPTY, or waits while the window of a commit holds new pins
back. -/
def Obligations.PlansLoadAndRun : Prop :=
  (∀ (s m : State) (c : Nat) (d : Desc) (b : PlanBody) (rs : List Region), s.admits c d .planLoad = true →
    b = Config.planBody ((s.accepted c d).planBytes c d) →
    (s.accepted c d).allocAll (s.ctxD c).pairs ((s.accepted c d).newRegions c b ++ [cacheDecl (d.w64 5)]) = .ok (m, rs) →
    ∃ (t : State) (p : Plan), exec (.planLoad c d) s = .next t ∧ tget (t.ctxD c).plans (d.f 2 0 3) = some p ∧ p.body = b ∧
      p.size = d.w64 5 ∧ p.measurement = planMeasure ((s.accepted c d).planBytes c d) (d.w64 5)) ∧
  (∀ (s : State) (c : Nat) (d : Desc), s.admits c d .planRun = true → d.f 3 0 17 = 0 →
    exec (.planRun c d) s = .next (if s.pinWindow then (s.accepted c d).setWait c d .window
      else (s.accepted c d).finish c d stDoneEmpty 0 0)) ∧
  (∀ (s : State) (c : Nat) (d : Desc) (p : Plan), s.admits c d .planRun = true → d.f 3 0 17 ≠ 0 → s.planOf c (d.f 2 0 3) = some p →
    exec (.planRun c d) s = .next { s.accepted c d with
      runs := s.runs ++ [{ ctx := c, seq := d.seq, slot := d.f 2 0 3,
                           mb := if (s.ctxD c).kind = .train then some (d.f 2 4 4) else none,
                           nsamp := d.f 3 0 17, seed := BitVec.ofNat 64 (d.w64 4), step := d.w 6 + 2 ^ 32 * d.f 7 0 8,
                           foldsLeft := if (s.ctxD c).kind = .train then p.body.foldsObjects else [],
                           afterChange := (s.ctxD c).changes.head?.any (·.due) }] })

/-! ### Descriptors: statistics, roots and preconditioning (R151, R152, R175, R177, R205) -/

/-- Outside a transaction STAT_CFG, PRECOND_CFG and ROOT_REFRESH take effect at acceptance: SET changes the parameters of
the statistics named, RESET marks them for the next seal, PRECOND_CFG holds new parameters for the next seal, ROOT_REFRESH
registers a request for the blocks named. As members of a transaction the same four, and REG_GROUP, are held in the
transaction until its commit: STAT_CFG, PRECOND_CFG and REG_GROUP complete DONE, ROOT_REFRESH stays open. -/
def Obligations.CurvatureSettingsAndMembers : Prop :=
  (∀ (s : State) (c : Nat) (d : Desc), s.admits c d .statCfgSet = true → d.inTxn = false →
    exec (.statCfgSet c d) s =
      .next ((((s.accepted c d).statTargets c d).foldl (fun s k => s.modStat k fun t => t.configured d) (s.accepted c d)).finish c d
        stDone 0 0)) ∧
  (∀ (s : State) (c : Nat) (d : Desc), s.admits c d .statCfgReset = true → d.inTxn = false →
    exec (.statCfgReset c d) s =
      .next ((((s.accepted c d).statTargets c d).foldl (fun s k => s.modStat k fun t => { t with resetDue := true })
        (s.accepted c d)).finish c d stDone 0 0)) ∧
  (∀ (s : State) (c : Nat) (d : Desc), s.admits c d .precondCfg = true → d.inTxn = false →
    exec (.precondCfg c d) s =
      .next ((((s.accepted c d).precondTargets c d).foldl (fun s o => s.modObj o fun x =>
        { x with precondDue := some ((x.precondDue.getD x.precond).configured d) }) (s.accepted c d)).finish c d stDone 0 0)) ∧
  (∀ (s : State) (c : Nat) (d : Desc), s.admits c d .rootRefresh = true → d.inTxn = false →
    exec (.rootRefresh c d) s = .next ({ s.accepted c d with curv := { s.curv with
      requests := s.curv.requests ++ [{ ctx := c, seq := d.seq, waiting := (s.accepted c d).requestTargets c d }] } }
      : State).requestsSettle) ∧
  (∀ (s : State) (c : Nat) (d : Desc) (t : Txn), s.admits c d .statCfgSet = true → d.inTxn = true →
    (s.accepted c d).txn? c d.tag = some t → exec (.statCfgSet c d) s =
      .next (((s.accepted c d).setTxn { t with deferred := t.deferred ++ [.descriptor d] }).finish c d stDone 0 0)) ∧
  (∀ (s : State) (c : Nat) (d : Desc) (t : Txn), s.admits c d .statCfgReset = true → d.inTxn = true →
    (s.accepted c d).txn? c d.tag = some t → exec (.statCfgReset c d) s =
      .next (((s.accepted c d).setTxn { t with deferred := t.deferred ++ [.descriptor d] }).finish c d stDone 0 0)) ∧
  (∀ (s : State) (c : Nat) (d : Desc) (t : Txn), s.admits c d .precondCfg = true → d.inTxn = true →
    (s.accepted c d).txn? c d.tag = some t → exec (.precondCfg c d) s =
      .next (((s.accepted c d).setTxn { t with deferred := t.deferred ++ [.descriptor d] }).finish c d stDone 0 0)) ∧
  (∀ (s : State) (c : Nat) (d : Desc) (t : Txn), s.admits c d .rootRefresh = true → d.inTxn = true →
    (s.accepted c d).txn? c d.tag = some t → exec (.rootRefresh c d) s =
      .next ((s.accepted c d).setTxn { t with deferred := t.deferred ++ [.descriptor d] })) ∧
  (∀ (s : State) (c : Nat) (d : Desc) (t : Txn), s.admits c d .regGroup = true → d.inTxn = true → d.f 3 0 9 ≠ 0 →
    (s.accepted c d).txn? c d.tag = some t → exec (.regGroup c d) s =
      .next (((s.accepted c d).setTxn { t with deferred := t.deferred ++
        [.registers (groupEntries ((s.accepted c d).groupList c d) (d.f 3 0 9))] }).finish c d stDone 0 0))

/-! ### Descriptors: GRAN_STEP, GRAN_PROG (R192, R195–R199) -/

/-- A GRAN_STEP with entries: FULL and NORM seal their step, unless it is sealed, and put the update in its first phase,
from where it goes on as far as nothing holds it; APPLY takes over its entries and begins their apply passes; DISCARD
releases the sealed buffers of its objects, writes an event and completes DONE. With an empty list all four complete
DONE_EMPTY. GRAN_PROG's load joins those of its context; each load whose slot no update uses goes into its slot and
completes DONE, the others wait. -/
def Obligations.UpdatesBeginAndProgramsLoad : Prop :=
  (∀ (s k : State) (c : Nat) (d : Desc), granCount d ≠ 0 →
    k = (if ((s.accepted c d).markGran c d).isSealed c (granStepNo d) then (s.accepted c d).markGran c d
      else ((s.accepted c d).markGran c d).sealStep c (granStepNo d)) →
    (s.admits c d .granStepFull = true → exec (.granStepFull c d) s =
      .next ({ k with gran := some ((s.accepted c d).granRecord c d ((s.accepted c d).granEntries c d)) } : State).granAdvance) ∧
    (s.admits c d .granStepNorm = true → exec (.granStepNorm c d) s =
      .next ({ k with gran := some ((s.accepted c d).granRecord c d ((s.accepted c d).granEntries c d)) } : State).granAdvance)) ∧
  (∀ (s k : State) (c : Nat) (d : Desc), s.admits c d .granStepApply = true → granCount d ≠ 0 → k = (s.accepted c d).markGran c d →
    exec (.granStepApply c d) s = .next ({ k with gran := k.gran.map fun (g : GranStep) => { g with
      entries := g.entries.map fun (e : GranEntry) => (((s.accepted c d).granEntries c d).find? fun x => x.obj == e.obj).getD e,
      listed := ((s.accepted c d).granEntries c d).map (·.obj),
      lastSlice := d.f 3 10 1 == 1, active := some (d.seq, d.tag, 2, d.w8, .apply) } } : State).applyBegin) ∧
  (∀ (s : State) (c : Nat) (d : Desc) (es : List GranEntry), s.admits c d .granStepDiscard = true → granCount d ≠ 0 →
    es = ((s.accepted c d).granEntries c d).filter (fun e => (s.accepted c d).entrySealed c (granStepNo d) e) →
    exec (.granStepDiscard c d) s = .next (((es.foldl (fun s e => s.releaseBuf e.obj) (s.accepted c d)).ctxEvent 0x0201 0 c
      [BitVec.ofNat 32 (granStepNo d), BitVec.ofNat 32 (granStepNo d / 2 ^ 32), BitVec.ofNat 32 es.length]).finish c d stDone 0 0)) ∧
  (∀ (s : State) (c : Nat) (d : Desc), granCount d = 0 →
    (s.admits c d .granStepFull = true →
      exec (.granStepFull c d) s = .next (((s.accepted c d).markGran c d).finish c d stDoneEmpty 0 0)) ∧
    (s.admits c d .granStepNorm = true →
      exec (.granStepNorm c d) s = .next (((s.accepted c d).markGran c d).finish c d stDoneEmpty 0 0)) ∧
    (s.admits c d .granStepApply = true →
      exec (.granStepApply c d) s = .next (((s.accepted c d).markGran c d).finish c d stDoneEmpty 0 0)) ∧
    (s.admits c d .granStepDiscard = true →
      exec (.granStepDiscard c d) s = .next (((s.accepted c d).markGran c d).finish c d stDoneEmpty 0 0))) ∧
  (∀ (s k : State) (c : Nat) (d : Desc) (loads free : List (Word × Nat × List Word)), s.admits c d .granProg = true →
    loads = ((s.accepted c d).ctxD c).recipeLoads ++ [(d.seq, d.f 2 0 4, (s.accepted c d).granProgWords c d)] →
    free = loads.filter (fun l => !s.slotInUse c l.2.1) →
    k = (s.accepted c d).modCtx c (fun x => { x with
      recipeLoads := loads.filter (fun l => s.slotInUse c l.2.1), recipes := free.foldl (fun t l => tset t l.2.1 l.2.2) x.recipes }) →
    exec (.granProg c d) s = .next (free.foldl (fun s l => s.completeSeq c l.1 stDone 0 0) k))

/-! ### Descriptors: transactions (R204, R213, R214, R217) -/

/-- TXN_BEGIN opens a transaction with its tag, in the order of beginning, and completes DONE; TXN_COMMIT puts an open one in
its commit, and closes one that has aborted with ABORTED_TXN; TXN_ABORT aborts it, closes it and completes DONE. -/
def Obligations.TransactionsOpenAndClose : Prop :=
  (∀ (s : State) (c : Nat) (d : Desc) (t : Txn), s.admits c d .txnBegin = true → beginGroup d = false →
    t = { ctx := c, tag := d.tag, order := s.txnCount, atFrame := d.f 2 0 1 == 1, lateOk := d.f 2 1 1 == 1,
          frame := d.w 3 + 2 ^ 32 * d.f 4 0 16, key := d.w5 } →
    exec (.txnBegin c d) s =
      .next (({ s.accepted c d with txns := s.txns ++ [t], txnCount := s.txnCount + 1 } : State).finish c d stDone 0 0)) ∧
  (∀ (s : State) (c : Nat) (d : Desc) (t : Txn), s.admits c d .txnBegin = true → beginGroup d = true →
    t = { ctx := c, tag := d.tag, order := s.txnCount, atFrame := d.f 2 0 1 == 1, lateOk := d.f 2 1 1 == 1, group := true,
          frame := d.w 3 + 2 ^ 32 * d.f 4 0 16, key := d.w5 } →
    exec (.txnBegin c d) s =
      .next ((({ s.accepted c d with txns := s.txns ++ [t], txnCount := s.txnCount + 1 } : State).finish c d stDone 0 0).takeVotes c d.tag
        d.w5)) ∧
  (∀ (s : State) (c : Nat) (d : Desc) (t : Txn), s.admits c d .txnCommit = true → s.txn? c d.tag = some t → t.isOpen = true →
    exec (.txnCommit c d) s = .next ((s.accepted c d).setTxn { t with
      phase := .committing, commitSeq := some d.seq, digests := d.f 2 0 1 == 1, digestAddr := d.w64 3, digestMax := d.f 5 0 16 })) ∧
  (∀ (s : State) (c : Nat) (d : Desc) (t : Txn) (e : BitVec 16), s.admits c d .txnCommit = true → s.txn? c d.tag = some t →
    t.phase = .aborted e →
    exec (.txnCommit c d) s = .next (({ s.accepted c d with txns := s.txns.filter fun x => !(x.ctx == c && x.tag == d.tag) }
      : State).finish c d stAbortedTxn e.toNat 0)) ∧
  (∀ (s k : State) (c : Nat) (d : Desc), s.admits c d .txnAbort = true → k = (s.accepted c d).abortTxn c d.tag dTxnAborted none →
    exec (.txnAbort c d) s = .next ((({ k with txns := k.txns.filter fun x => !(x.ctx == c && x.tag == d.tag) }
      : State).finish c d stDone 0 0).shareSettle))

/-! ### Descriptors: collectives (R335, R337) -/

/-- Each collective of count zero completes DONE_EMPTY. Of a nonzero count: while the engine does not run, or with sixteen
under way, it waits for a place; with its context's collective weir shut, or the HBM read weir for a source there, it waits for
that; else it goes into flight with its own operand and the ranks of its cut, after the bytes read are charged and its data for
the other members has left, and meets the data that came early. -/
def Obligations.CollectivesGoIntoFlight : Prop :=
  (∀ (s : State) (c : Nat) (d : Desc), collCount d = 0 →
    (s.admits c d .allreduce = true → exec (.allreduce c d) s = .next ((s.accepted c d).finish c d stDoneEmpty 0 0)) ∧
    (s.admits c d .reducescatter = true → exec (.reducescatter c d) s = .next ((s.accepted c d).finish c d stDoneEmpty 0 0)) ∧
    (s.admits c d .allgather = true → exec (.allgather c d) s = .next ((s.accepted c d).finish c d stDoneEmpty 0 0)) ∧
    (s.admits c d .broadcast = true → exec (.broadcast c d) s = .next ((s.accepted c d).finish c d stDoneEmpty 0 0)) ∧
    (s.admits c d .permute = true → exec (.permute c d) s = .next ((s.accepted c d).finish c d stDoneEmpty 0 0))) ∧
  (∀ (s : State) (c : Nat) (d : Desc) (w : Waiting), collCount d ≠ 0 →
    (((s.accepted c d).collOn = false ∨ 16 ≤ s.group.flights.length) ∧ w = .window ∨
      (s.accepted c d).collOn = true ∧ s.group.flights.length < 16 ∧
        ((3 :: hbmWeir false (collSrc d)).all fun n => (s.accepted c d).weirLets c n) = false ∧ w = .weir) →
    (s.admits c d .allreduce = true → exec (.allreduce c d) s = .next ((s.accepted c d).setWait c d w)) ∧
    (s.admits c d .reducescatter = true → exec (.reducescatter c d) s = .next ((s.accepted c d).setWait c d w)) ∧
    (s.admits c d .allgather = true → exec (.allgather c d) s = .next ((s.accepted c d).setWait c d w)) ∧
    (s.admits c d .broadcast = true → exec (.broadcast c d) s = .next ((s.accepted c d).setWait c d w)) ∧
    (s.admits c d .permute = true → exec (.permute c d) s = .next ((s.accepted c d).setWait c d w))) ∧
  (∀ (s j k : State) (c : Nat) (d : Desc) (f : Coll), collCount d ≠ 0 → s.group.flights.length < 16 →
    (s.accepted c d).collOn = true → ((3 :: hbmWeir false (collSrc d)).all fun n => (s.accepted c d).weirLets c n) = true →
    j = (s.accepted c d).setWait c d .engine →
    f = { ctx := c, seq := d.seq, desc := d, cut := j.cutRanks (bitsOf d.w3.toNat 28 4), own := j.collOwn c d,
          tag := if d.inTxn then some d.tag else none } →
    k = ((hbmWeir false (collSrc d)).foldl (fun j n => j.charge c n f.own.length) j).collSend c d (j.cutRanks (bitsOf d.w3.toNat 28 4)) →
    (s.admits c d .allreduce = true →
      exec (.allreduce c d) s = .next ({ k with group := { k.group with flights := k.group.flights ++ [f] } } : State).takeEarly) ∧
    (s.admits c d .reducescatter = true →
      exec (.reducescatter c d) s = .next ({ k with group := { k.group with flights := k.group.flights ++ [f] } } : State).takeEarly) ∧
    (s.admits c d .allgather = true →
      exec (.allgather c d) s = .next ({ k with group := { k.group with flights := k.group.flights ++ [f] } } : State).takeEarly) ∧
    (s.admits c d .broadcast = true →
      exec (.broadcast c d) s = .next ({ k with group := { k.group with flights := k.group.flights ++ [f] } } : State).takeEarly) ∧
    (s.admits c d .permute = true →
      exec (.permute c d) s = .next ({ k with group := { k.group with flights := k.group.flights ++ [f] } } : State).takeEarly))

/-! ### Descriptors: the solver (R241, R245–R248, R260) -/

/-- SLV_STRUCT_LOAD puts its problems in the place of their numbers and completes DONE with the entries loaded;
SLV_STRUCT_FREE frees its range and completes DONE; where a batch not yet complete holds a problem of the range, both wait.
SLV_DELTA applies its entries in order but those of problems of a released batch, and completes DONE with the entries
skipped and saturated, or waits with what is left; an entry applies to a loaded problem it fits and is skipped else.
SLV_BATCH adds its batch and stays open. Each of count zero completes DONE_EMPTY. -/
def Obligations.SolverDescriptorsAct : Prop :=
  (∀ (s : State) (c : Nat) (d : Desc), s.admits c d .slvStructLoad = true → structCount d ≠ 0 →
    s.batchHolds c false (span (structFirst d) (structCount d)) = false →
    exec (.slvStructLoad c d) s = .next (((((s.accepted c d).structRecords c d).foldl (fun k r =>
      k.setProblem c r.num (r.load (structPlan d) ((k.classOf c (structPlan d) r.cls).getD default))) (s.accepted c d)).finish c d
        stDone 0 (BitVec.ofNat 32 (((s.accepted c d).structRecords c d).map (·.nent)).sum)))) ∧
  (∀ (s : State) (c : Nat) (d : Desc), s.admits c d .slvStructFree = true → structCount d ≠ 0 →
    s.batchHolds c false (span (structFirst d) (structCount d)) = false →
    exec (.slvStructFree c d) s = .next (({ s.accepted c d with
      problems := (span (structFirst d) (structCount d)).foldl (fun (t : Table Problem) n => tdel t (probKey c n)) s.problems }
      : State).finish c d stDone 0 0)) ∧
  (∀ (s : State) (c : Nat) (d : Desc), structCount d ≠ 0 → s.batchHolds c false (span (structFirst d) (structCount d)) = true →
    (s.admits c d .slvStructLoad = true → exec (.slvStructLoad c d) s = .next ((s.accepted c d).setWait c d .window)) ∧
    (s.admits c d .slvStructFree = true → exec (.slvStructFree c d) s = .next ((s.accepted c d).setWait c d .window))) ∧
  (∀ (s : State) (c : Nat) (d : Desc),
    (s.admits c d .slvStructLoad = true → structCount d = 0 →
      exec (.slvStructLoad c d) s = .next ((s.accepted c d).finish c d stDoneEmpty 0 0)) ∧
    (s.admits c d .slvStructFree = true → structCount d = 0 →
      exec (.slvStructFree c d) s = .next ((s.accepted c d).finish c d stDoneEmpty 0 0)) ∧
    (s.admits c d .slvDelta = true → deltaCount d = 0 →
      exec (.slvDelta c d) s = .next ((s.accepted c d).finish c d stDoneEmpty 0 0)) ∧
    (s.admits c d .slvBatch = true → batchCount d = 0 →
      exec (.slvBatch c d) s = .next ((s.accepted c d).finish c d stDoneEmpty 0 0))) ∧
  (∀ (s : State) (c : Nat) (d : Desc) (r : State × DeltaWait), s.admits c d .slvDelta = true → deltaCount d ≠ 0 →
    r = (s.accepted c d).applyDeltas { ctx := c, seq := d.seq, left := ((s.accepted c d).deltaBytes c d).map deltaOf } →
    exec (.slvDelta c d) s = .next (if r.2.left = [] then
        r.1.finish c d stDone 0 (BitVec.ofNat 32 (min r.2.skipped 65535 + 65536 * min r.2.sat 65535))
      else ({ r.1 with deltas := r.1.deltas ++ [r.2] } : State).setWait c d .window)) ∧
  (∀ (s : State) (w : DeltaWait) (n kind idx elem : Nat) (v : Word) (es : List (Nat × Nat × Nat × Word × Nat)), w.left = es ++ [(n, kind, idx, v, elem)] →
    let a := s.applyDeltas { w with left := es }
    (a.1.batchHolds w.ctx true [n] = true → s.applyDeltas w = (a.1, { a.2 with left := a.2.left ++ [(n, kind, idx, v, elem)] })) ∧
    (a.1.batchHolds w.ctx true [n] = false →
      ((a.1.problem? w.ctx n = none ∨ ∃ p, a.1.problem? w.ctx n = some p ∧ p.delta kind idx v elem = none) →
        s.applyDeltas w = (a.1, { a.2 with skipped := a.2.skipped + 1 })) ∧
      (∀ (p q : Problem) (sat : Bool), a.1.problem? w.ctx n = some p → p.delta kind idx v elem = some (q, sat) →
        s.applyDeltas w = (a.1.setProblem w.ctx n q, { a.2 with sat := a.2.sat + if sat then 1 else 0 })))) ∧
  (∀ (s : State) (c : Nat) (d : Desc), s.admits c d .slvBatch = true → batchCount d ≠ 0 →
    exec (.slvBatch c d) s = .next { s.accepted c d with batches := s.batches ++ [
      { ctx := c, seq := d.seq, first := batchFirst d, count := batchCount d,
        release := if d.f 3 16 1 = 1 then some (batchRelease d) else none,
        deadline := if d.f 3 17 1 = 1 then some (batchDeadline d) else none,
        recAddr := d.w64 8, solAddr := d.w64 10, solStride := d.f 12 0 16, maxit := d.f 13 0 9, fmt32 := d.f 13 16 1 == 1,
        left := span (batchFirst d) (batchCount d) }] })

/-! ### Descriptors: watch points and harvest (R347, R374–R376) -/

/-- WATCH OFF frees its point; WATCH with TRIG 1 arms its point with what it is to read, and with TRIG 0 writes one read of
its location, statistics or digest, to slot 0 of its results: all complete DONE, a read of no bytes DONE_EMPTY. HARVEST of
no objects completes DONE_EMPTY; one that meets the window of its context's commit, or a shut weir, waits for it; any other
writes the image, header and one record for each object, to host memory, charges the weirs and completes DONE with the
number of objects. -/
def Obligations.WatchPointsAndHarvest : Prop :=
  (∀ (s : State) (c : Nat) (d : Desc), s.admits c d .watchOff = true →
    exec (.watchOff c d) s = .next (((s.accepted c d).modCtx c fun x => { x with watches := tdel x.watches (d.f 2 0 4) }).finish c d
      stDone 0 0)) ∧
  (∀ (s : State) (c : Nat) (d : Desc) (l : Loc) (o : Nat × Nat × Nat × Nat × Nat) (w : Watch), d.f 2 6 1 = 1 →
    locOf d 3 = some l → s.watchOutput c (d.f 2 16 16) l = some o →
    w = { stage := d.f 2 16 16, loc := d.w3, locLo := d.w4, locHi := d.w5, len := d.w64 6, fmt := d.f 8 0 4, result := d.w64 9,
          plan := o.1 } →
    (s.admits c d .watchStatistics = true → exec (.watchStatistics c d) s = .next (((s.accepted c d).modCtx c fun x =>
      { x with watches := tset x.watches (d.f 2 0 4) { w with digest := false } }).finish c d stDone 0 0)) ∧
    (s.admits c d .watchDigest = true → exec (.watchDigest c d) s = .next (((s.accepted c d).modCtx c fun x =>
      { x with watches := tset x.watches (d.f 2 0 4) { w with digest := true } }).finish c d stDone 0 0))) ∧
  (∀ (s k : State) (c : Nat) (d : Desc) (l : Loc), d.f 2 6 1 = 0 → d.w64 6 ≠ 0 → locOf d 3 = some l → k = s.accepted c d →
    (s.admits c d .watchStatistics = true → exec (.watchStatistics c d) s = .next ((k.ctxWrite c (s.ctxD c).port (d.w64 9)
      (watchSlot (d.f 2 0 4) 1 0 s.stamp 0 0 (watchStats (k.viewOnce c none l (d.w64 6) (d.f 8 0 4))))).finish c d stDone 0 0)) ∧
    (s.admits c d .watchDigest = true → exec (.watchDigest c d) s = .next ((k.ctxWrite c (s.ctxD c).port (d.w64 9)
      (watchSlot (d.f 2 0 4) 2 0 s.stamp 0 0 (watchDigest (k.locBytes c none l (d.w64 6)) (d.w64 6) 0))).finish c d stDone 0 0))) ∧
  (∀ (s : State) (c : Nat) (d : Desc), d.f 2 6 1 = 0 → d.w64 6 = 0 →
    (s.admits c d .watchStatistics = true → exec (.watchStatistics c d) s = .next ((s.accepted c d).finish c d stDoneEmpty 0 0)) ∧
    (s.admits c d .watchDigest = true → exec (.watchDigest c d) s = .next ((s.accepted c d).finish c d stDoneEmpty 0 0))) ∧
  (∀ (s : State) (c : Nat) (d : Desc), s.admits c d .harvest = true →
    (d.f 3 0 16 = 0 → exec (.harvest c d) s = .next ((s.accepted c d).finish c d stDoneEmpty 0 0)) ∧
    (∀ g, d.f 3 0 16 ≠ 0 → s.gran = some g → g.window = true → g.ctx = c →
      exec (.harvest c d) s = .next ((s.accepted c d).setWait c d .window))) ∧
  (∀ (s k : State) (c : Nat) (d : Desc) (head img : List Byte), s.admits c d .harvest = true → d.f 3 0 16 ≠ 0 →
    (∀ g, s.gran = some g → g.window = false ∨ g.ctx ≠ c) → k = s.accepted c d →
    head = leBytes 4 0x48565354 ++ leBytes 4 0x00010000 ++ leBytes 8 (k.imageSize c d) ++ leBytes 4 s.rankWord ++
      leBytes 4 (k.harvestList c d).length ++ leBytes 8 s.stamp →
    img = head ++ List.replicate (4096 - head.length) 0 ++ (k.harvestList c d).flatMap (k.harvestRecord d) →
    exec (.harvest c d) s = .next (if k.weirsOpen c (.region 0 0) (.host 0) then
        ((k.ctxWrite c (s.ctxD c).port (d.w64 5) img).chargeMove c (.region 0 0) (.host 0) (k.imageSize c d)).finish c d stDone 0
          (BitVec.ofNat 32 (k.harvestList c d).length)
      else k.setWait c d .weir))

/-! ### Descriptors: management (R307, R308, R316–R320, R407, R410) -/

/-- MGMT REG_GROUP outside a transaction applies its entries together, and with no entries completes DONE_EMPTY; CTX_DEFINE
adds a context of the kind, port and ring given, with its priority; CTX_TEARDOWN tears its context down with cause 3;
CTX_FREE frees it; all complete DONE. PART_SET holds its change, with the swap area it allocates, until the change point; as
a member it is held in its transaction and completes DONE. MGMT SPRING_ENTER enters spring mode for the command's cause;
SPRING_EXIT takes the device back to ON with every cause cleared, its memory, objects and problems kept, and, where no
context's host writes wait, the arrays of sector 0; both complete DONE. -/
def Obligations.ManagementActsOnContexts : Prop :=
  (∀ (s : State) (c : Nat) (d : Desc), s.admits c d .regGroup = true →
    (d.inTxn = false → d.f 3 0 9 ≠ 0 → exec (.regGroup c d) s = .next (((s.accepted c d).applyGroup
      (groupEntries ((s.accepted c d).groupList c d) (d.f 3 0 9))).finish c d stDone 0 0)) ∧
    (d.f 3 0 9 = 0 → exec (.regGroup c d) s = .next ((s.accepted c d).finish c d stDoneEmpty 0 0))) ∧
  (∀ (s k : State) (c : Nat) (d : Desc) (p : Port) (r : Ring), s.admits c d .ctxDefine = true →
    p = (if d.f 3 8 1 = 1 then Port.tenant else Port.steward) → (s.accepted c d).readRing p (mgmtCtx d) = some r →
    k = s.accepted c d →
    exec (.ctxDefine c d) s = .next ((({ k with ctxs := tset k.ctxs (mgmtCtx d) (k.newCtx (kindOf (d.f 3 9 2)) p r) }
      : State).setField .ctxPrio (mgmtCtx d) .steward 0 2 (d.f 3 11 2)).finish c d stDone 0 0)) ∧
  (∀ (s k : State) (c : Nat) (d : Desc) (swap : List (Nat × Nat)), s.admits c d .partSet = true →
    (s.accepted c d).swapAlloc (partSlices d) = some (k, swap) →
    (d.inTxn = false → exec (.partSet c d) s = .next ((k.modCtx (mgmtCtx d) fun x => { x with changes := x.changes ++
      [{ pairs := partPairs d, slices := partSlices d, borrower := partBorrower d, seq := some d.seq, swap := swap }] }).setWait c d
        .change)) ∧
    (∀ t, d.inTxn = true → k.txn? c d.tag = some t → exec (.partSet c d) s = .next ((k.setTxn { t with deferred := t.deferred ++
      [.partition (mgmtCtx d) { pairs := partPairs d, slices := partSlices d, borrower := partBorrower d, seq := none, swap := swap }] }
        ).finish c d stDone 0 0))) ∧
  (∀ (s : State) (c : Nat) (d : Desc), s.admits c d .ctxTeardown = true →
    exec (.ctxTeardown c d) s = .next (((s.accepted c d).teardown (mgmtCtx d) 3).finish c d stDone 0 0)) ∧
  (∀ (s : State) (c : Nat) (d : Desc), s.admits c d .ctxFree = true →
    exec (.ctxFree c d) s = .next (((s.accepted c d).freeCtx (mgmtCtx d)).finish c d stDone 0 0)) ∧
  (∀ (s : State) (c : Nat) (d : Desc), s.admits c d .springEnter = true →
    exec (.springEnter c d) s = .next (((s.accepted c d).springCause 3 true 0 0 0).finish c d stDone 0 0)) ∧
  (∀ (s : State) (c : Nat) (d : Desc), s.admits c d .springExit = true →
    ∃ t, exec (.springExit c d) s = .next t ∧ t = (s.accepted c d).springLeave.finish c d stDone 0 0 ∧
      t.power.state = 1 ∧ t.power.spring = 0 ∧ t.power.cause = 0 ∧
      ((∀ e ∈ s.ctxs, e.2.hostHeld = false) → t.hbm = s.hbm ∧ t.objects = s.objects ∧ t.problems = s.problems ∧
        ∀ a, a < 16 → t.arr a = s.arr a))

/-! ### Tile instructions (R79–R98) -/

/-- Issue moves an array past the instruction's words, counts it, ends its idle state and its stall, and leaves every register,
store and pass of the array, and everything outside it but the counters' pulses, as they were. -/
def Obligations.IssueAdvancesTheArray : Prop :=
  ∀ (s : State) (a n : Nat), (∃ k sm, (s.issued a n).arr a =
      { s.arr a with pc := ((s.arr a).pc + n) % 4096, ord := (s.arr a).ord + 1, issued := k, idle := false, stallFrom := none,
                     sampled := (s.arr a).sampled ++ sm }) ∧ s.onlyArray (s.issued a n) a

/-- The CFG instructions set the pass settings, an address register with its offset at 0, a position register, the FX32
settings and the stream id, and change nothing else of the array that has issued them. In the flow configurations MACC ZERO,
STORE and KEEP set where the next passes start from; in the Gram configuration, with no pass ahead, ZERO clears the Gram
accumulators, STORE loads them from 128 rows, and KEEP leaves them. -/
def Obligations.ConfigurationInstructionsSet : Prop :=
  (∀ (s : State) (a n fs fm rnd acc : Nat) (strict sgnS sgnM : Bool),
    s.issues a (.cfgMode fs fm strict rnd acc sgnS sgnM) n = true →
    exec (.cfgMode a fs fm strict rnd acc sgnS sgnM) s = .next ((s.issued a n).modArr a fun x =>
      { x with cfg := { fs := fs, fm := fm, strict := strict, rnd := rnd, acc := acc, sgnS := sgnS, sgnM := sgnM } })) ∧
  (∀ (s : State) (a n areg origin wrap : Nat) (stride : Int), s.issues a (.cfgAddr areg origin stride wrap) n = true →
    exec (.cfgAddr a areg origin stride wrap) s = .next ((s.issued a n).modArr a fun x =>
      { x with aregs := tset x.aregs areg { origin := origin, offset := 0, stride := stride, wrap := wrap } })) ∧
  (∀ (s : State) (a n preg base rowlen : Nat) (adv : Int), s.issues a (.cfgPos preg base rowlen adv) n = true →
    exec (.cfgPos a preg base rowlen adv) s = .next ((s.issued a n).modArr a fun x =>
      { x with pregs := tset x.pregs preg { base := base, rowlen := rowlen, adv := adv } })) ∧
  (∀ (s : State) (a n qa qb qpIn qpOut : Nat), s.issues a (.cfgFxq qa qb qpIn qpOut) n = true →
    exec (.cfgFxq a qa qb qpIn qpOut) s = .next ((s.issued a n).modArr a fun x =>
      { x with fxq := { qa := qa, qb := qb, qpIn := qpIn, qpOut := qpOut } })) ∧
  (∀ (s : State) (a n stream : Nat), s.issues a (.cfgStream stream) n = true →
    exec (.cfgStream a stream) s = .next ((s.issued a n).modArr a fun x => { x with stream := stream })) ∧
  (∀ (s : State) (a n : Nat), s.issues a .maccZero n = true → isGramMode (s.arr a).cfg = false →
    exec (.maccZero a) s = .next ((s.issued a n).modArr a fun x => { x with macc := .zero })) ∧
  (∀ (s : State) (a n : Nat), s.issues a .maccZero n = true → isGramMode (s.arr a).cfg = true → (s.arr a).passes = [] →
    exec (.maccZero a) s = .next ((s.issued a n).modArr a fun x => { x with gramAcc := [] })) ∧
  (∀ (s : State) (a n areg : Nat), s.issues a (.maccStore areg) n = true → isGramMode (s.arr a).cfg = false →
    exec (.maccStore a areg) s = .next ((s.issued a n).modArr a fun x => { x with macc := .store areg })) ∧
  (∀ (s : State) (a n areg : Nat), s.issues a (.maccStore areg) n = true → isGramMode (s.arr a).cfg = true →
    (s.arr a).passes = [] → (s.allPending a).blocks { reads := ((s.arr a).areg areg).lines 128 1024 } = false →
    ((s.arr a).areg areg).rowsOk 128 1024 = true →
    exec (.maccStore a areg) s = .next ((s.issued a n).modArr a fun x =>
      { x.setAreg areg ((x.areg areg).advance 128) with gramAcc := gramLoad x.store (x.areg areg) })) ∧
  (∀ (s : State) (a n : Nat), s.issues a .maccKeep n = true → isGramMode (s.arr a).cfg = false →
    exec (.maccKeep a) s = .next ((s.issued a n).modArr a fun x => { x with macc := .keep })) ∧
  (∀ (s : State) (a n : Nat), s.issues a .maccKeep n = true → isGramMode (s.arr a).cfg = true → (s.arr a).passes = [] →
    exec (.maccKeep a) s = .next (s.issued a n))

/-- DRN sets the drain of the passes that follow; DRN with NOW, once no pass is queued and no pending access meets its rows,
writes the Gram accumulators to 128 rows of its register and advances the register. An LDS whose buffer is free and whose
rows meet no pending write starts its load; a STRM with a drain set and a place for its pass, and a GRAM with a place for
its pass, queue it: each latches its registers and settings, and advances once every register it names. A STRM without a
drain faults its context, and so does each of them with rows that do not all lie in the array store. -/
def Obligations.PassesLoadAndDrain : Prop :=
  (∀ (s : State) (a n areg fmt preg sh : Nat) (stoch carried : Bool), s.issues a (.drn areg fmt stoch carried preg sh) n = true →
    exec (.drn a areg fmt stoch carried preg sh) s = .next ((s.issued a n).modArr a fun x =>
      { x with drn := some { areg := areg, fmt := fmt, stoch := stoch, carried := carried, preg := preg, sh := sh } })) ∧
  (∀ (s : State) (a n areg fmt preg sh : Nat) (stoch carried : Bool) (o : PassOut),
    s.issues a (.drnNow areg fmt stoch carried preg sh) n = true → (s.arr a).passes = [] →
    (s.allPending a).blocks { writes := ((s.arr a).areg areg).lines 128 (rowBytes fmt 128) } = false →
    o = gramDrain (s.arr a).store (s.arr a).hist
      { areg := areg, fmt := fmt, stoch := stoch, carried := carried, preg := preg, sh := sh } ((s.arr a).areg areg) (s.arr a).gramAcc →
    (((s.arr a).areg areg).rowsOk 128 (rowBytes fmt 128) = true →
      exec (.drnNow a areg fmt stoch carried preg sh) s = .next (((s.issued a n).modArr a fun x =>
        { x.setAreg areg (((s.arr a).areg areg).advance 128) with
          store := o.store, hist := o.hist, sticky := x.sticky ||| o.sticky }).pulseArr a 0xC o.bytes)) ∧
    (((s.arr a).areg areg).rowsOk 128 (rowBytes fmt 128) = false →
      exec (.drnNow a areg fmt stoch carried preg sh) s = .next ((s.issued a n).arrFault a (s.arr a).pc))) ∧
  (∀ (s : State) (a n areg buf nrows nelem : Nat) (orient : Bool) (l : Load), s.issues a (.lds areg buf orient nrows nelem) n = true →
    l = (s.arr a).mkLoad areg buf orient nrows nelem →
    ((s.arr a).loads.any fun k => k.buf == buf) = false → ((s.arr a).passes.any fun p => !p.gram && p.buf == buf) = false →
    (s.allPending a).blocks l.touch = false →
    (l.areg.rowsOk nrows (rowBytes l.mode.fs nelem) = true →
      exec (.lds a areg buf orient nrows nelem) s = .next ((s.issued a n).modArr a fun x =>
        { x.setAreg areg (l.areg.advance nrows) with loads := (s.arr a).loads ++ [l] })) ∧
    (l.areg.rowsOk nrows (rowBytes l.mode.fs nelem) = false →
      exec (.lds a areg buf orient nrows nelem) s = .next ((s.issued a n).arrFault a (s.arr a).pc))) ∧
  (∀ (s : State) (a n areg buf nvec take : Nat) (offer : Bool) (d : Drain) (p : Pass), s.issues a (.strm areg buf nvec offer take) n = true →
    (s.arr a).drn = some d → p = (s.arr a).mkPass d areg buf nvec offer take (s.arr a).pc →
    (s.arr a).passes.length < 4 → (s.otherPending a).blocks ((s.arr a).passTouch p) = false →
    ((s.arr a).passOk p = true → exec (.strm a areg buf nvec offer take) s = .next ((s.issued a n).modArr a fun y =>
      let y := y.advanceAll nvec ((if take = 0 then [areg] else []) ++ (s.arr a).macc.areg ++ [d.areg])
      let y := if d.stoch then y.setPreg d.preg ((s.arr a).preg d.preg).advance else y
      { y with passes := y.passes ++ [if isBlock d.fmt then { p with latch := (s.arr a).latchFor p } else p],
               latch := if isBlock d.fmt then [] else y.latch })) ∧
    ((s.arr a).passOk p = false →
      exec (.strm a areg buf nvec offer take) s = .next ((s.issued a n).arrFault a (s.arr a).pc))) ∧
  (∀ (s : State) (a n areg buf nvec take : Nat) (offer : Bool), s.issues a (.strm areg buf nvec offer take) n = true →
    (s.arr a).drn = none → exec (.strm a areg buf nvec offer take) s = .next ((s.issued a n).arrFault a (s.arr a).pc)) ∧
  (∀ (s : State) (a n ra rb nstep fdiv preg : Nat) (same masken : Bool) (p : Pass),
    s.issues a (.gram ra rb same nstep masken fdiv preg) n = true →
    p = (s.arr a).mkGram ra rb same nstep masken fdiv preg (s.arr a).pc → (s.arr a).passes.length < 4 →
    (s.otherPending a).blocks ((s.arr a).passTouch p) = false →
    (p.src.rowsOk nstep (rowBytes (s.arr a).cfg.fm 128) = true →
      (same = true ∨ p.src2.rowsOk nstep (rowBytes (s.arr a).cfg.fm 128) = true) →
      exec (.gram a ra rb same nstep masken fdiv preg) s = .next ((s.issued a n).modArr a fun y =>
        let y := y.advanceAll nstep (if same then [ra] else [ra, rb])
        let y := if masken then y.setPreg preg p.pos.advance else y
        { y with passes := y.passes ++ [p] })) ∧
    ((p.src.rowsOk nstep (rowBytes (s.arr a).cfg.fm 128) = false ∨
        same = false ∧ p.src2.rowsOk nstep (rowBytes (s.arr a).cfg.fm 128) = false) →
      exec (.gram a ra rb same nstep masken fdiv preg) s = .next ((s.issued a n).arrFault a (s.arr a).pc)))

/-- A standalone TWIN offer or take, with no other of its direction waiting and no pending access in its way, waits on the
tile channel with its latched register, which advances. HIST writes the local histogram to its register's row, and in a
context of another kind than TRAIN to its stage's one bank; or it merges the histogram, by saturating addition, into the
bank of its stage and the step's parity, for a context of kind TRAIN whose step is not sealed (any other merge is
discarded), and waits while step − 2 is unsealed; CLR clears the local histogram. BCHK writes the overflow bits of the last
block pass to its register's row and flags the blocks whose bits are set; with LOAD it loads the status latch from the row.
Each of them with rows that do not all lie in the array store faults its context. -/
def Obligations.TwinHistogramAndCheckInstructions : Prop :=
  (∀ (s : State) (a n areg nrows nelem fmt : Nat) (w : Twin), s.issues a (.twinOffer areg nrows nelem fmt) n = true →
    w = (s.arr a).mkTwin true areg nrows nelem fmt → ((s.arr a).twins.any fun v => v.offer == true) = false →
    (s.allPending a).blocks w.touch = false →
    (w.reg.rowsOk nrows (rowBytes fmt nelem) = true →
      exec (.twinOffer a areg nrows nelem fmt) s = .next ((s.issued a n).modArr a fun y =>
        { y.setAreg areg (w.reg.advance nrows) with twins := y.twins ++ [w] })) ∧
    (w.reg.rowsOk nrows (rowBytes fmt nelem) = false →
      exec (.twinOffer a areg nrows nelem fmt) s = .next ((s.issued a n).arrFault a (s.arr a).pc))) ∧
  (∀ (s : State) (a n areg nrows nelem fmt : Nat) (w : Twin), s.issues a (.twinTake areg nrows nelem fmt) n = true →
    w = (s.arr a).mkTwin false areg nrows nelem fmt → ((s.arr a).twins.any fun v => v.offer == false) = false →
    (s.allPending a).blocks w.touch = false →
    (w.reg.rowsOk nrows (rowBytes fmt nelem) = true →
      exec (.twinTake a areg nrows nelem fmt) s = .next ((s.issued a n).modArr a fun y =>
        { y.setAreg areg (w.reg.advance nrows) with twins := y.twins ++ [w] })) ∧
    (w.reg.rowsOk nrows (rowBytes fmt nelem) = false →
      exec (.twinTake a areg nrows nelem fmt) s = .next ((s.issued a n).arrFault a (s.arr a).pc))) ∧
  (∀ (s k : State) (a n areg : Nat) (clr : Bool) (r : AddrReg), s.issues a (.histWrite areg clr) n = true → (s.arr a).passes = [] →
    r = (s.arr a).areg areg → (s.allPending a).blocks { writes := r.lines 1 272 } = false →
    k = (match (s.ctxD (s.arrCtx a)).kind, s.histPlace (s.arrCtx a) (s.arr a).slot (s.arr a).stage (s.arr a).step with
      | .train, _ => s.issued a n
      | _, none => s.issued a n
      | _, some (reg, off) => (s.issued a n).histPut (s.arrCtx a) reg off (s.arr a).hist) →
    (r.rowsOk 1 272 = true → exec (.histWrite a areg clr) s = .next (k.modArr a fun y =>
      { y.setAreg areg (r.advance 1) with
        store := storePut y.store (r.byte 0) ((List.range 68).flatMap fun i => leBytes 4 (y.hist.getD i 0)),
        hist := if clr then [] else y.hist })) ∧
    (r.rowsOk 1 272 = false → exec (.histWrite a areg clr) s = .next ((s.issued a n).arrFault a (s.arr a).pc))) ∧
  (∀ (s : State) (a n stg : Nat) (clr : Bool), s.issues a (.histMerge stg clr) n = true → (s.arr a).passes = [] →
    (s.histWaits (s.arrCtx a) (s.arr a).step = true → exec (.histMerge a stg clr) s = .next (s.stalled a)) ∧
    (s.histWaits (s.arrCtx a) (s.arr a).step = false →
      ((s.ctxD (s.arrCtx a)).kind ≠ .train ∨ s.isSealed (s.arrCtx a) (s.arr a).step = true →
        exec (.histMerge a stg clr) s = .next ((s.issued a n).modArr a fun y => { y with hist := if clr then [] else y.hist })) ∧
      (∀ reg off, (s.ctxD (s.arrCtx a)).kind = .train → s.isSealed (s.arrCtx a) (s.arr a).step = false →
        s.histPlace (s.arrCtx a) (s.arr a).slot stg (s.arr a).step = some (reg, off) →
        exec (.histMerge a stg clr) s = .next (((s.issued a n).histPut (s.arrCtx a) reg off
          (histMergeLists (s.histRead (s.arrCtx a) reg off) (s.arr a).hist)).modArr a fun y =>
            { y with hist := if clr then [] else y.hist })))) ∧
  (∀ (s k : State) (a n areg bitoff bstride : Nat) (r : AddrReg), s.issues a (.bchkWrite areg bitoff bstride) n = true →
    r = (s.arr a).areg areg → ((s.arr a).passes.any fun p => !p.gram && isBlock p.drain.fmt) = false →
    (s.allPending a).blocks (bitLines r ((s.arr a).topBit bitoff bstride)) = false →
    k = (s.issued a n).modArr a (fun y =>
      { y.setAreg areg (r.advance 1) with store := bchkWriteBits y.store (r.byte 0) bitoff bstride y.lastBits }) →
    (r.rowsOk 1 ((s.arr a).topBit bitoff bstride / 8 + 1) = true →
      exec (.bchkWrite a areg bitoff bstride) s = .next ((k.flagBlocks a
        (((s.arr a).setBits bitoff bstride).map fun b => k.blockOf a (r.byte 0) b)).pulseArr a 0x10
          ((s.arr a).setBits bitoff bstride).length)) ∧
    (r.rowsOk 1 ((s.arr a).topBit bitoff bstride / 8 + 1) = false →
      exec (.bchkWrite a areg bitoff bstride) s = .next ((s.issued a n).arrFault a (s.arr a).pc))) ∧
  (∀ (s : State) (a n areg bitoff bstride : Nat) (r : AddrReg), s.issues a (.bchkLoad areg bitoff bstride) n = true →
    r = (s.arr a).areg areg → ((s.arr a).passes.any fun p => !p.gram && isBlock p.drain.fmt) = false →
    (s.allPending a).blocks { reads := (bitLines r (latchSpan bitoff bstride)).reads } = false →
    (r.rowsOk 1 (bitoff / 8 + 1) = true → exec (.bchkLoad a areg bitoff bstride) s = .next ((s.issued a n).modArr a fun y =>
      { y.setAreg areg (r.advance 1) with latch := bchkLoadBits y.store (r.byte 0) (latchSpan bitoff bstride),
                                          latchOff := bitoff, latchStride := bstride })) ∧
    (r.rowsOk 1 (bitoff / 8 + 1) = false →
      exec (.bchkLoad a areg bitoff bstride) s = .next ((s.issued a n).arrFault a (s.arr a).pc)))

/-- A PRU instruction of each operation, with fewer than four requests out and no pending access in its way, joins its
sector's queue with what it has latched, and its registers advance one row. LOOP jumps while its counter, started at COUNT −
1, is above 0, and becomes inactive after; TOKS signals in program order; TOKW waits on its token; MARK sets the array's
marker and is recorded; RNG writes the draws of its rows; SAMP with sampling armed records its sample, with its latency from
the last one, and else does nothing. PRU and RNG with rows that do not all lie in the array store fault their context. -/
def Obligations.PruAndControlInstructions : Prop :=
  (∀ (s k t : State) (a n fmt src dst m : Nat) (sync : Bool) (op : PruOp) (r : PruReq), s.issues a (.pru op fmt src dst m sync) n = true →
    r = (s.arr a).mkPru a (s.arrCtx a) op fmt src dst m → (s.arr a).pruOut < 4 → (s.allPending a).blocks r.touch = false →
    k = ({ s.issued a n with prus := tset s.prus (a / 16) (tgetD s.prus (a / 16) [] ++ [r]) } : State).modArr a (fun y =>
      { y.advanceAll 1 [src, dst] with pruOut := y.pruOut + 1, sync := sync }) →
    (r.src.rowsOk 1 (pruBytes fmt * pruIn op * m) = true ∧ r.dst.rowsOk 1 (pruBytes fmt * pruOutN op * m) = true ∧ t = k ∨
      (r.src.rowsOk 1 (pruBytes fmt * pruIn op * m) = false ∨ r.dst.rowsOk 1 (pruBytes fmt * pruOutN op * m) = false) ∧
        t = (s.issued a n).arrFault a (s.arr a).pc) →
    (op = .sqrt → exec (.pruSqrt a fmt src dst m sync) s = .next t) ∧
    (op = .recip → exec (.pruRecip a fmt src dst m sync) s = .next t) ∧
    (op = .rsqrt → exec (.pruRsqrt a fmt src dst m sync) s = .next t) ∧
    (op = .pivot → exec (.pruPivot a fmt src dst m sync) s = .next t)) ∧
  (∀ (s : State) (a n lctr count target : Nat), s.issues a (.loop lctr count target) n = true →
    exec (.loop a lctr count target) s = .next ((s.issued a n).modArr a fun y =>
      if 0 < (tget (s.arr a).loops lctr).getD (count - 1) then
        { y with loops := tset y.loops lctr ((tget (s.arr a).loops lctr).getD (count - 1) - 1), pc := target }
      else { y with loops := tdel y.loops lctr })) ∧
  (∀ (s : State) (a n tok k : Nat), s.issues a (.toks tok k) n = true →
    exec (.toks a tok k) s = .next { s.issued a n with
      signals := s.signals ++ [(s.arrCtx a, { tok := tok, n := k, array := a, ord := (s.arr a).ord })] }) ∧
  (∀ (s k : State) (a n tok m : Nat) (keep : Bool), s.issues a (.tokw tok m keep) n = true →
    k = (s.issued a n).modArr a (fun x => { x with mode := .waiting, wait := some (.token tok m keep) }) →
    exec (.tokw a tok m keep) s = .next { k with waiters := k.waiters ++ [{ array := a, tok := tok, since := s.now }] }) ∧
  (∀ (s : State) (a n : Nat) (trc : Bool) (id : Word), s.issues a (.mark trc id) n = true →
    exec (.markInstruction a trc id) s = .next (((s.issued a n).modArr a fun y => { y with marker := id }).markRecord (s.arrCtx a) a id
      trc (BitVec.ofNat 32 (s.arr a).pc))) ∧
  (∀ (s : State) (a n areg preg nrow nelem : Nat), s.issues a (.rng areg preg nrow nelem) n = true →
    (s.allPending a).blocks { writes := ((s.arr a).areg areg).lines nrow (2 * nelem) } = false →
    (((s.arr a).areg areg).rowsOk nrow (2 * nelem) = true →
      exec (.rng a areg preg nrow nelem) s = .next ((s.issued a n).modArr a fun y =>
        { (y.setAreg areg (((s.arr a).areg areg).advance nrow)).setPreg preg ((s.arr a).preg preg).advance with
          store := rngRows (s.arr a) areg preg nrow nelem })) ∧
    (((s.arr a).areg areg).rowsOk nrow (2 * nelem) = false →
      exec (.rng a areg preg nrow nelem) s = .next ((s.issued a n).arrFault a (s.arr a).pc))) ∧
  (∀ (s : State) (a n tag : Nat) (x : Arr), s.issues a (.samp tag) n = true → x = s.arr a →
    (s.sampling a = false → exec (.samp a tag) s = .next (s.issued a n)) ∧
    (s.sampling a = true → exec (.samp a tag) s =
      .next (((s.issued a n).modArr a fun y => { y with lastSamp := some s.now }).sampleRecord a tag 0 x.pc x.segment x.marker
        (match x.lastSamp with | some t => s.now - t | none => 0) (match x.stallFrom with | some t => s.now - t | none => 0))))

/-- A HALT of an array with nothing outstanding records the segment's end and empties the cells; END ends the array's part
of its stage, after which its pair looks for work, NEXT loads the segment it names, and NEXT_YIELD leaves the store
undefined and loads it. With WAITT each waits on its token first. An array of a context on hold parks the next segment
instead; and so does NEXT_YIELD where the lent pair is asked back or a late refresh waits for the pair, with the token it
would wait for, and its pair looks for work. A HALT of an array with something outstanding stalls it. -/
def Obligations.HaltEndsTheSegment : Prop :=
  (∀ (s k : State) (a n seg tok : Nat), haltReady s (s.arr a) = true →
    (s.issues a (.haltEnd false tok) n = true → k = ((s.issued a n).segmentRecord a 0).dropCells a →
      exec (.haltEnd a false tok) s = .next ((k.endPart a).boundary a)) ∧
    (s.issues a (.haltEnd true tok) n = true → k = ((s.issued a n).segmentRecord a 0).dropCells a →
      exec (.haltEnd a true tok) s = .next (k.waitOn a (.endTok tok))) ∧
    (s.issues a (.haltNext seg false tok) n = true → k = ((s.issued a n).segmentRecord a 1).dropCells a →
      exec (.haltNext a seg false tok) s =
        .next (if (k.ctxD (k.arrCtx a)).onHold then k.park a seg none else k.loadSegment a seg)) ∧
    (s.issues a (.haltNext seg true tok) n = true → k = ((s.issued a n).segmentRecord a 1).dropCells a →
      exec (.haltNext a seg true tok) s = .next (k.waitOn a (.segment tok seg false)))) ∧
  (∀ (s j k : State) (a n seg tok : Nat), haltReady s (s.arr a) = true → j = ((s.issued a n).segmentRecord a 2).dropCells a →
    k = j.undefineStore a →
    ((s.pair (a / 2)).lent = true ∧ (s.pair (a / 2)).returnAt = none ∨ (s.pair (a / 2)).lent = false ∧ j.dueRefresh (a / 2) true = none) →
    (s.issues a (.haltNextYield seg false tok) n = true → exec (.haltNextYield a seg false tok) s =
      .next (if (k.ctxD (k.arrCtx a)).onHold then k.park a seg none else k.loadSegment a seg)) ∧
    (s.issues a (.haltNextYield seg true tok) n = true →
      exec (.haltNextYield a seg true tok) s = .next (k.waitOn a (.segment tok seg true)))) ∧
  (∀ (s j : State) (a n seg tok : Nat) (waitt : Bool), haltReady s (s.arr a) = true → j = ((s.issued a n).segmentRecord a 2).dropCells a →
    ((s.pair (a / 2)).lent = true ∧ (s.pair (a / 2)).returnAt.isSome = true ∨
      (s.pair (a / 2)).lent = false ∧ (j.dueRefresh (a / 2) true).isSome = true) →
    s.issues a (.haltNextYield seg waitt tok) n = true →
    exec (.haltNextYield a seg waitt tok) s = .next ((j.park a seg (if waitt then some tok else none)).boundary a)) ∧
  (∀ (s : State) (a n seg tok : Nat) (waitt : Bool), haltReady s (s.arr a) = false →
    (s.issues a (.haltEnd waitt tok) n = true → exec (.haltEnd a waitt tok) s = .next (s.stalled a)) ∧
    (s.issues a (.haltNext seg waitt tok) n = true → exec (.haltNext a seg waitt tok) s = .next (s.stalled a)) ∧
    (s.issues a (.haltNextYield seg waitt tok) n = true → exec (.haltNextYield a seg waitt tok) s = .next (s.stalled a)))

/-! ### Steps of the arrays, their fill engines and the PRU (R19, R58, R66–R68, R73, R98, R99) -/

/-- TWIN_RENDEZVOUS serves the even array's offer to the odd one's take first, else the odd one's to the even one's;
TWIN_TIMEOUT faults the context of an array whose older offer or take has waited 16,777,216 cycles, with its address;
TOKW_TIMEOUT faults that of an array whose TOKW has waited as long. TOKEN_INCREMENT takes the first signal of the context that may be seen and adds
its count to the token; a sum above 65,535 faults the context instead. -/
def Obligations.ChannelsAndTokens : Prop :=
  (∀ (s : State) (p : Nat) (f t : _), p < 48 → (s.arr (2 * p)).offering = some f → (s.arr (2 * p + 1)).taking = some t →
    exec (.twinRendezvous p) s = .next (s.meet (2 * p) (2 * p + 1) f t)) ∧
  (∀ (s : State) (p : Nat) (f t : _), p < 48 → ((s.arr (2 * p)).offering = none ∨ (s.arr (2 * p + 1)).taking = none) →
    (s.arr (2 * p + 1)).offering = some f → (s.arr (2 * p)).taking = some t →
    exec (.twinRendezvous p) s = .next (s.meet (2 * p + 1) (2 * p) f t)) ∧
  (∀ (s : State) (a : Nat) (o : _), a < 96 → older (s.arr a).taking (s.arr a).offering = some o →
    waitLimit ≤ tgetD (s.arr a).waited o.waitKey 0 →
    exec (.twinTimeout a) s = .next ((s.rasEntry 8 1 (s.arrCtx a) a o.addr).teardown (s.arrCtx a) 1)) ∧
  (∀ (s : State) (a tok n : Nat) (keep : Bool), a < 96 → (s.arr a).wait = some (.token tok n keep) →
    waitLimit ≤ tgetD (s.arr a).waited (2 * (s.arr a).ord) 0 →
    exec (.tokwTimeout a) s = .next ((s.rasEntry 8 1 (s.arrCtx a) a ((s.arr a).pc - 1)).teardown (s.arrCtx a) 1)) ∧
  (∀ (s k : State) (c : Nat) (g : TokSignal), c < 256 → s.readySignal c = some g →
    k = { s with signals := s.signals.erase (c, g) } → s.token c g.tok + g.n ≤ 65535 →
    exec (.tokenIncrement c) s = .next (k.setToken c g.tok (s.token c g.tok + g.n))) ∧
  (∀ (s k : State) (c : Nat) (g : TokSignal), c < 256 → s.readySignal c = some g →
    k = { s with signals := s.signals.erase (c, g) } → 65535 < s.token c g.tok + g.n →
    exec (.tokenIncrement c) s = .next ((k.rasEntry 8 1 c g.array (s.arr g.array).pc).teardown c 1))

/-- LDS_COMPLETE fills the buffer of the array's load on it with the loaded columns and ends the load; PASS_COMPLETE runs
the pass at the head, once it may write its last result; PRU_REQUEST processes the request begun, or the one of highest
priority and then longest wait, and it is outstanding no longer. FILL_RUN starts the next run of a queue that has none in
progress, or waits for its wait token from then on; FILL_RUN_DONE, with every transaction of the run placed and the crossbar
granting the array, counts its traffic, moves its bytes, steps the queue and sends the signal token. -/
def Obligations.ArrayAndFillWorkEnds : Prop :=
  (∀ (s : State) (a buf : Nat) (l : Load), a < 96 → (s.arr a).loads.find? (fun l => l.buf == buf) = some l →
    exec (.ldsComplete a buf) s = .next (s.modArr a fun x =>
      { x with loads := x.loads.filter (· != l),
               bufs := tset x.bufs buf { orient := l.orient, cols := loadColumns x.store l, k := packing l.mode.fs l.mode.fm } })) ∧
  (∀ (s : State) (a : Nat) (p : Pass) (ps : List Pass), a < 96 → (s.arr a).passes = p :: ps → p.gram = true →
    exec (.passComplete a) s = .next ((s.setArr a { s.arr a with
      passes := ps,
      gramAcc := runGram (s.arr a).store { seed := (s.arr a).seed, stream := p.stream, step := (s.arr a).step } p (s.arr a).gramAcc
      }).pulseArr a 6 p.nvec)) ∧
  (∀ (s : State) (a : Nat) (p : Pass) (ps : List Pass) (b : Buffer) (o : PassOut), a < 96 → (s.arr a).passes = p :: ps →
    p.gram = false → (s.arr a).passReady p = true → b = (tget (s.arr a).bufs p.buf).getD (freeBuffer s.free p.mode) →
    o = runPass (s.arr a).store (s.arr a).hist { seed := (s.arr a).seed, stream := p.stream, step := (s.arr a).step } p b →
    ∃ t, exec (.passComplete a) s = .next t ∧ (t.arr a).passes = ps ∧ (t.arr a).store = o.store ∧ (t.arr a).hist = o.hist ∧
      (t.arr a).sticky = (s.arr a).sticky ||| o.sticky ∧ (t.arr a).gramAcc = [] ∧ s.onlyArray { t with free := s.free } a) ∧
  (∀ (s : State) (sector : Nat) (r : PruReq), sector < 6 → s.pruNext sector = some r →
    exec (.pruRequest sector) s = .next ((({ s with prus := tset s.prus sector ((tgetD s.prus sector []).erase r) }
      : State).modArr r.array fun x =>
        { x with store := (runPru (s.arr r.array).store r).1, sticky := x.sticky ||| (runPru (s.arr r.array).store r).2,
                 fxMark := x.fxMark || (runPru (s.arr r.array).store r).2 &&& stickyFxSat != 0, pruOut := x.pruOut - 1,
                 sync := x.sync && decide (1 < x.pruOut) }).pulse 0x101 sector 1 0 0)) ∧
  (∀ (s : State) (a : Nat) (inb : Bool) (i : FillItem) (is : List FillItem), a < 96 → ((s.arr a).fillQ inb).entries = i :: is →
    ((s.arr a).fillQ inb).active = false → s.arrCtx a = i.ctx →
    (i.entry.waitEn = false → exec (.fillRun a inb) s = .next (s.fillStart a inb i)) ∧
    (i.entry.waitEn = true → (s.waiters.any fun w => w.array == a && w.fill == some inb) = false →
      exec (.fillRun a inb) s =
        .next { s with waiters := s.waiters ++ [{ array := a, fill := some inb, tok := i.entry.waitTok, since := s.now }] })) ∧
  (∀ (s k m : State) (a : Nat) (inb : Bool) (i : FillItem) (is : List FillItem), a < 96 → ((s.arr a).fillQ inb).entries = i :: is →
    ((s.arr a).fillQ inb).active = true → (s.held.any fun m => m.array == a && m.inbound == inb) = false →
    (s.asking.any fun m => m.array == a && m.inbound == inb) = false → s.crossbarPick (a / 16) = some a →
    k = (({ s with granted := tset s.granted (a / 16) a } : State).fillTraffic a inb i ((s.arr a).fillQ inb).run).fillMove a i
      ((s.arr a).fillQ inb).run →
    m = ({ k with outstanding := k.outstanding.filter fun m => !(m.array == a && m.inbound == inb) } : State).modArr a
      (fun x => x.setFillQ inb ((s.arr a).fillQ inb).step) →
    exec (.fillRunDone a inb) s = .next ((if i.entry.sigEn then
      { m with signals := m.signals ++ [(i.ctx, { tok := i.entry.sigTok, n := 1, array := a, fill := true })] }
      else m).pulseArr a (if inb then 0xD else 0xE) (i.entry.rows * i.entry.rowBytes)))

/-- TRANSACTION_PLACE moves the transaction of highest priority that has a place from asking to outstanding; WEIR_PASS lets
the first transaction that waits at a weir in credit pass, and charges it; GRANARY_CHUNK works the next blocks of the work
item of highest priority, sends their memory transactions to the weirs, and ends the item when none is left; SAMPLE records
the oldest sampled instruction. -/
def Obligations.QueuesMoveOn : Prop :=
  (∀ (s : State) (m : MemReq), firstMin (fun m => s.prio m.ctx) (s.asking.filter s.hasPlace) = some m →
    exec .transactionPlace s = .next { s with asking := s.asking.erase m, outstanding := s.outstanding ++ [m] }) ∧
  (∀ (s : State) (c w : Nat) (m : MemReq), c < 256 → w < 4 → s.held.find? (fun m => m.ctx == c && m.weir == w) = some m →
    (s.weirRate c w = 0 ∨ 0 ≤ s.bucket c w) →
    exec (.weirPass c w) s = .next (({ s with held := s.held.erase m, asking := s.asking ++ [m] } : State).charge c w m.bytes)) ∧
  (∀ (s k : State) (st : Nat) (i : Item), st < 12 → s.granaryPick st = some i →
    k = ((s.chunkRequests st i (i.todo.take chunkBlocks)).foldl (fun s m => s.weirEnter m)
      (s.workUnits st i (i.todo.take chunkBlocks))).modGranary st (fun g => g.took i) →
    exec (.granaryChunk st) s = .next (if (i.todo.drop chunkBlocks).isEmpty then k.workDone i else k)) ∧
  (∀ (s : State) (a latency stall addr seg : Nat) (mk : Word) (rest : List (Nat × Nat × Word)), a < 96 →
    (s.arr a).sampled = (addr, seg, mk) :: rest →
    exec (.sample a latency stall) s = .next ((s.modArr a fun x => { x with sampled := rest }).sampleRecord a 0 1 addr seg mk latency
      stall))

/-! ### Stages, folds, statistics, refreshes (R109–R139, R154–R166, R185, R229, R231) -/

/-- The first of a run's stages, row maps, GRAM stages and rescales takes the run's pins, of the version each object it
reads has at that moment, once the run may; later ones find them taken. STAGE_START begins a ready stage: one whose GRAM
work is skipped is done at once; one that lacks only gathered working copies starts their gathers; one not ready changes
nothing. STAGE_COMPLETE of a started stage all of whose work has ended is its end. ROW_MAP keeps the selected rows up to the
view's capacity and reports rows beyond it. GRAM_STAGE in its turn lets its stage begin, gathering rows of the step unless
that is sealed; for a shared statistic it first exchanges the view's rows. -/
def Obligations.StagesPinsAndMaps : Prop :=
  (∀ (s : State) (r : Run) (b : PlanBody),
    (r.pins.isSome = true → s.ensurePinned r b = some s) ∧
    (r.pins = none → s.mayPin r b = true → s.ensurePinned r b = some (s.pinRun r b)) ∧
    (r.pins = none → s.mayPin r b = false → s.ensurePinned r b = none)) ∧
  (∀ (s t : State) (c stage : Nat) (seq : Word) (r q : Run) (pl : Plan) (d : StageDecl), s.run? c seq = some r →
    s.planOf c r.slot = some pl → pl.body.stage? stage = some d → s.ensurePinned r pl.body = some t → t.run? c seq = some q →
    (t.stageReady q pl.body d = true → t.gatherOnly q pl.body d = true → t.stageSkipped q pl.body d = false →
      exec (.stageStart c seq stage) s = .next (t.beginStage q pl d)) ∧
    (t.stageReady q pl.body d = true → t.gatherOnly q pl.body d = true → t.stageSkipped q pl.body d = true →
      exec (.stageStart c seq stage) s =
        .next ((t.modRun c seq fun q => { q with started := q.started ++ [stage] }).stageDone q pl.body d true)) ∧
    (t.stageReady q pl.body d = false → t.gatherOnly q pl.body d = true →
      exec (.stageStart c seq stage) s = .next (t.startGathers q pl.body d)) ∧
    (t.gatherOnly q pl.body d = false → exec (.stageStart c seq stage) s = .next s)) ∧
  (∀ (s : State) (c stage : Nat) (seq : Word) (r : Run) (pl : Plan) (d : StageDecl), s.run? c seq = some r →
    s.planOf c r.slot = some pl → pl.body.stage? stage = some d → r.started.contains stage = true → r.finished.contains stage = false →
    s.stageEnded r pl d = true → exec (.stageComplete c seq stage) s = .next (s.stageDone r pl.body d false)) ∧
  (∀ (s t : State) (c view : Nat) (seq : Word) (r q : Run) (pl : Plan) (v : ViewDecl) (rows : List Nat), s.run? c seq = some r →
    s.planOf c r.slot = some pl → pl.body.views.find? (fun v => v.num == view) = some v → s.ensurePinned r pl.body = some t →
    (tget r.maps view).isSome = false → t.run? c seq = some q → rows = t.selectedRows q v.obj (t.fdivOf q v.obj v.side) →
    exec (.rowMap c seq view) s = .next (
      let k := t.modRun c seq fun q => { q with maps := tset q.maps view (rows.take v.capacity) }
      if v.capacity < rows.length then
        k.devEvent 0x0103 1 [seq, BitVec.ofNat 32 v.obj, BitVec.ofNat 32 rows.length, BitVec.ofNat 32 v.capacity]
      else k)) ∧
  (∀ (s t : State) (c obj side : Nat) (seq : Word) (r q : Run) (pl : Plan), s.run? c seq = some r → s.planOf c r.slot = some pl →
    (pl.body.stages.any fun t => t.grams.contains (obj, side)) = true → r.grams.contains (obj, side) = false →
    s.ensurePinned r pl.body = some t → t.run? c seq = some q →
    (t.isSealed c q.step = true ∨ t.gramReady q (obj, side) = true) →
    (∀ u, t.gatherView q pl.body obj side = some u → exec (.gramStage c seq obj side) s = .next u) ∧
    (t.gatherView q pl.body obj side = none → exec (.gramStage c seq obj side) s = .next (
      (if t.isSealed c q.step then t else t.modStat (statKey obj side) fun x => { x with gather := some q.step }).modRun c seq
        fun q => { q with grams := q.grams ++ [(obj, side)] })))

/-- FOLD takes the first staged dW of its object, by step and then SEQ, where no fold of the object is at work: it opens the
gradient buffer for its step and gives the blocks to their granaries; one whose step is sealed is discarded with the run's
other folds. LAYER_REPLAY of a layer with a flagged block, its array stages finished, lets those stages run again, takes up
the replay's fill lists, counts the replay and writes an event; RESCALE of a slot whose rescale is due rewrites the slot's
tensors, remembers the step and adds up the tensors lowered for its record. -/
def Obligations.FoldsReplaysAndRescales : Prop :=
  (∀ (s k : State) (obj : Nat) (o : Obj) (g : Staged), tget s.objects obj = some o → o.firstStaged = some g →
    s.foldsWaiting obj = false → s.foldTest o g = .fold → k = s.modObj obj (fun x => { x with buf := .openFor g.step }) →
    (o.decl.gradBlocks ≠ 0 → exec (.fold obj) s =
      .next (k.addItems { work := .fold obj g, ctx := g.ctx, seq := g.seq } (List.range o.decl.gradBlocks) (k.objStack o))) ∧
    (o.decl.gradBlocks = 0 → exec (.fold obj) s = .next (k.foldDone obj g))) ∧
  (∀ (s : State) (obj : Nat) (o : Obj) (g : Staged), tget s.objects obj = some o → o.firstStaged = some g →
    s.foldsWaiting obj = false → s.isSealed g.ctx g.step = true → exec (.fold obj) s = .next (s.discardFolds g.ctx g.seq)) ∧
  (∀ (o : Obj) (g h : Staged), (o.staged = [g, h] ∧ stagedBefore h g = false ∨ o.staged = [h, g] ∧ stagedBefore g h = true ∨ o.staged = [g]) →
    o.firstStaged = some g) ∧
  (∀ (s j k : State) (c layer : Nat) (seq : Word) (r : Run) (pl : Plan) (nums : List Nat), s.run? c seq = some r →
    s.planOf c r.slot = some pl → (r.flaggedLayers pl.body).contains layer = true →
    nums = (pl.body.stages.filter fun t => t.layer == layer && t.kind == .array).map (·.num) →
    (nums.all fun n => r.finished.contains n) = true →
    j = ({ s with free := s.free + 1 } : State).modRun c seq (fun q =>
      { q with replayed := q.replayed ++ [layer], started := q.started.filter fun t => !nums.contains t,
               finished := q.finished.filter fun t => !nums.contains t, parts := q.parts.filter fun p => !nums.contains p.1 }) →
    k = pl.body.replays.foldl (fun s p => s.appendFills r p)
      ({ j with num := { j.num with replays := min (j.num.replays + 1) 65535 } } : State) →
    exec (.layerReplay c seq layer) s = .next (k.event (k.bothPorts c) 0x0301 0 c [seq, BitVec.ofNat 32 layer,
      BitVec.ofNat 32 ((r.flags.filter fun f => nums.contains f.1).map (·.2)).eraseDups.length, Config.freeWord 10 s.free])) ∧
  (∀ (s t : State) (c slot : Nat) (r : Run) (pl : Plan) (go : State × Nat),
    s.runs.find? (fun r => r.ctx == c && r.mb == some slot && s.rescaleDue r) = some r → s.planOf c r.slot = some pl →
    s.ensurePinned r pl.body = some t → go = t.rescaleSlot c slot →
    exec (.rescale c slot) s = .next { go.1 with num := { go.1.num with
      scaled := tset go.1.num.scaled slot r.step,
      lowered := some (r.step, (match go.1.num.lowered with | some e => if e.1 = r.step then e.2 else 0 | none => 0) + go.2) } })

/-- BLOCK_RELEASE ends the seal's processing of a block whose decay is done and writes its record; REFRESH_START moves the
snapshot at the head of an idle group's queue into its refresh, with a free result place, checks it, and the group's pairs
look for work; REFRESH_FINISH of a refresh past its last stage takes it out and settles its estimate with the array-cycles
it took, which are left open (log entry 5); one that converged leaves its result for installation, any other marks its block
failed and backs it off. -/
def Obligations.RefreshesRun : Prop :=
  (∀ (s : State) (block : Nat) (b : Block), tget s.blocks block = some b → b.busy = true → s.decayLeft block = false →
    s.curv.sealing = none → (s.ctxD (s.objCtx b.obj)).mode ≠ .tornDown →
    (∀ pl, s.firstPlan (s.objCtx b.obj) = some pl →
      exec (.blockRelease block) s = .next ((s.putWords (s.objCtx b.obj) pl.statsRegion (32 * block)
        (b.record block (s.estimateOf b))).modBlock block fun b => { b with busy := false })) ∧
    (s.firstPlan (s.objCtx b.obj) = none →
      exec (.blockRelease block) s = .next (s.modBlock block fun b => { b with busy := false }))) ∧
  (∀ (s k : State) (g n : Nat) (r q : Refresh) (rest : List Refresh), tgetD s.curv.queue g [] = r :: rest →
    s.resultSlot g = some n → tget s.curv.current g = none → q = s.preChecked { r with slot := n } →
    k = { s with curv := { s.curv with queue := tset s.curv.queue g rest, current := tset s.curv.current g q } } →
    exec (.refreshStart g) s = .next ((k.refreshPairs q).foldl (fun s p => s.takeWork p) k)) ∧
  (∀ (s k : State) (g cycles : Nat) (r : Refresh) (b : Block) (credit : Int), tget s.curv.current g = some r →
    tget s.blocks r.block = some b → r.stage = 6 → cycles = Config.freeNat 31 [s.free] →
    credit = (if r.charged then max (-((4 * s.stepBudget (s.objCtx b.obj) : Nat) : Int)) (s.curv.credit + 1024 * r.estimate - cycles)
      else s.curv.credit) →
    k = { s with free := s.free + 1, curv := { s.curv with current := tdel s.curv.current g, credit := credit } } →
    (r.code = 0 → ∃ t : State, exec (.refreshFinish g) s = .next ((((t.rootRecord r 0 r.iters (if r.iters = 0 then 0 else r.eps) r.nu.hi
        r.lam.hi (cycles / 1024)).damping (statKey b.obj b.side) r.step 0 r.iters).countRefresh r.block true)) ∧
      t = { k.modBlock r.block (fun b => { b with
        refs := r.newRefs, ordinal := b.ordinal + 1, age := k.curv.seals - r.sealCount, fails := 0, failed := false,
        refStep := r.step, estimate := some (cycles / 1024) }) with curv := { k.curv with results := k.curv.results ++
        [{ block := r.block, group := g, finishedStep := k.curv.seals, slot := r.slot, both := r.both, exp16 := r.exp16 }] } }) ∧
    (r.code ≠ 0 → exec (.refreshFinish g) s = .next ((((k.modBlock r.block fun b => { b with
        failed := true, fails := min (b.fails + 1) 255, backoff := s.rf .crvPolicy 16 8, pending := false,
        estimate := some (cycles / 1024) }).rootRecord r r.code r.iters (if r.iters = 0 then 0 else r.eps) r.nu.hi r.lam.hi
          (cycles / 1024)).damping (statKey b.obj b.side) r.step r.code r.iters).countRefresh r.block false)))

/-! ### The update's own steps and commits (R162, R169, R193, R194, R215–R221) -/

/-- PRECONDITIONING of the next object of the routing order, with no fold of it at work, no seal being processed and no
exchange of a fold or a root outstanding, preconditions its gradient; NORM_CHECK, with no norm pass left, decides on the
square root of the partials combined in increasing stack number, or on a norm already known: a finite norm within the bound
goes on to the apply (or ends a NORM), any other skips. In a group update of a member of its cut, NORM_CHECK first exchanges
the partials. -/
def Obligations.PreconditioningAndNormCheckGoOn : Prop :=
  (∀ (s : State) (g : GranStep) (obj : Nat) (o : Obj) (q : Word) (tag op : Nat) (w : Word), s.gran = some g →
    g.active = some (q, tag, op, w, .precondition) → tget s.objects obj = some o → (s.precondLeft g).head? = some obj →
    s.foldsWaiting obj = false → s.curv.sealing = none →
    ((s.group.flights ++ s.group.queue).any fun f => f.desc.opcode == 0 && (f.code == 9 || f.code == 6)) = false →
    exec (.preconditioning obj) s = .next (s.precondition o g.step).granAdvance) ∧
  (∀ (s : State) (g : GranStep) (q : Word) (tag op : Nat) (w n bound : Word), s.gran = some g →
    g.active = some (q, tag, op, w, .norm) →
    s.normsWaiting = false →
    (g.norm = some n ∨ g.norm = none ∧ (g.group = false ∨ s.inCut (s.rf .colCfg 15 4) = false) ∧
      n = f32Sqrt (combine (s.stackList.map fun k => (s.granary k).acc)).hi) →
    bound = (if w = 0 then BitVec.ofNat 32 (s.rawReg .grnNormBound 0 .steward) else w) →
    exec .normCheck s = .next (
      if f32Finite n && f32Le n bound then
        let k : State := { s with gran := some { g with norm := some n, passed := true } }
        if op = 1 then k.granEnd stDone 0 n else (k.setGranPhase .apply).applyBegin
      else s.granSkip g n bound)) ∧
  (∀ (s : State) (g : GranStep) (q : Word) (tag op : Nat) (w : Word), s.gran = some g → g.active = some (q, tag, op, w, .norm) →
    s.normsWaiting = false → g.norm = none → g.group = true → s.inCut (s.rf .colCfg 15 4) = true → s.exchanging 0 5 0 0 = false →
    exec .normCheck s = .next (s.exchange g.ctx 0 5 (BitVec.ofNat 32 g.step) 0 0 (s.rf .colCfg 15 4)
      (pairBytes (combine (s.stackList.map fun k => (s.granary k).acc)))))

/-- COMMIT_PREPARE of a commit whose members are complete forms the digests of its objects and looks at its slots; a commit
that has its votes, its slots, and whose frame has begun passes COMMIT_POINT and installs; a vote missing at the end of its
time aborts it. While the engine runs over an open link, a peer's vote to commit joins those of its transaction, and the last one missing lets a prepared transaction
go on; a vote to abort aborts it; one that comes before the transaction begins is kept. -/
def Obligations.CommitsAndVotes : Prop :=
  (∀ (s : State) (c tag : Nat) (t : Txn), s.txn? c tag = some t → t.phase = .committing → t.ready = false →
    s.membersDone t = true →
    exec (.commitPrepare c tag) s = .next ((s.setTxn { t with ready := true, formed := s.formDigests t }).rowsAdvance c tag)) ∧
  (∀ (s : State) (c tag : Nat) (t : Txn), s.txn? c tag = some t → (t.phase = .voted ∨ t.phase = .prepared ∧ t.group = false) →
    s.slotsFree t = true → (t.atFrame = false ∨ t.frame ≤ s.cad.frame.toNat) → exec (.commitPoint c tag) s = .next (s.commitNow t)) ∧
  (∀ (s : State) (c tag : Nat) (t : Txn), s.txn? c tag = some t → t.group = true → t.phase = .prepared → t.voteBy ≤ s.now →
    exec (.voteTimeout c tag) s = .next (s.abortTxn c tag dGroupVote none)) ∧
  (∀ (s j : State) (rank : Nat) (key : Word), rank ≠ s.ownRank → s.rankValid rank = true → s.collOn = true →
    s.portOpen s.peerPort = true → j = { s with group := s.group.heard rank } →
    (∀ (t n : Txn), s.txns.find? (fun t => t.isOpen && t.group && t.key == key && !t.pastVote && (s.voters t).contains rank) = some t →
      s.txn? t.ctx t.tag = some t → n = { t with votes := if t.votes.contains rank then t.votes else t.votes ++ [rank] } →
      exec (.groupVote rank key true) s = .next (
        if t.phase = .prepared ∧ (s.voters t).all n.votes.contains then
          ((j.setTxn n).setTxn { n with phase := .voted }).rowFive { n with phase := .voted }
        else j.setTxn n)) ∧
    (∀ (t : Txn), s.txns.find? (fun t => t.isOpen && t.group && t.key == key && !t.pastVote && (s.voters t).contains rank) = some t →
      (∀ u, (j.abortTxn t.ctx t.tag dGroupVote none).txn? t.ctx t.tag = some u → u.phase ≠ .prepared) →
      exec (.groupVote rank key false) s = .next (j.abortTxn t.ctx t.tag dGroupVote none)) ∧
    (∀ commit, (s.txns.any fun t => t.group && t.key == key) = false →
      exec (.groupVote rank key commit) s = .next { s with group :=
        { s.group.heard rank with votes := s.group.votes ++ [(rank, key, commit)] } }))

/-! ### Partitions, lending, swapping, weirs (R319–R329, R391–R393) -/

/-- PARTITION_CHANGE at the change point asks back the lent pairs that leave (takes them from a context torn down); with
none of them lent any more it happens. CONTEXT_BLOCKED marks a context that has met the conditions for HOLD µs as blocked.
SWAP_POLL with one runnable context restores it where it fits what is unowned and a place is free, and else, with swapping
not restricted and every resident context blocked, in the place of the victim, with its event. WEIR_WINDOW, with the loop
on, treats every weir in order, and with the loop off changes nothing. -/
def Obligations.PartitionsAndSwaps : Prop :=
  (∀ (s k : State) (c : Nat) (x : Ctx) (ch : PartChange) (rest : List PartChange) (leaving : List Nat), s.ctx? c = some x →
    x.changes = ch :: rest → s.atChangePoint c x ch = true →
    leaving = (if x.mode = .swapped then [] else x.pairs.filter fun p => !ch.pairs.contains p) →
    k = leaving.foldl (fun k p => if x.mode = .tornDown then (k.stopPair p).unlend p else k.askBack p) s →
    exec (.partitionChange c) s =
      .next (if leaving.any fun p => (k.pair p).lent then k else k.changePartition c (k.ctxD c) ch)) ∧
  (∀ (s : State) (c t : Nat) (x : Ctx), s.ctx? c = some x → s.mayBlock c x = true → x.idleSince = some t →
    t + 1050 * s.rf .ctxPolicy 8 8 ≤ s.now →
    exec (.contextBlocked c) s = .next (s.modCtx c fun x => { x with blocked := true })) ∧
  (∀ (s : State) (c : Nat), (s.ctxs.filter fun (e : Nat × Ctx) => s.runnable e.1 e.2).map (·.1) = [c] →
    s.runnable c (s.ctxD c) = true →
    (s.fitsIn (s.ctxD c) none = true → s.residents.length < 8 → exec .swapPoll s = .next ((s.swapEvent c none).swapIn c)) ∧
    (∀ v, (s.fitsIn (s.ctxD c) none = false ∨ 8 ≤ s.residents.length) → s.rf .ctxPolicy 1 1 = 0 →
      (s.residents.all fun n => (s.ctxD n).blocked && s.mayBlock n (s.ctxD n)) = true → s.victim (s.eligible (s.ctxD c)) = some v →
      exec .swapPoll s = .next (((s.swapEvent c (some v)).swapOut v).swapIn c))) ∧
  (∀ (s : State) (seen : List Interference),
    (s.rf .ctxPolicy 0 1 = 0 →
      exec (.weirWindow seen) s = .next ((List.range 1024).foldl (fun s k => s.weirLoop seen (k / 4) (k % 4)) s)) ∧
    (s.rf .ctxPolicy 0 1 = 1 → exec (.weirWindow seen) s = .next s))

/-- The happenings of a pair: a request for a lent pair whose owner has a segment ready; a borrower that holds a pair 65,536
cycles after it was asked back, which faults; a pair both of whose arrays have stood still for 32 cycles is idle; an unassigned
pair without work, or an owned one that has had none for DELAY µs, becomes fallow, and an owned fallow pair wakes for work that
is ready, a PART_SET or spring exit. -/
def Obligations.PairsAreLentIdledAndWoken : Prop :=
  (∀ (s : State) (p : Nat), p < 48 → s.segmentReady (s.pairOwner p) p = true →
    exec (.pairReturnRequest p) s = .next (s.askBack p)) ∧
  (∀ (s k : State) (p t : Nat), p < 48 → (s.pair p).lent = true → (s.pair p).returnAt = some t → t + 65536 ≤ s.now →
    k = s.ctxFault (s.pair p).running (2 * p) (s.arr (2 * p)).pc →
    exec (.borrowerOverrun p) s = .next (k.startParked (k.pairOwner p))) ∧
  (∀ (s : State) (p : Nat), p < 48 →
    ((s.arr (2 * p)).mode = .halted ∨ (s.arr (2 * p)).mode = .waiting) →
    ((s.arr (2 * p + 1)).mode = .halted ∨ (s.arr (2 * p + 1)).mode = .waiting) →
    (∃ t, (s.pair p).still = some t ∧ t + 32 ≤ s.now) →
    exec (.idle p) s =
      .next ((s.modArr (2 * p) fun x => { x with idle := true }).modArr (2 * p + 1) fun x => { x with idle := true })) ∧
  (∀ (s k : State) (p : Nat), p < 48 → (s.pair p).fallow = false → (s.pair p).lent = false →
    (s.prus.any fun e => e.2.any fun r => r.array / 2 == p) = false → s.pairWorkless p = true → s.power.state = 1 →
    (s.pairOwner p = 0 ∨ s.fallowAuto = true ∧ s.prio (s.pairOwner p) ≠ 0 ∧
      ∃ t, (s.pair p).noWork = some t ∧ t + 1050 * s.rf .pwrFallowCfg 1 16 ≤ s.now) →
    k = (((s.stopPair p).modArr (2 * p) fun a => { a with mode := .fallow }).modArr (2 * p + 1)
      fun a => { a with mode := .fallow }).modPair p (fun x => { x with fallow := true, wake := false, noWork := none }) →
    exec (.fallowEntry p) s = .next (if k.fallowAuto then
      k.devEvent 0x0500 1 [BitVec.ofNat 32 (p + 256), BitVec.ofNat 32 (s.pairOwner p),
        BitVec.ofNat 32 ((s.pair p).idleFor k.now)] else k)) ∧
  (∀ (s k : State) (p o : Nat), p < 48 → (s.pair p).fallow = true → o = s.pairOwner p → o ≠ 0 →
    ((s.pair p).wake = true ∨ s.workReady p = true) → (s.power.state ≠ 2 ∨ p < 8) →
    k = ((s.modPair p fun x => { x with fallow := false, wake := false }).modArr (2 * p) fun x => { x with mode := .halted }).modArr (2 * p + 1)
      (fun x => { x with mode := .halted }) →
    exec (.fallowWake p) s = .next ((if k.fallowAuto then
      k.devEvent 0x0500 1 [BitVec.ofNat 32 (p + 512), BitVec.ofNat 32 o] else k).startParked o))

/-! ### The solver's own steps (R238, R252–R258) -/

/-- BATCH_RELEASE releases a batch whose frame has begun, after the commits due, and whose earlier overlapping batches are
done; PROBLEM_START puts the next problem of a context on the one of its idle pairs that was free first; SOLVER_FRAGMENT
ends one fragment, the phase at its last, which leaves the arrays' FX_SAT where one saturated and the plan's solver state
region open (log entry 100), ends a problem that has come to an outcome, and hands back a pair asked back; DEADLINE marks a
batch whose deadline has passed, and ends its problems that are on no pair. -/
def Obligations.BatchesRunTheirProblems : Prop :=
  (∀ (s : State) (c : Nat) (seq : Word) (b e : Batch), s.batchOf c seq = some b → s.batchReady b = true →
    e = { b with released := true, expired := b.expired || s.deadlinePast b } →
    exec (.batchRelease c seq) s =
      .next (b.left.foldl (fun k n => k.releaseProblem e (s.deadlinePast b) n) (s.setBatch e))) ∧
  (∀ (s : State) (c pair : Nat) (b : Batch) (n : Nat) (p : Problem) (r : SlvRun), pair < 48 → s.pairForProblem c pair = true →
    s.firstFree c pair = true → (s.ctxD c).mode = .resident → (s.ctxD c).suspended = false → (s.ctxD c).onHold = false →
    s.nextProblem c = some (b, n) → s.problem? c n = some p →
    r = (if (p.run.getD {}).phase = .unstarted then
      { p.run.getD {} with phase := p.firstPhase, left := p.fragments p.firstPhase } else p.run.getD {}) →
    exec (.problemStart c pair) s =
      .next ((s.setProblem c n { p with run := some r }).modPair pair fun x => { x with problem := some (c, n) })) ∧
  (∀ (s j k t : State) (c n pair : Nat) (p e : Problem) (b : Batch) (r q : SlvRun), s.problemPair c n = some pair →
    s.problem? c n = some p → s.batches.find? (fun b => b.ctx == c && b.released && b.left.contains n) = some b →
    p.run = some r → q = p.fragmentEnd r s.free → e = { p with run := some q } → j = { s with free := s.free + 1 } →
    k = ((if q.marked && !r.marked then j.solverSat pair s.free else j).setProblem c n e).solverHeld c p.plan s.free →
    (e.outcome q (b.expired || k.deadlinePast b) = none ∧ t = k ∨
      ∃ o, e.outcome q (b.expired || k.deadlinePast b) = some o ∧ t = k.endProblem b n o) →
    exec (.solverFragment c n) s = .next (if (t.pair pair).lent && (t.pair pair).returnAt.isSome then t.giveBack pair
      else if (t.ctxD c).onHold then t.modPair pair fun x => { x with problem := none } else t)) ∧
  (∀ (s : State) (c : Nat) (seq : Word) (b : Batch), s.batchOf c seq = some b → s.deadlinePast b = true →
    (b.released = false → exec (.deadline c seq) s = .next (s.setBatch { b with expired := true })) ∧
    (b.released = true → (∀ n ∈ b.left, (s.problemPair c n).isSome = true) →
      exec (.deadline c seq) s = .next (s.setBatch { b with expired := true })) ∧
    (∀ n p r o, b.released = true → b.left.filter (fun n => (s.problemPair c n).isNone) = [n] → s.problem? c n = some p →
      p.run = some r → p.outcome r true = some o →
      exec (.deadline c seq) s = .next ((s.setBatch { b with expired := true }).endProblem { b with expired := true } n o)))

/-! ### Ports: links, polls, rings (R289, R292, R296, R297, R299, R423) -/

/-- LINK_DOWN takes the port's link down; LINK_UP of a port that can train, with a rate and width of PCIe, sets it up, and
any other changes nothing; LINK_UP and IDE_LINK_STREAM let the host writes go that wait. A poll of entry 256 reads EVT_HEAD,
and one of a bound context of the port reads CQ_HEAD and SQ_TAIL; of a port that does not poll, or an entry of no bound
context of it, it changes nothing. POLL_INTERVAL_ADJUST, in AUTO after 1,024 polls, halves the interval when more than half
of them moved, doubles it when fewer than 16 did, within the bounds, and records a change; ACTIVE_EXPIRY ends a context's
activity; EVENT_QUEUE_DRAIN writes the events that wait. -/
def Obligations.PortsAndPolls : Prop :=
  (∀ (s : State) (p : Port), exec (.linkDown p) s = .next (s.modPort p fun x => { x with linkUp := false })) ∧
  (∀ (s : State) (p : Port) (speed width : Nat),
    (s.canTrain p = true → 1 ≤ speed → speed ≤ 6 → width ∈ [1, 2, 4, 8, 16] → exec (.linkUp p speed width) s =
      .next ((s.modPort p fun x => { x with linkUp := true, speed := speed, width := width }).flushWait p)) ∧
    ((s.canTrain p = false ∨ speed = 0 ∨ 6 < speed ∨ width ∉ [1, 2, 4, 8, 16]) → exec (.linkUp p speed width) s = .next s)) ∧
  (∀ (s : State) (p : Port) (up : Bool),
    exec (.ideLinkStream p up) s = .next ((s.modPort p fun x => { x with ide := up }).flushWait p)) ∧
  (∀ (s : State) (p : Port) (n : Nat), n ≤ 256 →
    (s.polling p = true → n = 256 → exec (.doorbellPoll p n) s = .next (s.pollEvents p)) ∧
    ((s.polling p = false ∨ n ≠ 256 ∧ (s.ctxOnPort n p = false ∨ (s.ctxD n).ring.bound = false)) →
      exec (.doorbellPoll p n) s = .next s)) ∧
  (∀ (s k : State) (p : Port) (c a : Nat), c < 256 → s.polling p = true → s.ctxOnPort c p = true → (s.ctxD c).ring.bound = true →
    s.doorbellAddr p c = some a → k = s.pulse 0x244 0 1 c 0 →
    exec (.doorbellPoll p c) s =
      .next ((k.takeHead p c (leNat (k.hostRead p (a + 4) 4))).takeTail p c (leNat (k.hostRead p a 4)))) ∧
  (∀ (s : State) (p : Port), exec (.eventQueueDrain p) s = .next (s.evtDrain p 65)) ∧
  (∀ (s k : State) (c v : Nat) (x : Ctx), s.ctx? c = some x → s.rf .hifPollCfg 0 1 = 0 → 1024 ≤ x.polls →
    v = (if 512 < x.moved then max (min (64 * s.rf .hifPollCfg 11 10) x.interval) (x.interval / 2)
         else if x.moved < 16 then min (max (64 * s.rf .hifPollCfg 21 10) x.interval) (2 * x.interval) else x.interval) →
    k = s.modCtx c (fun x => { x with polls := 0, moved := 0, interval := v }) →
    exec (.pollIntervalAdjust c) s = .next (if v = x.interval then k
      else k.devEvent 0x0004 1 [BitVec.ofNat 32 c, BitVec.ofNat 32 (10 * x.interval / 64), BitVec.ofNat 32 (10 * v / 64)])) ∧
  (∀ (s : State) (c : Nat) (x : Ctx), s.ctx? c = some x → x.opens = [] → x.held = [] → x.activeUntil ≤ s.now →
    exec (.activeExpiry c) s = .next (s.modCtx c fun x => { x with active := false }))

/-! ### Cadence (R352–R361) -/

/-- An edge of CADENCE_IN goes to the state of the unit: acquiring, locked, holdover, a RESYNC anchor that waits for it, or,
too early or with the internal source, it is stray. HOLDOVER_BOUNDARY of a locked unit without an edge enters holdover, and
in holdover makes the grid's next boundary; INTERNAL_BOUNDARY makes one every NOMINAL of the internal source, the first also
where an acquiring unit sees no edge to switch at (log entry 39); PPS edges are timed, and PPS_OK ends 1.5 s after the last;
WAIT_FRAME_REACHED completes a WAIT FRAME of a resident context whose moment has come, once the commits and releases of the
frame are done. -/
def Obligations.EdgesAndBoundaries : Prop :=
  (∀ (s : State) (e t : Nat), s.cad.running = true → t = 8 * s.now + e % 8 →
    (s.anchorArmed = true → s.rf .cadAnchor 50 1 = 1 → s.cad.source = false → s.cad.boundary + oneMs ≤ t →
      exec (.cadenceIn e) s = .next (s.resyncEdge t)) ∧
    ((s.anchorArmed = false ∨ s.rf .cadAnchor 50 1 = 0 ∨ s.cad.source = true ∨ t < s.cad.boundary + oneMs) →
      (s.cad.mode = .holdover → exec (.cadenceIn e) s = .next (s.holdoverEdge t)) ∧
      (s.cad.mode ≠ .holdover → (t < s.cad.boundary + oneMs ∨ s.cad.source = true) → exec (.cadenceIn e) s = .next (s.strayEdge t)) ∧
      (s.cad.boundary + oneMs ≤ t → s.cad.source = false →
        (s.cad.mode = .acquiring → exec (.cadenceIn e) s = .next (s.acquireEdge t)) ∧
        (s.cad.mode = .locked → exec (.cadenceIn e) s = .next (s.lockedEdge t))))) ∧
  (∀ (s : State) (l : Nat), s.cad.running = true → s.cad.source = false → s.cad.lastEdge = some l → s.cad.mode = .locked →
    l + 8 * (s.cad.period + s.cadWindow) ≤ 8 * s.now + 7 → exec .holdoverBoundary s = .next (s.enterHoldover l)) ∧
  (∀ (s : State) (l : Nat), s.cad.running = true → s.cad.source = false → s.cad.lastEdge = some l → s.cad.mode = .holdover →
    l + 8 * s.cad.period * s.cad.hold ≤ 8 * s.now + 7 → exec .holdoverBoundary s = .next (s.holdoverNext l)) ∧
  (∀ (s : State), s.cad.running = true → s.cad.source = true → s.cad.boundary + 8 * s.nominal ≤ 8 * s.now + 7 →
    exec .internalBoundary s =
      .next ((s.setCad fun c => { c with period := s.nominal }).frameBoundary (s.cad.boundary + 8 * s.nominal) false)) ∧
  (∀ (s : State), s.cad.running = true → s.cad.source = false → s.rf .cadCfg 0 1 = 1 → s.cad.mode = .acquiring →
    s.cad.boundary + 8 * s.nominal ≤ 8 * s.now + 7 →
    exec .internalBoundary s = .next (s.frameBoundary (s.cad.boundary + 8 * s.nominal) false)) ∧
  (∀ (s : State), s.cad.running = true → s.cad.ppsEdge = none →
    exec .ppsIn s = .next { s with cad := { s.cad with ppsEdge := some s.now, ppsSeen := true } }) ∧
  (∀ (s : State) (u : Nat), s.cad.running = true → s.cad.ppsEdge = some u →
    exec .ppsIn s = .next { s with cad := { s.cad with
      ppsCycles := min (s.now - u) (2 ^ 32 - 1), ppsOk := within (s.now - u) 1050000000 1050000, ppsEdge := some s.now,
      ppsSeen := true } }) ∧
  (∀ (s : State) (u : Nat), s.cad.ppsEdge = some u → u + 1575000000 ≤ s.now →
    exec .ppsTimeout s = .next { s with cad := { s.cad with ppsOk := false } }) ∧
  (∀ (s : State) (c : Nat) (o : Open) (f p : Nat), (s.ctxD c).mode = .resident → (s.ctxD c).opens = [o] → o.wait = .frame f p →
    exec (.waitFrameReached c) s = .next (if waitStamp o.desc ≤ s.stamp ∧ s.frameWork = false then
      s.finish c o.desc stDone 0 (BitVec.ofNat 32 (min ((s.stamp - waitStamp o.desc) / 65536) 0xFFFFFFFF)) else s))

/-- An accepted edge of a locked unit is the frame's boundary: the frame number grows by one unless an anchor applies, the
period moves by an eighth of its difference from the interval, and the edge's error is kept. -/
def Obligations.LockedEdgeMovesThePeriod : Prop :=
  ∀ (s : State) (t l : Nat), s.cad.lastEdge = some l → l + 8 * s.cad.period ≤ t + 8 * s.cadWindow →
    t / 8 ≤ (l + 8 * s.cad.period + 8 * s.cadWindow) / 8 → s.anchorApplies false = false → s.cad.source = (s.rf .cadCfg 0 1 == 1) →
    (s.lockedEdge t).cad.period = ((s.cad.period : Int) + (((t - l) / 8 : Nat) - (s.cad.period : Int)) / 8).toNat ∧
    (s.lockedEdge t).cad.frame = s.cad.frame + 1 ∧ (s.lockedEdge t).cad.boundary = t ∧
    (s.lockedEdge t).cad.lastEdge = some t ∧
    (s.lockedEdge t).cad.jitterLast = min 32767 (max (-32768) ((t : Int) - (l + 8 * s.cad.period : Nat)))

/-! ### Debug and counters (R364–R370, R374, R379) -/

/-- WATCH_READ makes a read that a finished stage of the run owes, once; SLUICE_TRIGGER meets its condition on its port; SLUICE_FREEZE after
a trigger writes the records that wait and stops; BW_WINDOW at the end of a window latches its results together and begins
the next, and before it changes nothing; COUNTER_OVERFLOW of a running counter adds the value that passes 2⁴⁸ − 1. -/
def Obligations.DebugUnitsRecord : Prop :=
  (∀ (s : State) (c point : Nat) (seq : Word) (r : Run) (w : Watch), s.run? c seq = some r →
    r.owed.find? (fun e => e.1 == point) = some (point, w) →
    exec (.watchRead c seq point) s =
      .next ((s.watchRead c r point w).modRun c seq fun q => { q with owed := q.owed.erase (point, w) })) ∧
  (∀ (s : State) (p : Port) (cond : Nat), 1 ≤ cond → cond ≤ 5 → ¬(cond = 5 ∧ p = .tenant) →
    exec (.sluiceTrigger p cond) s = .next (s.trigger p cond)) ∧
  (∀ (s t : State) (p : Port), t = s.sluiceDrain p 257 → (s.portSt p).triggered = true → (t.portSt p).frozen = true →
    exec (.sluiceFreeze p) s = .next t) ∧
  (∀ (s : State), s.rf .pmcBwCfg 0 1 = 1 →
    (s.bwSince + 1050 * s.bwLength ≤ s.now → exec .bwWindow s = .next { s with
      bwLatched := (List.range 20).map (fun (n : Nat) => (n, s.bwResult n)), bwSeq := (s.bwSeq + 1) % 2 ^ 32, free := s.free + 1,
      bwSince := s.now, bwLength := s.rf .pmcBwCfg 1 16 }) ∧
    (s.now < s.bwSince + 1050 * s.bwLength → exec .bwWindow s = .next s)) ∧
  (∀ (s : State) (bank unit idx value : Nat) (b : CtrBank), ctrBank bank = some b → unit < b.units → idx < b.per →
    s.ctrRuns bank b unit idx = true → s.ctrChained b unit idx = false →
    2 ^ 48 ≤ s.rawReg b.ctr (b.per * unit + idx) .steward + value →
    exec (.counterOverflow bank unit idx value) s = .next (s.ctrAdd bank b unit idx value))

/-! ### The HBM system and errors (R276–R284, R401–R405) -/

/-- A temperature that leaves a stack in its refresh row is kept; one that crosses the self-refresh threshold of a stack
past training puts it into self-refresh and settles the contexts, each of which is then held exactly if it is in a hot
stack; a minute of the refresh loop with more than 16 corrections raises the offset; a 1500 write changes nothing of the
device, a read with the grant returns an open value, and one without it zero. -/
def Obligations.StacksFollowTheirSensors : Prop :=
  (∀ (s : State) (st temp r : Nat), st < 12 → s.populated st = true → (s.site st).hot = false →
    r = s.refreshRow st (s.site st).rate temp → r < 3 →
    exec (.stackTemperature st temp) s = .next (s.modSite st fun x => { x with temp := temp, rate := r, hot := false })) ∧
  (∀ (s k : State) (st temp : Nat), st < 12 → s.populated st = true → (s.site st).hot = false → 5 ≤ s.boot.stage →
    s.refreshRow st (s.site st).rate temp = 3 →
    k = s.modSite st (fun x => { x with temp := temp, hot := true, selfRefresh := x.present }) →
    exec (.stackTemperature st temp) s =
      .next (({ k with free := s.free + 1 } : State).thermalSettle.devEvent 0x0401 0 (openPayload s.free)) ∧
    (k.site st).selfRefresh = true) ∧
  (∀ (s : State), (s.ctxs.any fun e => e.2.thermalHold) = false → s.thermalSettle = s.thermalMark ∧
    ∀ c x, s.ctx? c = some x →
      (s.thermalSettle.ctxD c).thermalHold = (List.range 12).any fun st => (s.site st).hot && s.inStack c x st) ∧
  (∀ (s : State) (st : Nat), st < 12 → s.rf .memRefreshPolicy 0 1 = 0 → 16 < (s.site st).minute →
    (s.site st).offset < s.rf .memRefreshPolicy 25 2 →
    ∃ t, exec (.refreshOffsetAdjust st) s = .next t ∧ (t.site st).offset = (s.site st).offset + 1 ∧ (t.site st).minute = 0 ∧
      s.onlySettings t [.dbgTrig] ∧ ∀ n, n ≠ st → t.site n = s.site n) ∧
  (∀ (s : State) (st reg data : Nat), st < 12 → exec (.ieee1500Access st (.write reg data)) s = .next s) ∧
  (∀ (s : State) (st reg : Nat), st < 12 → exec (.ieee1500Access st (.read reg)) s =
    .next { s with jtag := if s.granted1500 st then Config.freeNat 34 [st, reg, s.free] else 0, free := s.free + 1 })

/-- Corrected words are counted up to their registers' widths, one of a stack's data on a path at the stack too; an
uncorrectable word of a device at work makes its response; enough rebuilt global errors in their window call for spring
mode, in ON as in SPRING. -/
def Obligations.ErrorsAreCountedAndAnswered : Prop :=
  (∀ (s : State), exec (.correction .sram) s =
    .next (({ s with ras := { s.ras with sram := min (s.ras.sram + 1) (2 ^ 24 - 1) } } : State).pulse 0x249 0 1 0 0)) ∧
  (∀ (s k : State), k = ({ s with ras := { s.ras with path := min (s.ras.path + 1) 255 } } : State).pulse 0x249 0 1 0 0 →
    exec (.correction (.path none)) s = .next k ∧
    ∀ n, n < 12 → exec (.correction (.path (some n))) s = exec (.correction (.stack n)) k) ∧
  (∀ (s : State) (n : Nat), n < 12 → exec (.correction (.stack n)) s = .next (s.modSite n fun x =>
    { x with corrected := min (x.corrected + 1) (2 ^ 24 - 1), minute := x.minute + 1 })) ∧
  (∀ (s : State) (place : ErrorPlace), placeExists place = true → s.isReady = true → s.power.state ≠ 3 →
    exec (.uncorrectableError place) s = .next (s.ueRespond place)) ∧
  (∀ (s : State) (window : Nat), s.rf .rasGlobalCfg 0 1 = 0 → window = s.rf .rasGlobalCfg 8 8 * 3600 * secondCycles →
    s.rf .rasGlobalCfg 1 7 ≤ (s.ras.rebuilt.filter fun t => decide (s.now ≤ t + window)).length →
    (s.power.state = 1 ∨ s.power.state = 2) →
    exec .rasGlobalWindow s = .next (({ s with ras := { s.ras with rebuilt := [] } } : State).springCause 2 true 7 unitMgmt 0))

/-- BAR2 reads answer byte by byte: what HBM holds at the window's place where the port may reach a page that exists. A read
of a channel mapped out at run time is a Completer Abort that returns nothing and is logged; every other clears what an
earlier one left. BAR2 writes of bytes the port may reach put them there. -/
def Obligations.Bar2ReachesItsPages : Prop :=
  (∀ (s : State) (p : Port) (a n : Nat), s.barOpen p = true → s.power.state ≠ 3 → s.bar2Lost p a n = none →
    ∃ t, exec (.bar2Read p a n) s = .next t ∧
      (t.portSt p).readData = (List.range n).map (fun i => ({ s with free := s.free + 1 } : State).bar2Byte p s.free (a + i)) ∧
      (t.portSt p).completerAbort = false ∧ s.onlySettings { t with free := s.free } []) ∧
  (∀ (s : State) (p : Port) (a n st pg : Nat), s.barOpen p = true → s.power.state ≠ 3 → s.bar2Lost p a n = some (st, pg) →
    exec (.bar2Read p a n) s = .next (s.bar2Abort p st pg) ∧
      ((s.bar2Abort p st pg).portSt p).completerAbort = true ∧ ((s.bar2Abort p st pg).portSt p).readData = []) ∧
  (∀ (s : State) (p : Port) (f a st pg off : Nat), s.isReady = true → s.bar2Place p a = (st, pg, off) →
    s.pageExists st pg = true → s.bar2Permits p st pg = true → (s.site st).selfRefresh = false →
    s.bar2Byte p f a = memRead s.hbm (hbmAddr st pg off)) ∧
  (∀ (s : State) (p : Port) (a st pg off : Nat) (b : Byte), s.barOpen p = true → s.power.state ≠ 3 → s.isReady = true →
    s.bar2Place p a = (st, pg, off) → s.pageExists st pg = true → s.bar2Permits p st pg = true →
    exec (.bar2Write p a [b]) s = .next (s.hbmPut (hbmAddr st pg off) [b]))

/-! ### Power, heat, rails (R394–R398, R407, R410, R435, R436) -/

/-- A reading at 100 °C or above, or of more power than the limit, raises GATE by one up to 30; one at 98 °C or below within
95 % of the limit lowers it; between them it stands. The reading is kept. While GATE is above 0, before or after, VCORE does
not rise. -/
def Obligations.ThrottlingMovesTheGate : Prop :=
  ∀ (s : State) (j w : Nat), ∃ t, exec (.thermalPowerLoop j w) s = .next t ∧ t.power.junction = j ∧ t.power.watts = w ∧
    t.power.gate = (if 100 ≤ j ∨ s.rf .pwrLimit 0 11 < w then min (s.power.gate + 1) 30
      else if j ≤ 98 ∧ 100 * w ≤ 95 * s.rf .pwrLimit 0 11 then s.power.gate - 1 else s.power.gate) ∧
    (s.power.gate ≠ 0 ∨ t.power.gate ≠ 0 → t.power.vcore ≤ s.power.vcore) ∧
    s.onlySettings { t with power := s.power, free := s.free } [.dbgTrig]

/-- A thermal emergency, 10 ms at 105 °C or above with GATE 30, takes a device that is ON into spring mode with its cause set and
not cleared. THERMAL_CLEAR, after 1 s at 95 °C or below, clears the thermal cause; THERMTRIP sets the latch and stops start-up with ERR 5; a fault of sector 0's VCORE halts, one of VCORE
in ON or of VSRAM in ON or SPRING is a rail cause of spring mode; PMB_ALERT_N makes the response of each fault found, in
turn; a rail cause whose rails are all well again is cleared. -/
def Obligations.HeatAndRails : Prop :=
  (∀ (s : State) (u : Nat), s.power.hotSince = some u → u + 10500000 ≤ s.now → s.power.state = 1 →
    ∃ t, exec .thermalEmergency s = .next t ∧ t.power.state = 2 ∧ t.power.spring = 2 ∧ t.power.cause.getLsbD 0 = true ∧
      t.power.cleared.getLsbD 0 = false ∧ t.cad = s.cad ∧ t.boot = s.boot ∧ t.pwrok = s.pwrok) ∧
  (∀ (s : State) (u : Nat), s.power.coolSince = some u → u + 1050000000 ≤ s.now → s.power.cause.getLsbD 0 = true →
    exec .thermalClear s = .next { s with power := { s.power with cleared := s.power.cleared ||| 1 } }) ∧
  (∀ (s k : State), s.pwrok = true → k = s.stopAll.releasePins.bootLog →
    exec .thermtrip s = .next { k with power := { k.power with thermtrip := true }, boot := { k.boot with stage := 15, err := 5 } }) ∧
  (∀ (s : State) (st : RailStatus), s.pwrok = true → s.power.state ≠ 3 →
    exec (.railFault .vcoreS0 st) s = .next (s.halt 5 unitMgmt 0)) ∧
  (∀ (s : State) (st : RailStatus), s.power.vcoreOff = false → s.power.state = 1 →
    exec (.railFault .vcore st) s =
      .next (({ s with power := { s.power with vcoreFault := true } } : State).springCause 1 false 5 unitMgmt 0)) ∧
  (∀ (s : State) (st : RailStatus), (s.power.state = 1 ∨ s.power.state = 2) →
    exec (.railFault .vsram st) s =
      .next (({ s with power := { s.power with vsramFault := true } } : State).springCause 1 false 5 unitMgmt 0)) ∧
  (∀ (s : State) (found : List (Rail × RailStatus)),
    exec (.pmbAlertN found) s = .next (found.foldl (fun s e => s.railStatus e.1 e.2) s)) ∧
  (∀ (s : State), s.power.cause.getLsbD 1 = true → s.power.vsramFault = false →
    exec (.railClear .vcore) s =
      .next { s with power := { s.power with vcoreFault := false, cleared := s.power.cleared ||| 2 } })

/-! ### Resets and start-up (R383–R390, R414, R415) -/

/-- PWROK_RISE latches the straps and leaves every field of the device at its cold value but the pins that are released;
with PWROK high, PWROK_FALL is a cold reset; a warm reset of a device past its first READY, by either pin, leaves what
State.warm keeps; the release begins start-up at stage 0. A port reset past READY takes the tenant port's link and IDE
stream down and is State.portDown of that; its release out of spring mode trains the link again and gives a READY that
waited since start-up. -/
def Obligations.ResetsOfTheDeviceAndOfAPort : Prop :=
  (∀ (s : State) (tm : Bool), s.pwrok = false →
    exec (.pwrokRise s.portaRole tm) s = .next { s.cold with
      pwrok := true, rstHigh := true, portaRole := s.portaRole, testMode := tm, steward := { perstHigh := true },
      tenant := { perstHigh := true } }) ∧
  (∀ (s : State) (role tm : Bool), s.pwrok = false → role ≠ s.portaRole →
    exec (.pwrokRise role tm) s = .next { s.cold with
      pwrok := true, rstHigh := true, portaRole := role, testMode := tm, hostA := s.hostB, hostB := s.hostA,
      steward := { perstHigh := true }, tenant := { perstHigh := true } }) ∧
  (∀ (s : State), exec .pwrokFall s =
    .next { State.reset with pending := s.pending, hostA := s.hostA, hostB := s.hostB, portaRole := s.portaRole, free := s.free }) ∧
  (∀ (s : State), s.pwrok = true → s.running = true → s.boot.stage ≠ 15 → s.boot.everReady = true →
    exec (.warmReset true) s = .next ({ s with rstHigh := false } : State).warm ∧
    exec (.warmReset false) s = .next (s.modPort .steward fun x => { x with perstHigh := false }).warm) ∧
  (∀ (s : State), s.pwrok = true → s.running = false →
    exec .warmResetRelease s =
      .next (({ s with rstHigh := true, now := 0 } : State).modPort .steward fun x => { x with perstHigh := true }) ∧
    (({ s with rstHigh := true, now := 0 } : State).modPort .steward fun x => { x with perstHigh := true }).running = true) ∧
  (∀ (s k : State), s.running = true → s.isReady = true → s.power.state ≠ 3 → s.tenant.perstHigh = true →
    k = s.modPort .tenant (fun x => { x with perstHigh := false, linkUp := false, ide := false }) →
    exec .portReset s = .next k.portDown) ∧
  (∀ (s k : State), s.running = true → s.tenant.perstHigh = false → s.boot.stage ≠ 0 → s.boot.stage ≠ 15 → s.power.state ≠ 2 →
    k = (s.modPort .tenant fun x => { x with perstHigh := true }).trainLink .tenant →
    k.tenant.linkUp = true ∧ ((k.tenant.readyDue = none ∨ k.tenant.readyDue = some 2) → exec .portResetRelease s = .next k) ∧
    ∀ n, n ≠ 2 → k.tenant.readyDue = some n → exec .portResetRelease s = .next (k.giveReady .tenant n))

/-- The stages of start-up in their order: ROM, verification, training with every site answering, identity, INIT. An image that
fails its first check goes back to LOAD_WAIT with ERR 2, one whose signature fails with ERR 1; a failing identity stops
with ERR 4 and a RAS_LOG entry (log entry 52). Whether a signature and an identity are good is left open (log entry 9). -/
def Obligations.StartUpGoesThroughItsStages : Prop :=
  (∀ (s : State), s.running = true → s.boot.stage = 0 →
    ∃ t, exec .rom s = .next t ∧ t.boot = { s.boot with stage := 1 } ∧ t.steward.linkUp = true ∧ t.hbm = s.hbm ∧
      t.regs = s.regs ∧ t.ctxs = s.ctxs ∧ t.sites = s.sites) ∧
  (∀ (s : State), s.running = true → s.boot.stage = 2 → s.imageOk = false →
    exec .verifying s = .next { s with boot := { s.boot with stage := 1, err := 2 } }) ∧
  (∀ (s : State), s.running = true → s.boot.stage = 2 → s.imageOk = true →
    exec .verifying s = .next (
      if Config.signatureOk (memBytes s.boot.window 0 s.fwSize) then { s with boot := { s.boot with
        stage := if s.boot.warm then 4 else 3, measurement := sha3 (memBytes s.boot.window 0 (s.fwSize - 3328)),
        version := BitVec.ofNat 32 (s.imageWord 12), svn := BitVec.ofNat 32 (s.imageWord 16) } }
      else { s with boot := { s.boot with stage := 1, err := 1 } })) ∧
  (∀ (s : State) (answering : BitVec 12), s.running = true → s.boot.stage = 4 → s.boot.warm = false →
    (answering = 0xFFF ∨ answering = 0x555) → s.regs = [] → s.sites = [] →
    ∃ t, exec (.training answering [] []) s = .next t ∧ t.boot = { s.boot with stage := 5, variant := some (answering == 0x555) } ∧
      t.hbm = s.hbm ∧ t.regs = [] ∧ t.ctxs = s.ctxs ∧ ∀ k, k < 12 → (t.site k).trained = answering.getLsbD k) ∧
  (∀ (s : State), s.running = true → s.boot.stage = 5 →
    exec .identity s = .next (
      if Config.identityOk s.free then { s with free := s.free + 1, boot := { s.boot with stage := 6, identity := true } }
      else (({ s with free := s.free + 1 } : State).bootLog.bootStop 4))) ∧
  (∀ (s : State), s.running = true → s.boot.stage = 6 → s.power.vcoreFault = false → s.power.vsramFault = false →
    ∃ t, exec .init s = .next t ∧ t.isReady = true ∧ t.power.state = 1 ∧ t.boot.window = [] ∧
      ∃ x, t.ctx? 0 = some x ∧ x.kind = .management ∧ x.port = .steward ∧ (∀ c, c ≠ 0 → t.ctx? c = s.ctx? c) ∧ t.objects = s.objects ∧
        t.txns = s.txns ∧ t.problems = s.problems)

/-! ### Registers (R356, R379, R381, R382, R390, R412, R414, R443–R451) -/

/-- What the register commands do once their write is served: the field, start or clearing each is for. The device is past
READY and not halted, its port answers, and no low word is held. Beside the registers named, each leaves all but the units'
own settings as it was. -/
def Obligations.RegisterCommandsTakeEffect : Prop :=
  ∀ (s : State), s.serves .steward = true →
    (∀ (b : BitVec 3), ∃ t, exec (.pmcFreeze .steward b) s = .next t ∧ t.rf .pmcCtl 0 3 = b.toNat ∧ s.onlySettings t [.pmcCtl]) ∧
    (∀ (b : BitVec 3), ∃ t, exec (.pmcClear .steward b) s = .next t ∧ t.rf .pmcCtl 0 3 = s.rf .pmcCtl 0 3 ∧
      s.onlySettings t [.pmcCtl, .pmcCtrArray, .pmcCtrSector, .pmcCtrGlobal] ∧
      ∀ bank k, ∀ q : CtrBank, ctrBank bank = some q → b.getLsbD bank = true → t.rawReg q.ctr k .steward = 0) ∧
    (∃ t, exec (.rasLogClear .steward) s = .next t ∧ t.ras.log = [] ∧ t.ras.wptr = 0 ∧ t.ras.overflow = s.ras.overflow ∧
      s.onlySettings t [.rasLogCtl]) ∧
    (∀ (v : Word), ∃ t, exec (.crvTheta .steward v) s = .next t ∧ t.rf .crvTheta 0 32 = v.toNat ∧
      t.curv.thetaEff = max (s.rf .crvThetaBounds 0 16) (min (s.rf .crvThetaBounds 16 16) (v.toNat % 65536)) ∧
      s.onlySettings t [.crvTheta, .dbgTrig]) ∧
    (∀ (v : Word), 8 ≤ v.toNat % 64 → v.toNat % 64 ≤ 40 →
      ∃ t, exec (.crvRootCfg .steward v) s = .next t ∧ t.rf .crvRootCfg 0 25 = v.toNat % 2 ^ 25 ∧
        s.onlySettings t [.crvRootCfg, .dbgTrig]) ∧
    (∀ (v : Word), bitsOf v.toNat 1 3 ≤ bitsOf v.toNat 7 3 → bitsOf v.toNat 7 3 ≤ bitsOf v.toNat 4 3 →
      ∃ t, exec (.numScaleCfg .steward v) s = .next t ∧ t.num.hEff = bitsOf v.toNat 7 3 ∧ t.rf .numScaleCfg 0 10 = v.toNat % 1024 ∧
        s.onlySettings t [.numScaleCfg]) ∧
    (∀ (v : Word), 1 ≤ v.toNat % 32 → v.toNat % 32 ≤ 25 → s.shareFits (v.toNat % 32) = true →
      ∃ t, exec (.txnShadowCfg .steward v) s = .next t ∧ t.rf .txnShadowCfg 0 5 = v.toNat % 32 ∧
        s.onlySettings { t with free := s.free } [.txnShadowCfg]) ∧
    (∀ (c w : Nat) (v : Word), c < 256 → w < 4 → bitsOf v.toNat 16 16 ≠ 0 →
      ∃ t, exec (.ctxWeirCfg .steward c w v) s = .next t ∧ t.rfi .ctxWeirCfg (4 * c + w) 0 32 = v.toNat ∧
        s.onlySettings t [.ctxWeirCfg, .ctxWeirEff]) ∧
    (∀ (v : DWord), (s.cad.anchored = false ∨ s.cad.frame.toNat < bitsOf v.toNat 0 48) →
      ∃ t, exec (.cadAnchor .steward v) s = .next t ∧ t.rf .cadAnchor 0 51 = v.toNat % 2 ^ 51 ∧
        s.onlySettings t [.cadAnchor]) ∧
    (∀ (n : Nat) (v : DWord), 1 ≤ n → n < 16 → s.group.flights = [] → s.group.queue = [] →
      s.group.waiting = [] → s.voting = false →
      ∃ t, exec (.colCfg .steward (0x100 + 8 * n) v) s = .next t ∧ t.rawReg .colCutTable n .steward = v.toNat ∧
        s.onlySettings t [.colCutTable]) ∧
    (∀ (v : DWord), s.rf .hifDoorbellBase 0 1 = 0 →
      ∃ t, exec (.hifDoorbellEnable .steward v) s = .next t ∧ t.rfp .hifDoorbellBase .steward 0 1 = 1 ∧
        t.rfp .hifDoorbellBase .steward 12 52 = bitsOf v.toNat 12 52 ∧
        s.onlySettings { t with ctxs := s.ctxs } [.hifDoorbellBase] ∧ ∀ c, c ≠ 0 → t.ctx? c = s.ctx? c) ∧
    (∀ (v : DWord), s.rf .hifEvtRing 5 1 = 0 → 6 ≤ v.toNat % 32 → v.toNat % 32 ≤ 16 →
      ∃ t, exec (.hifEvtRingEnable .steward v) s = .next t ∧ t.rfp .hifEvtRing .steward 5 1 = 1 ∧
        t.rfp .hifEvtRing .steward 0 5 = v.toNat % 32 ∧ s.onlySettings t [.hifEvtRing, .dbgTrig]) ∧
    (∀ (v : Word), bitsOf v.toNat 6 1 = 0 →
      ∃ t, exec (.sluiceEnable .steward v) s = .next t ∧ t.rfp .dbgSluiceCfg .steward 0 1 = 1 ∧ t.steward.sluiceWptr = 0 ∧
        t.steward.frozen = false ∧ t.steward.sluiceQueue = [] ∧ s.onlySettings t [.dbgSluiceCfg]) ∧
    (s.rf .dbgTrig 0 1 = 1 → s.rf .dbgTrig 2 4 ≠ 0 → s.rawReg .dbgTrig 0 .steward < 2 ^ 64 →
      ∃ t, exec (.force .steward) s = .next t ∧ t.steward.triggered = true ∧ t.rfp .dbgTrig .steward 0 1 = 0 ∧
        s.onlySettings t [.dbgTrig]) ∧
    (s.canDump .steward = true →
      ∃ t, exec (.dump .steward) s = .next t ∧ t.hostMem .steward = (s.dumpSluice .steward).hostMem .steward ∧
        t.rfp .dbgSluiceCfg .steward 0 1 = 0 ∧ s.onlySettings t [.dbgSluiceCfg]) ∧
    (∀ (v : Word), ∃ t u, exec (.registerWrite .steward 0xB0000C 4 v.toNat) s = .next t ∧
      exec (.registerRead .steward 0xB0000C 4) t = .next u ∧ u.steward.readData = leBytes 4 v.toNat)

/-- GO starts verification in LOAD_WAIT and training in VERIFIED; a write of the load window from the steward port in LOAD_WAIT
puts its bytes there. -/
def Obligations.GoAndTheLoadWindowStartTheDevice : Prop :=
  ∀ (s k : State), s.barOpen .steward = true → s.power.state ≠ 3 → s.steward.held = none →
    k = s.setPort .steward { s.steward with captured := none, held := none } →
    (s.boot.stage = 1 → exec (.go .steward) s = .next { k with boot := { s.boot with stage := 2, err := 0 } }) ∧
    (s.boot.stage = 3 → exec (.go .steward) s = .next { k with boot := { s.boot with stage := 4 } }) ∧
    (∀ (off : Nat) (bs : List Byte), s.boot.stage = 1 → off < 0x1000000 →
      exec (.firmwareLoadWrite .steward off bs) s = .next { k with boot := { s.boot with window := memPut s.boot.window off bs } })

/-- Reserved bits and unlisted offsets read as zero; a nonzero value written to a reserved bit is ignored and the rest of the
write is applied. -/
def Obligations.ReservedBitsReadZeroAndAreIgnored : Prop :=
  (∀ (s : State) (r : Reg) (idx i : Nat) (p : Port), (maskOf (fieldsAt r idx) fun _ => true).testBit i = false →
    (s.regValue r idx p).testBit i = false) ∧
  (∀ (s : State) (p : Port) (off : Nat), s.target p off = .nothing → s.readWord p off = 0) ∧
  (∀ (s : State) (p : Port) (r : Reg) (idx named v off : Nat),
    s.applyReg p r idx named v off = s.applyReg p r idx named (v &&& maskOf (fieldsAt r idx) fun _ => true) off)

/-- From the tenant port a field with steward authority reads zero, and a write of a register with such a field changes nothing
but RAS_CFG_ERR, which records it; a register without one is written from both ports alike, within each port's limits. -/
def Obligations.StewardFieldsAreClosedToTheTenant : Prop :=
  (∀ (s : State) (r : Reg) (idx i : Nat), (maskOf (fieldsAt r idx) fun f => f.steward).testBit i = true →
    (maskOf (fieldsAt r idx) fun f => !f.steward).testBit i = false → (s.regSeen r idx .tenant).testBit i = false) ∧
  (∀ (s : State) (r : Reg) (idx named v off : Nat), ((fieldsAt r idx).any fun f => f.steward && decide (0 < f.width)) = true →
    s.portWrite .tenant r idx named v off = s.cfgError .tenant off) ∧
  (∀ (s : State) (r : Reg) (idx named v off : Nat), s.tenantMay r idx v = true →
    s.portWrite .tenant r idx named v off = s.putReg .tenant r idx named v off)

/-! ### Attestation, SMBus, peers (R333–R336, R419–R422, R439) -/

/-- A request that gets no report is answered at once with its status; one that gets a report waits to be signed in order of
arrival, and a cycle signs the first; DOE_ABORT abandons the port's requests. -/
def Obligations.AttestationIsAnsweredInOrder : Prop :=
  (∀ (s : State) (p : Port) (q : List Byte), s.barOpen p = true → s.attestStatus p q ≠ atReport →
    exec (.attestation p q) s = .next (s.modPort p fun x =>
      { x with attestResponse := some (leBytes 4 (s.attestStatus p q) ++ leBytes 4 0) })) ∧
  (∀ (s : State) (p : Port) (q : List Byte), s.barOpen p = true → s.attestStatus p q = atReport →
    exec (.attestation p q) s = .next { s with attestQueue := s.attestQueue ++ [(p, q)] }) ∧
  (∀ (s : State) (p : Port), exec (.doeAbort p) s =
    .next { s with attestQueue := s.attestQueue.filter fun (e : Port × List Byte) => e.1 != p }) ∧
  (∀ (s : State) (p : Port) (q : List Byte) (rest : List (Port × List Byte)), s.attestQueue = (p, q) :: rest →
    (s.attestTick.portSt p).attestResponse = some (s.attestReport p q) ∧ s.attestTick.attestQueue = rest ∧
      s.attestTick.attestCount = min (s.attestCount + 1) 65535)

/-- With PWROK high the six SMBus commands return their values and every other code is not acknowledged; with PWROK low none is
answered. Nothing else of the device changes. -/
def Obligations.SmbusAnswersItsCommands : Prop :=
  ∀ (s : State),
    (s.pwrok = true →
      exec .smbHottestJunction s = .next { s with smbus := some (min s.power.junction 255), smbusNack := false } ∧
      exec .smbPower s = .next { s with smbus := some (min s.power.watts 2047), smbusNack := false } ∧
      exec .smbStageState s = .next { s with smbus := some (s.boot.stage % 16 + 16 * (s.power.state % 8)), smbusNack := false } ∧
      exec .smbAlertConditions s = .next { s with smbus := some s.alertBits, smbusNack := false } ∧
      exec .smbSpringCause s = .next { s with smbus := some (s.power.cause.toNat + 16 * s.power.cleared.toNat), smbusNack := false } ∧
      exec .smbHottestStack s = .next { s with
        smbus := some (min (s.stackList.foldl (fun m k => max m (s.site k).temp) 0) 255), smbusNack := false }) ∧
    (∀ code, (code = 0 ∨ 6 < code) → exec (.smbOtherCommand code) s = .next { s with smbus := none, smbusNack := true }) ∧
    (s.pwrok = false → exec .smbHottestJunction s = .next { s with smbus := none, smbusNack := true } ∧
      exec .smbPower s = .next { s with smbus := none, smbusNack := true } ∧
      exec .smbStageState s = .next { s with smbus := none, smbusNack := true } ∧
      exec .smbAlertConditions s = .next { s with smbus := none, smbusNack := true } ∧
      exec .smbSpringCause s = .next { s with smbus := none, smbusNack := true } ∧
      exec .smbHottestStack s = .next { s with smbus := none, smbusNack := true })

/-- Over an open link, a peer's credit is taken off what is outstanding towards it and lets more go; its data goes to the
collective it belongs to; a write of no rank of the group is dropped and recorded. A rank that a collective or a vote has waited
on for TIMEOUT, or that has given no credit for data owed to it as long, is LOST: the contexts that wait on it are torn down, and the group transactions it
votes on abort. -/
def Obligations.PeersDeliverOrAreLost : Prop :=
  (∀ (s : State) (id r n : Nat), s.portOpen s.peerPort = true → s.rf .colCfg 0 1 = 1 → s.peerRank id = some r →
    exec (.peerWrite id (.credit n)) s = .next { s with group :=
      { s.group.heard r with outstanding := tset s.group.outstanding r (tgetD s.group.outstanding r 0 - n) }.send r 0 }) ∧
  (∀ (s : State) (id r : Nat) (key : Word) (sub fmt root count : Nat) (bytes : List Byte) (f : Coll) (e : Early) (j k : State),
    s.portOpen s.peerPort = true → s.rf .colCfg 0 1 = 1 → s.peerRank id = some r → j = { s with group := s.group.heard r } →
    e = { rank := r, key := key, sub := sub, fmt := fmt, root := root, count := count, bytes := bytes } →
    s.group.flights.find? (fun f => f.takes e && j.waitsOn f r) = some f →
    k = (j.pulse 0x248 0 bytes.length f.ctx 0).giveData e →
    exec (.peerWrite id (.data key sub fmt root count bytes)) s = .next (k.collSettle k.group.flights.length)) ∧
  (∀ (s : State) (id : Nat) (payload : PeerPayload), s.portOpen s.peerPort = true → (s.rf .colCfg 0 1 = 0 ∨ s.peerRank id = none) →
    exec (.peerWrite id payload) s = .next (s.cfgError s.peerPort 0x901000)) ∧
  (∀ (s : State) (rank u : Nat) (fs : List Coll) (vs : List Txn) (starved : Bool) (on : List Nat), s.collOn = true →
    tget s.group.waitFrom rank = some u → u + 1050000 * s.rf .colCfg 19 13 ≤ s.now →
    fs = s.group.flights.filter (fun f => s.waitsOn f rank) → vs = s.txns.filter (fun t => t.votesWait s rank) →
    starved = (decide (windowSize ≤ tgetD s.group.outstanding rank 0) && tgetD s.group.unsent rank 0 != 0) →
    (fs ≠ [] ∨ vs ≠ [] ∨ starved = true) →
    on = fs.map (·.ctx) ++ (if starved then (s.group.flights.filter fun f => f.cut.contains rank).map (·.ctx) else []) ++
      vs.map (·.ctx) →
    exec (.collectiveTimeout rank) s = .next ((on.eraseDups.foldl (fun (s : State) c => s.teardown c 1)
      { s with group := { s.group with lost := s.group.lost ||| BitVec.ofNat 64 (2 ^ rank) } }).voterLost rank))

/-! ### Rings (R292–R295, R310) -/

/-- A descriptor that is taken at once and fails a check, or whose SEQ is not the expected one, or whose CHAIN is broken,
completes with that status and detail, and the ring goes on; a member of a transaction so rejected for its format or a
limit, but not for its SEQ, also aborts the transaction (log entry 101). -/
def Obligations.RejectedDescriptorsComplete : Prop :=
  (∀ (s k : State) (c : Nat) (d : Desc) (r : DescRow) (st : Nat × Nat), descOf r c d = true → s.takesNow c d = true →
    (s.seqTaken c d).verdict c d = some st → k = (s.seqTaken c d).reject c d st.1 st.2 →
    descRow r c d s = .next (k.memberRejected c d st.1 st.2) ∧
      (st.1 ≠ stFormat → st.1 ≠ stLimit → k.memberRejected c d st.1 st.2 = k)) ∧
  (∀ (s : State) (c : Nat) (d : Desc) (r : DescRow), descOf r c d = true → s.taking c = true → (s.ctxD c).held = [] →
    (s.ctxD c).seqOk d = false → (s.ctxD c).closed = false → (s.ctxD c).ringFull = false →
    descRow r c d s = .next ((s.modCtx c fun x => { x with active := true }).reject c d stFormat dSeqOrder)) ∧
  (∀ (s k : State) (c : Nat) (d : Desc) (r : DescRow), descOf r c d = true → s.taking c = true → (s.ctxD c).held = [] →
    (s.ctxD c).seqOk d = true → (s.ctxD c).mode = .resident → (s.ctxD c).mustWait d false = false →
    (s.ctxD c).chainBroken d = true → k = (s.seqTaken c d).reject c d stLimit dChainBroken →
    descRow r c d s = .next (k.memberRejected c d stLimit dChainBroken)) ∧
  (∀ (k : State) (c : Nat) (d : Desc) (t : Txn), k.txn? c d.tag = some t → isTxnMember d = true → t.isOpen = true →
    t.commitSeq = none → k.memberRejected c d stLimit dChainBroken = k.abortTxn c d.tag dMemberFail none)

/-- Acceptance opens the descriptor, expects the next SEQ, keeps the context active for 1 ms, and touches only what reports of
it touch. -/
def Obligations.AcceptanceOpensTheDescriptor : Prop :=
  ∀ (s : State) (c : Nat) (d : Desc) (x : Ctx), s.ctx? c = some x →
    ∃ y m, (s.accepted c d).ctx? c = some y ∧ y.opens = x.opens ++ [{ desc := d, marker := m }] ∧
      y.ring.expect = some (d.seq + 1) ∧ y.lastSeq = d.seq ∧ y.active = true ∧ y.activeUntil = s.now + 1050000 ∧
      (∀ n, n ≠ c → (s.accepted c d).ctx? n = s.ctx? n) ∧ (s.accepted c d).hbm = s.hbm ∧ (s.accepted c d).hostA = s.hostA ∧
      (s.accepted c d).hostB = s.hostB ∧ (s.accepted c d).arrays = s.arrays ∧ (s.accepted c d).objects = s.objects

/-- Places of descriptors and completions in their rings, the phase of a completion, and a SQ_TAIL too far ahead, which is ignored
and recorded. -/
def Obligations.RingsWrapAtTheirSizes : Prop :=
  (∀ (r : Ring) (j : Nat), cqPlace r j = (r.cqBase + 16 * (j % 2 ^ r.cqLog2), decide (j / 2 ^ r.cqLog2 % 2 = 0))) ∧
  (∀ (s : State) (p : Port) (r : Ring) (n i : Nat), i < n → (s.fetched p r n)[i]? =
    some (Desc.ofBytes (s.hostRead p (r.sqBase + 64 * ((r.fetch + i) % 2 ^ r.sqLog2)) 64))) ∧
  (∀ (s : State) (p : Port) (c tail : Nat), 2 ^ (s.ctxD c).ring.sqLog2 < (tail + 2 ^ 32 - (s.ctxD c).ring.fetch) % 2 ^ 32 →
    s.takeTail p c tail = s.cfgError p 0x10)

/-- A completion without NOTIFY is one 16-byte entry at its place: SEQ; STATUS, DETAIL and PHASE; the low word of the frame stamp;
RESULT. No other byte of that host's memory, and nothing of HBM, changes. -/
def Obligations.CompletionEntryIsWritten : Prop :=
  ∀ (s t : State) (c : Nat) (d : Desc) (marker result : Word) (status detail a : Nat) (x : Ctx), s.ctx? c = some x →
    x.ring.bound = true → s.portOpen x.port = true → d.notify = false → Memory.wf (s.hostMem x.port) = true →
    status < 256 → detail < 65536 → t = s.writeCompletion c d marker status detail result →
    a = x.ring.cqBase + 16 * (x.ring.cqWrite % 2 ^ x.ring.cqLog2) →
    leNat (memBytes (t.hostMem x.port) a 4) = d.seq.toNat ∧
    leNat (memBytes (t.hostMem x.port) (a + 4) 4) =
      status + 256 * detail + (if x.ring.cqWrite / 2 ^ x.ring.cqLog2 % 2 = 0 then 2 ^ 31 else 0) ∧
    leNat (memBytes (t.hostMem x.port) (a + 8) 4) = s.stamp % 2 ^ 32 ∧
    leNat (memBytes (t.hostMem x.port) (a + 12) 4) = result.toNat ∧
    (∀ b, (b < a ∨ a + 16 ≤ b) → memRead (t.hostMem x.port) b = memRead (s.hostMem x.port) b) ∧ t.hbm = s.hbm

/-! ### Queues and counters of the debug units (R367, R380) -/

/-- A counter that passes 2⁴⁸ − 1 wraps and sets its overflow bit; a running odd counter with CHAIN adds one each time its even
neighbour wraps, and a cycle's own event does not move it; CHAIN written to an even counter is ignored and recorded. -/
def Obligations.CountersWrapAndChain : Prop :=
  (∀ (s : State) (bank unit idx v : Nat) (b : CtrBank), ctrBank bank = some b → unit < b.units → idx < b.per →
    2 ^ 48 ≤ s.rawReg b.ctr (b.per * unit + idx) .steward + v →
    (s.ctrAdd bank b unit idx v).rawReg b.ctr (b.per * unit + idx) .steward =
      (s.rawReg b.ctr (b.per * unit + idx) .steward + v) % 2 ^ 48 ∧
    (s.ctrAdd bank b unit idx v).rfi b.ovf unit idx 1 = 1) ∧
  (∀ (s : State) (bank unit idx v : Nat) (b : CtrBank), ctrBank bank = some b → unit < b.units → idx + 1 < b.per → idx % 2 = 0 →
    2 ^ 48 ≤ s.rawReg b.ctr (b.per * unit + idx) .steward + v → s.ctrChained b unit (idx + 1) = true →
    s.ctrRuns bank b unit (idx + 1) = true → s.rawReg b.ctr (b.per * unit + idx + 1) .steward < 2 ^ 48 →
    (s.ctrAdd bank b unit idx v).rawReg b.ctr (b.per * unit + idx + 1) .steward =
      (s.rawReg b.ctr (b.per * unit + idx + 1) .steward + 1) % 2 ^ 48) ∧
  (∀ (s : State) (bank k : Nat) (b : CtrBank), ctrBank bank = some b → s.ctrChained b (k / b.per) (k % b.per) = true →
    (s.ctrTick bank k).rawReg b.ctr k .steward = s.rawReg b.ctr k .steward) ∧
  (∀ (s : State) (k v off : Nat), k < 64 → k % 2 = 0 → bitsOf v 25 1 = 1 → 0x200 ≤ bitsOf v 0 10 → bitsOf v 10 2 ≠ 3 →
    (s.applyReg .steward .pmcEvselGlobal k (2 ^ 64 - 1) v off).rfi .pmcEvselGlobal k 25 1 = 0 ∧
    (s.applyReg .steward .pmcEvselGlobal k (2 ^ 64 - 1) v off).rfi .pmcEvselGlobal k 0 25 = bitsOf v 0 25 ∧
    (s.applyReg .steward .pmcEvselGlobal k (2 ^ 64 - 1) v off).ras.cfgErr = true)

/-- A sluice writes at most one record in a cycle from its queue of 256; a record offered to a full queue is dropped and counted,
and does not count towards POST; the first record after a loss is a LOST record. -/
def Obligations.SluicesQueueAndLose : Prop :=
  (∀ (s : State) (p : Port) (r : List Word), (s.portSt p).sluiceQueue.length < 256 →
    s.sluiceEnqueue p r = s.modPort p fun x => { x with sluiceQueue := x.sluiceQueue ++ [r] }) ∧
  (∀ (s : State) (p : Port) (r : List Word), 256 ≤ (s.portSt p).sluiceQueue.length →
    s.sluiceEnqueue p r = (s.modPort p fun x =>
      { x with sluiceLost := min (x.sluiceLost + 1) 0xFFFFFFFF, lostSince := x.lostSince + 1 }).pulse 0x24A 0 1 0 0) ∧
  (∀ (s : State) (p : Port), (s.portSt p).frozen = false → 0 < (s.portSt p).lostSince →
    s.sluiceTick p = (s.modPort p fun x => { x with lostSince := 0 }).sluiceStore p
      (s.sluiceRecord 8 0 0x200 0 [BitVec.ofNat 32 (s.portSt p).lostSince])) ∧
  (∀ (s : State) (p : Port) (r : List Word) (rest : List (List Word)), (s.portSt p).frozen = false → (s.portSt p).lostSince = 0 →
    (s.portSt p).sluiceQueue = r :: rest →
    s.sluiceTick p = (s.modPort p fun x => { x with sluiceQueue := rest }).sluiceStore p r) ∧
  (∀ (s : State) (p : Port) (r : List Word), ((s.sluiceStore p r).portSt p).sluiceWptr = ((s.portSt p).sluiceWptr + 1) % 1048576 ∧
    (s.sluiceStore p r).hbm = memPut s.hbm (sluiceBase p + 32 * (s.portSt p).sluiceWptr) (r.flatMap fun w => leBytes 4 w.toNat))

/-- A problem that reaches its cap without converging ends DONE, or DONE_REGULARISED after a regularised pivot, with its last
iterate and the flag CAP; the cap is MAXIT, or the smaller of it and the batch's. -/
def Obligations.CapEndsAProblem : Prop :=
  (∀ (p : Problem) (m tau : Nat), (p.begin m tau).cap = if m = 0 then p.maxit else min p.maxit m) ∧
  (∀ (p : Problem) (r : SlvRun) (x : List Int) (res : Word) (expired : Bool), r.marked = false → r.cap ≤ r.iter + 1 →
    p.outcome (r.iterated false x res) expired =
      some { status := if r.regpiv = 0 then stDone else stRegularised, vec := some x, flags := flagCap }) ∧
  (∀ (p : Problem) (r : SlvRun) (x : List Int) (res : Word), r.marked = false → r.iter + 1 < r.cap →
    p.outcome (r.iterated false x res) false = none)

/-- A position register gives element e of row v the position BASE + v × ROWLEN + e, and after the operation BASE is BASE + ADV, both
modulo 2⁴⁸. -/
def Obligations.PositionRegistersCount : Prop :=
  ∀ (p : PosReg) (v e : Nat), p.base < 2 ^ 48 →
    p.pos v e = (p.base + v * p.rowlen + e) % 2 ^ 48 ∧ p.advance.base < 2 ^ 48 ∧
    (p.advance.base : Int) % 2 ^ 48 = (p.base + p.adv) % 2 ^ 48 ∧ p.advance.rowlen = p.rowlen ∧ p.advance.adv = p.adv

/-! ### The whole device -/

/-- On an empty queue a step is one cycle (the model's choice, log entry 3): with PWROK low nothing changes, and before READY, in
a reset or in a halt time alone goes on. -/
def Obligations.AnEmptyQueueLetsACyclePass : Prop :=
  ∀ (s : State), s.pending = [] →
    (s.pwrok = false → step s = .next s) ∧
    (s.pwrok = true → (s.running = false ∨ s.isReady = false ∨ s.power.state = 3) → step s = .next { s with now := s.now + 1 }) ∧
    (s.pwrok = true → s.running = true → s.isReady = true → s.power.state ≠ 3 →
      step s = .next ({ s with now := s.now + 1 } : State).work)

/-- Right after a cold reset: power is off, the queue and the memories list nothing, every register has its cold value, no context
and no plan exists; and the bounds that every step keeps hold. -/
def Obligations.ResetHoldsColdValues : Prop :=
  State.reset.pwrok = false ∧ State.reset.pending = [] ∧ State.reset.hbm = [] ∧ State.reset.hostA = [] ∧ State.reset.hostB = [] ∧
  (∀ r idx p, State.reset.rawReg r idx p = coldValue r idx) ∧ (∀ c, State.reset.ctx? c = none) ∧ State.reset.txns = [] ∧
  State.reset.problems = [] ∧ State.reset.boot.stage = 0 ∧ State.reset.power.state = 0 ∧ State.reset.bounded

/-- Every tile instruction whose fields lie in their ranges is read back from its words, whatever follows them. -/
def Obligations.TileWordsDecodeToTheirInstruction : Prop :=
  ∀ (t : Tile) (rest : List Word), tileOk t = true →
    decodeTile (encodeTile t ++ rest) = some (t, (encodeTile t).length)

/-- No command, and no cycle, adds to or takes from the queue of commands: it is the sender's. -/
def Obligations.OnlyTheSenderQueuesCommands : Prop :=
  ∀ (s t : State), step s = .next t → t.pending = s.pending.tail

/-- The bounds of the device's queues and saturating counters hold after every step from every state that meets them. -/
def Obligations.StepsKeepTheBounds : Prop :=
  ∀ (s t : State), s.bounded → step s = .next t → t.bounded
end

