-- ==== Sys2Proof/Laws/Table.lean ====
section
/-! SUPPORT. Tables: what reading an entry after setting, changing or deleting one gives. None of it asks that a table be
sorted. -/

namespace Sys2Proof.Machine

variable {α : Type}

theorem tget_tset (t : Table α) (n m : Nat) (x : α) : tget (tset t n x) m = if n = m then some x else tget t m := by
  induction t with
  | nil => simp [tset, tget]
  | cons e t ih =>
    obtain ⟨k, v⟩ := e
    unfold tset
    split
    · simp [tget]
    · split
      · rename_i hk; by_cases h : n = m <;> simp [tget, hk, h]
      · by_cases h : k = m
        · subst h; simp [tget]; intro h; subst h; contradiction
        · simp [tget, h, ih]

@[simp] theorem tget_tset_self (t : Table α) (n : Nat) (x : α) : tget (tset t n x) n = some x := by simp [tget_tset]

theorem tget_tset_ne (t : Table α) {n m : Nat} (x : α) (h : n ≠ m) : tget (tset t n x) m = tget t m := by
  simp [tget_tset, h]

@[simp] theorem tgetD_tset_self (t : Table α) (n : Nat) (x d : α) : tgetD (tset t n x) n d = x := by simp [tgetD]

theorem tgetD_tset_ne (t : Table α) {n m : Nat} (x d : α) (h : n ≠ m) : tgetD (tset t n x) m d = tgetD t m d := by
  simp [tgetD, tget_tset_ne t x h]

@[simp] theorem tset_tset (t : Table α) (n : Nat) (x y : α) : tset (tset t n x) n y = tset t n y := by
  induction t with
  | nil => simp [tset]
  | cons e t ih =>
    obtain ⟨k, v⟩ := e
    by_cases h : n < k
    · simp [tset, h]
    · by_cases g : k = n
      · simp [tset, g]
      · simp [tset, h, g, ih]

theorem tget_tdel (t : Table α) (n m : Nat) : tget (tdel t n) m = if n = m then none else tget t m := by
  induction t with
  | nil => simp [tdel, tget]
  | cons e t ih =>
    obtain ⟨k, v⟩ := e
    have ih' : tget (List.filter (fun p => p.1 != n) t) m = if n = m then none else tget t m := ih
    unfold tdel
    by_cases h : k = n
    · rw [List.filter_cons_of_neg (by simp [h]), ih']
      by_cases g : n = m
      · simp [g]
      · simp [g, tget, h]
    · rw [List.filter_cons_of_pos (by simp [h]), tget, ih', tget]
      by_cases g : n = m
      · simp [g, show k ≠ m by omega]
      · simp [g]

theorem tget_tmod (t : Table α) (n m : Nat) (f : α → α) :
    tget (tmod t n f) m = if n = m then (tget t m).map f else tget t m := by
  unfold tmod
  split
  · rename_i v h
    by_cases g : n = m
    · subst g; simp [h]
    · simp [tget_tset, g]
  · rename_i h
    by_cases g : n = m
    · subst g; simp [h]
    · simp [g]

theorem tmod_of_get {t : Table α} {n : Nat} {v : α} (h : tget t n = some v) (f : α → α) : tmod t n f = tset t n (f v) := by
  simp [tmod, h]

/-- Two changes of one entry are one. -/
theorem tmod_tmod (t : Table α) (n : Nat) (f g : α → α) : tmod (tmod t n f) n g = tmod t n fun x => g (f x) := by
  cases h : tget t n with
  | none => simp [tmod, h]
  | some v => simp [tmod, h]

/-- A change that leaves the entry as it is leaves the table's reading as it is. -/
theorem tget_tmod_same {t : Table α} {n : Nat} {f : α → α} (h : ∀ v, tget t n = some v → f v = v) (m : Nat) :
    tget (tmod t n f) m = tget t m := by
  rw [tget_tmod]
  split
  · subst_vars
    cases g : tget t m with
    | none => rfl
    | some v => simp [h v g]
  · rfl

end Sys2Proof.Machine
end

