-- ==== Sys2Proof/Laws/State.lean ====
section
/-! SUPPORT. What each update of the state leaves alone: one lemma for each update and field, so that no proof unfolds the record. -/

namespace Sys2Proof.Machine

variable (s : State)

/-! ### State.modCtx -/

@[simp] theorem State.modCtx_pending (c : Nat) (f : Ctx → Ctx) : (s.modCtx c f).pending = s.pending := rfl
@[simp] theorem State.modCtx_pwrok (c : Nat) (f : Ctx → Ctx) : (s.modCtx c f).pwrok = s.pwrok := rfl
@[simp] theorem State.modCtx_rstHigh (c : Nat) (f : Ctx → Ctx) : (s.modCtx c f).rstHigh = s.rstHigh := rfl
@[simp] theorem State.modCtx_portaRole (c : Nat) (f : Ctx → Ctx) : (s.modCtx c f).portaRole = s.portaRole := rfl
@[simp] theorem State.modCtx_testMode (c : Nat) (f : Ctx → Ctx) : (s.modCtx c f).testMode = s.testMode := rfl
@[simp] theorem State.modCtx_now (c : Nat) (f : Ctx → Ctx) : (s.modCtx c f).now = s.now := rfl
@[simp] theorem State.modCtx_free (c : Nat) (f : Ctx → Ctx) : (s.modCtx c f).free = s.free := rfl
@[simp] theorem State.modCtx_regs (c : Nat) (f : Ctx → Ctx) : (s.modCtx c f).regs = s.regs := rfl
@[simp] theorem State.modCtx_hostA (c : Nat) (f : Ctx → Ctx) : (s.modCtx c f).hostA = s.hostA := rfl
@[simp] theorem State.modCtx_hostB (c : Nat) (f : Ctx → Ctx) : (s.modCtx c f).hostB = s.hostB := rfl
@[simp] theorem State.modCtx_steward (c : Nat) (f : Ctx → Ctx) : (s.modCtx c f).steward = s.steward := rfl
@[simp] theorem State.modCtx_tenant (c : Nat) (f : Ctx → Ctx) : (s.modCtx c f).tenant = s.tenant := rfl
@[simp] theorem State.modCtx_smbus (c : Nat) (f : Ctx → Ctx) : (s.modCtx c f).smbus = s.smbus := rfl
@[simp] theorem State.modCtx_smbusNack (c : Nat) (f : Ctx → Ctx) : (s.modCtx c f).smbusNack = s.smbusNack := rfl
@[simp] theorem State.modCtx_jtag (c : Nat) (f : Ctx → Ctx) : (s.modCtx c f).jtag = s.jtag := rfl
@[simp] theorem State.modCtx_pairs (c : Nat) (f : Ctx → Ctx) : (s.modCtx c f).pairs = s.pairs := rfl
@[simp] theorem State.modCtx_arrays (c : Nat) (f : Ctx → Ctx) : (s.modCtx c f).arrays = s.arrays := rfl
@[simp] theorem State.modCtx_prus (c : Nat) (f : Ctx → Ctx) : (s.modCtx c f).prus = s.prus := rfl
@[simp] theorem State.modCtx_slices (c : Nat) (f : Ctx → Ctx) : (s.modCtx c f).slices = s.slices := rfl
@[simp] theorem State.modCtx_signals (c : Nat) (f : Ctx → Ctx) : (s.modCtx c f).signals = s.signals := rfl
@[simp] theorem State.modCtx_waiters (c : Nat) (f : Ctx → Ctx) : (s.modCtx c f).waiters = s.waiters := rfl
@[simp] theorem State.modCtx_granted (c : Nat) (f : Ctx → Ctx) : (s.modCtx c f).granted = s.granted := rfl
@[simp] theorem State.modCtx_samplers (c : Nat) (f : Ctx → Ctx) : (s.modCtx c f).samplers = s.samplers := rfl
@[simp] theorem State.modCtx_swapArrays (c : Nat) (f : Ctx → Ctx) : (s.modCtx c f).swapArrays = s.swapArrays := rfl
@[simp] theorem State.modCtx_swapWaiters (c : Nat) (f : Ctx → Ctx) : (s.modCtx c f).swapWaiters = s.swapWaiters := rfl
@[simp] theorem State.modCtx_weirQuiet (c : Nat) (f : Ctx → Ctx) : (s.modCtx c f).weirQuiet = s.weirQuiet := rfl
@[simp] theorem State.modCtx_hbm (c : Nat) (f : Ctx → Ctx) : (s.modCtx c f).hbm = s.hbm := rfl
@[simp] theorem State.modCtx_sites (c : Nat) (f : Ctx → Ctx) : (s.modCtx c f).sites = s.sites := rfl
@[simp] theorem State.modCtx_held (c : Nat) (f : Ctx → Ctx) : (s.modCtx c f).held = s.held := rfl
@[simp] theorem State.modCtx_asking (c : Nat) (f : Ctx → Ctx) : (s.modCtx c f).asking = s.asking := rfl
@[simp] theorem State.modCtx_outstanding (c : Nat) (f : Ctx → Ctx) : (s.modCtx c f).outstanding = s.outstanding := rfl
@[simp] theorem State.modCtx_granaries (c : Nat) (f : Ctx → Ctx) : (s.modCtx c f).granaries = s.granaries := rfl
@[simp] theorem State.modCtx_objects (c : Nat) (f : Ctx → Ctx) : (s.modCtx c f).objects = s.objects := rfl
@[simp] theorem State.modCtx_stats (c : Nat) (f : Ctx → Ctx) : (s.modCtx c f).stats = s.stats := rfl
@[simp] theorem State.modCtx_blocks (c : Nat) (f : Ctx → Ctx) : (s.modCtx c f).blocks = s.blocks := rfl
@[simp] theorem State.modCtx_curv (c : Nat) (f : Ctx → Ctx) : (s.modCtx c f).curv = s.curv := rfl
@[simp] theorem State.modCtx_runs (c : Nat) (f : Ctx → Ctx) : (s.modCtx c f).runs = s.runs := rfl
@[simp] theorem State.modCtx_gran (c : Nat) (f : Ctx → Ctx) : (s.modCtx c f).gran = s.gran := rfl
@[simp] theorem State.modCtx_lastSealed (c : Nat) (f : Ctx → Ctx) : (s.modCtx c f).lastSealed = s.lastSealed := rfl
@[simp] theorem State.modCtx_txns (c : Nat) (f : Ctx → Ctx) : (s.modCtx c f).txns = s.txns := rfl
@[simp] theorem State.modCtx_txnCount (c : Nat) (f : Ctx → Ctx) : (s.modCtx c f).txnCount = s.txnCount := rfl
@[simp] theorem State.modCtx_shadowDue (c : Nat) (f : Ctx → Ctx) : (s.modCtx c f).shadowDue = s.shadowDue := rfl
@[simp] theorem State.modCtx_num (c : Nat) (f : Ctx → Ctx) : (s.modCtx c f).num = s.num := rfl
@[simp] theorem State.modCtx_problems (c : Nat) (f : Ctx → Ctx) : (s.modCtx c f).problems = s.problems := rfl
@[simp] theorem State.modCtx_batches (c : Nat) (f : Ctx → Ctx) : (s.modCtx c f).batches = s.batches := rfl
@[simp] theorem State.modCtx_deltas (c : Nat) (f : Ctx → Ctx) : (s.modCtx c f).deltas = s.deltas := rfl
@[simp] theorem State.modCtx_group (c : Nat) (f : Ctx → Ctx) : (s.modCtx c f).group = s.group := rfl
@[simp] theorem State.modCtx_cad (c : Nat) (f : Ctx → Ctx) : (s.modCtx c f).cad = s.cad := rfl
@[simp] theorem State.modCtx_pulses (c : Nat) (f : Ctx → Ctx) : (s.modCtx c f).pulses = s.pulses := rfl
@[simp] theorem State.modCtx_levels (c : Nat) (f : Ctx → Ctx) : (s.modCtx c f).levels = s.levels := rfl
@[simp] theorem State.modCtx_bwLatched (c : Nat) (f : Ctx → Ctx) : (s.modCtx c f).bwLatched = s.bwLatched := rfl
@[simp] theorem State.modCtx_bwSeq (c : Nat) (f : Ctx → Ctx) : (s.modCtx c f).bwSeq = s.bwSeq := rfl
@[simp] theorem State.modCtx_bwSince (c : Nat) (f : Ctx → Ctx) : (s.modCtx c f).bwSince = s.bwSince := rfl
@[simp] theorem State.modCtx_bwLength (c : Nat) (f : Ctx → Ctx) : (s.modCtx c f).bwLength = s.bwLength := rfl
@[simp] theorem State.modCtx_tenantPmc (c : Nat) (f : Ctx → Ctx) : (s.modCtx c f).tenantPmc = s.tenantPmc := rfl
@[simp] theorem State.modCtx_boot (c : Nat) (f : Ctx → Ctx) : (s.modCtx c f).boot = s.boot := rfl
@[simp] theorem State.modCtx_power (c : Nat) (f : Ctx → Ctx) : (s.modCtx c f).power = s.power := rfl
@[simp] theorem State.modCtx_ras (c : Nat) (f : Ctx → Ctx) : (s.modCtx c f).ras = s.ras := rfl
@[simp] theorem State.modCtx_attestCount (c : Nat) (f : Ctx → Ctx) : (s.modCtx c f).attestCount = s.attestCount := rfl
@[simp] theorem State.modCtx_attestQueue (c : Nat) (f : Ctx → Ctx) : (s.modCtx c f).attestQueue = s.attestQueue := rfl

/-! ### State.setArr -/

@[simp] theorem State.setArr_pending (a : Nat) (x : Arr) : (s.setArr a x).pending = s.pending := rfl
@[simp] theorem State.setArr_pwrok (a : Nat) (x : Arr) : (s.setArr a x).pwrok = s.pwrok := rfl
@[simp] theorem State.setArr_rstHigh (a : Nat) (x : Arr) : (s.setArr a x).rstHigh = s.rstHigh := rfl
@[simp] theorem State.setArr_portaRole (a : Nat) (x : Arr) : (s.setArr a x).portaRole = s.portaRole := rfl
@[simp] theorem State.setArr_testMode (a : Nat) (x : Arr) : (s.setArr a x).testMode = s.testMode := rfl
@[simp] theorem State.setArr_now (a : Nat) (x : Arr) : (s.setArr a x).now = s.now := rfl
@[simp] theorem State.setArr_free (a : Nat) (x : Arr) : (s.setArr a x).free = s.free := rfl
@[simp] theorem State.setArr_regs (a : Nat) (x : Arr) : (s.setArr a x).regs = s.regs := rfl
@[simp] theorem State.setArr_hostA (a : Nat) (x : Arr) : (s.setArr a x).hostA = s.hostA := rfl
@[simp] theorem State.setArr_hostB (a : Nat) (x : Arr) : (s.setArr a x).hostB = s.hostB := rfl
@[simp] theorem State.setArr_steward (a : Nat) (x : Arr) : (s.setArr a x).steward = s.steward := rfl
@[simp] theorem State.setArr_tenant (a : Nat) (x : Arr) : (s.setArr a x).tenant = s.tenant := rfl
@[simp] theorem State.setArr_smbus (a : Nat) (x : Arr) : (s.setArr a x).smbus = s.smbus := rfl
@[simp] theorem State.setArr_smbusNack (a : Nat) (x : Arr) : (s.setArr a x).smbusNack = s.smbusNack := rfl
@[simp] theorem State.setArr_jtag (a : Nat) (x : Arr) : (s.setArr a x).jtag = s.jtag := rfl
@[simp] theorem State.setArr_ctxs (a : Nat) (x : Arr) : (s.setArr a x).ctxs = s.ctxs := rfl
@[simp] theorem State.setArr_pairs (a : Nat) (x : Arr) : (s.setArr a x).pairs = s.pairs := rfl
@[simp] theorem State.setArr_prus (a : Nat) (x : Arr) : (s.setArr a x).prus = s.prus := rfl
@[simp] theorem State.setArr_slices (a : Nat) (x : Arr) : (s.setArr a x).slices = s.slices := rfl
@[simp] theorem State.setArr_signals (a : Nat) (x : Arr) : (s.setArr a x).signals = s.signals := rfl
@[simp] theorem State.setArr_waiters (a : Nat) (x : Arr) : (s.setArr a x).waiters = s.waiters := rfl
@[simp] theorem State.setArr_granted (a : Nat) (x : Arr) : (s.setArr a x).granted = s.granted := rfl
@[simp] theorem State.setArr_samplers (a : Nat) (x : Arr) : (s.setArr a x).samplers = s.samplers := rfl
@[simp] theorem State.setArr_swapArrays (a : Nat) (x : Arr) : (s.setArr a x).swapArrays = s.swapArrays := rfl
@[simp] theorem State.setArr_swapWaiters (a : Nat) (x : Arr) : (s.setArr a x).swapWaiters = s.swapWaiters := rfl
@[simp] theorem State.setArr_weirQuiet (a : Nat) (x : Arr) : (s.setArr a x).weirQuiet = s.weirQuiet := rfl
@[simp] theorem State.setArr_hbm (a : Nat) (x : Arr) : (s.setArr a x).hbm = s.hbm := rfl
@[simp] theorem State.setArr_sites (a : Nat) (x : Arr) : (s.setArr a x).sites = s.sites := rfl
@[simp] theorem State.setArr_held (a : Nat) (x : Arr) : (s.setArr a x).held = s.held := rfl
@[simp] theorem State.setArr_asking (a : Nat) (x : Arr) : (s.setArr a x).asking = s.asking := rfl
@[simp] theorem State.setArr_outstanding (a : Nat) (x : Arr) : (s.setArr a x).outstanding = s.outstanding := rfl
@[simp] theorem State.setArr_granaries (a : Nat) (x : Arr) : (s.setArr a x).granaries = s.granaries := rfl
@[simp] theorem State.setArr_objects (a : Nat) (x : Arr) : (s.setArr a x).objects = s.objects := rfl
@[simp] theorem State.setArr_stats (a : Nat) (x : Arr) : (s.setArr a x).stats = s.stats := rfl
@[simp] theorem State.setArr_blocks (a : Nat) (x : Arr) : (s.setArr a x).blocks = s.blocks := rfl
@[simp] theorem State.setArr_curv (a : Nat) (x : Arr) : (s.setArr a x).curv = s.curv := rfl
@[simp] theorem State.setArr_runs (a : Nat) (x : Arr) : (s.setArr a x).runs = s.runs := rfl
@[simp] theorem State.setArr_gran (a : Nat) (x : Arr) : (s.setArr a x).gran = s.gran := rfl
@[simp] theorem State.setArr_lastSealed (a : Nat) (x : Arr) : (s.setArr a x).lastSealed = s.lastSealed := rfl
@[simp] theorem State.setArr_txns (a : Nat) (x : Arr) : (s.setArr a x).txns = s.txns := rfl
@[simp] theorem State.setArr_txnCount (a : Nat) (x : Arr) : (s.setArr a x).txnCount = s.txnCount := rfl
@[simp] theorem State.setArr_shadowDue (a : Nat) (x : Arr) : (s.setArr a x).shadowDue = s.shadowDue := rfl
@[simp] theorem State.setArr_num (a : Nat) (x : Arr) : (s.setArr a x).num = s.num := rfl
@[simp] theorem State.setArr_problems (a : Nat) (x : Arr) : (s.setArr a x).problems = s.problems := rfl
@[simp] theorem State.setArr_batches (a : Nat) (x : Arr) : (s.setArr a x).batches = s.batches := rfl
@[simp] theorem State.setArr_deltas (a : Nat) (x : Arr) : (s.setArr a x).deltas = s.deltas := rfl
@[simp] theorem State.setArr_group (a : Nat) (x : Arr) : (s.setArr a x).group = s.group := rfl
@[simp] theorem State.setArr_cad (a : Nat) (x : Arr) : (s.setArr a x).cad = s.cad := rfl
@[simp] theorem State.setArr_pulses (a : Nat) (x : Arr) : (s.setArr a x).pulses = s.pulses := rfl
@[simp] theorem State.setArr_levels (a : Nat) (x : Arr) : (s.setArr a x).levels = s.levels := rfl
@[simp] theorem State.setArr_bwLatched (a : Nat) (x : Arr) : (s.setArr a x).bwLatched = s.bwLatched := rfl
@[simp] theorem State.setArr_bwSeq (a : Nat) (x : Arr) : (s.setArr a x).bwSeq = s.bwSeq := rfl
@[simp] theorem State.setArr_bwSince (a : Nat) (x : Arr) : (s.setArr a x).bwSince = s.bwSince := rfl
@[simp] theorem State.setArr_bwLength (a : Nat) (x : Arr) : (s.setArr a x).bwLength = s.bwLength := rfl
@[simp] theorem State.setArr_tenantPmc (a : Nat) (x : Arr) : (s.setArr a x).tenantPmc = s.tenantPmc := rfl
@[simp] theorem State.setArr_boot (a : Nat) (x : Arr) : (s.setArr a x).boot = s.boot := rfl
@[simp] theorem State.setArr_power (a : Nat) (x : Arr) : (s.setArr a x).power = s.power := rfl
@[simp] theorem State.setArr_ras (a : Nat) (x : Arr) : (s.setArr a x).ras = s.ras := rfl
@[simp] theorem State.setArr_attestCount (a : Nat) (x : Arr) : (s.setArr a x).attestCount = s.attestCount := rfl
@[simp] theorem State.setArr_attestQueue (a : Nat) (x : Arr) : (s.setArr a x).attestQueue = s.attestQueue := rfl

/-! ### State.modArr -/

@[simp] theorem State.modArr_pending (a : Nat) (f : Arr → Arr) : (s.modArr a f).pending = s.pending := rfl
@[simp] theorem State.modArr_pwrok (a : Nat) (f : Arr → Arr) : (s.modArr a f).pwrok = s.pwrok := rfl
@[simp] theorem State.modArr_rstHigh (a : Nat) (f : Arr → Arr) : (s.modArr a f).rstHigh = s.rstHigh := rfl
@[simp] theorem State.modArr_portaRole (a : Nat) (f : Arr → Arr) : (s.modArr a f).portaRole = s.portaRole := rfl
@[simp] theorem State.modArr_testMode (a : Nat) (f : Arr → Arr) : (s.modArr a f).testMode = s.testMode := rfl
@[simp] theorem State.modArr_now (a : Nat) (f : Arr → Arr) : (s.modArr a f).now = s.now := rfl
@[simp] theorem State.modArr_free (a : Nat) (f : Arr → Arr) : (s.modArr a f).free = s.free := rfl
@[simp] theorem State.modArr_regs (a : Nat) (f : Arr → Arr) : (s.modArr a f).regs = s.regs := rfl
@[simp] theorem State.modArr_hostA (a : Nat) (f : Arr → Arr) : (s.modArr a f).hostA = s.hostA := rfl
@[simp] theorem State.modArr_hostB (a : Nat) (f : Arr → Arr) : (s.modArr a f).hostB = s.hostB := rfl
@[simp] theorem State.modArr_steward (a : Nat) (f : Arr → Arr) : (s.modArr a f).steward = s.steward := rfl
@[simp] theorem State.modArr_tenant (a : Nat) (f : Arr → Arr) : (s.modArr a f).tenant = s.tenant := rfl
@[simp] theorem State.modArr_smbus (a : Nat) (f : Arr → Arr) : (s.modArr a f).smbus = s.smbus := rfl
@[simp] theorem State.modArr_smbusNack (a : Nat) (f : Arr → Arr) : (s.modArr a f).smbusNack = s.smbusNack := rfl
@[simp] theorem State.modArr_jtag (a : Nat) (f : Arr → Arr) : (s.modArr a f).jtag = s.jtag := rfl
@[simp] theorem State.modArr_ctxs (a : Nat) (f : Arr → Arr) : (s.modArr a f).ctxs = s.ctxs := rfl
@[simp] theorem State.modArr_pairs (a : Nat) (f : Arr → Arr) : (s.modArr a f).pairs = s.pairs := rfl
@[simp] theorem State.modArr_prus (a : Nat) (f : Arr → Arr) : (s.modArr a f).prus = s.prus := rfl
@[simp] theorem State.modArr_slices (a : Nat) (f : Arr → Arr) : (s.modArr a f).slices = s.slices := rfl
@[simp] theorem State.modArr_signals (a : Nat) (f : Arr → Arr) : (s.modArr a f).signals = s.signals := rfl
@[simp] theorem State.modArr_waiters (a : Nat) (f : Arr → Arr) : (s.modArr a f).waiters = s.waiters := rfl
@[simp] theorem State.modArr_granted (a : Nat) (f : Arr → Arr) : (s.modArr a f).granted = s.granted := rfl
@[simp] theorem State.modArr_samplers (a : Nat) (f : Arr → Arr) : (s.modArr a f).samplers = s.samplers := rfl
@[simp] theorem State.modArr_swapArrays (a : Nat) (f : Arr → Arr) : (s.modArr a f).swapArrays = s.swapArrays := rfl
@[simp] theorem State.modArr_swapWaiters (a : Nat) (f : Arr → Arr) : (s.modArr a f).swapWaiters = s.swapWaiters := rfl
@[simp] theorem State.modArr_weirQuiet (a : Nat) (f : Arr → Arr) : (s.modArr a f).weirQuiet = s.weirQuiet := rfl
@[simp] theorem State.modArr_hbm (a : Nat) (f : Arr → Arr) : (s.modArr a f).hbm = s.hbm := rfl
@[simp] theorem State.modArr_sites (a : Nat) (f : Arr → Arr) : (s.modArr a f).sites = s.sites := rfl
@[simp] theorem State.modArr_held (a : Nat) (f : Arr → Arr) : (s.modArr a f).held = s.held := rfl
@[simp] theorem State.modArr_asking (a : Nat) (f : Arr → Arr) : (s.modArr a f).asking = s.asking := rfl
@[simp] theorem State.modArr_outstanding (a : Nat) (f : Arr → Arr) : (s.modArr a f).outstanding = s.outstanding := rfl
@[simp] theorem State.modArr_granaries (a : Nat) (f : Arr → Arr) : (s.modArr a f).granaries = s.granaries := rfl
@[simp] theorem State.modArr_objects (a : Nat) (f : Arr → Arr) : (s.modArr a f).objects = s.objects := rfl
@[simp] theorem State.modArr_stats (a : Nat) (f : Arr → Arr) : (s.modArr a f).stats = s.stats := rfl
@[simp] theorem State.modArr_blocks (a : Nat) (f : Arr → Arr) : (s.modArr a f).blocks = s.blocks := rfl
@[simp] theorem State.modArr_curv (a : Nat) (f : Arr → Arr) : (s.modArr a f).curv = s.curv := rfl
@[simp] theorem State.modArr_runs (a : Nat) (f : Arr → Arr) : (s.modArr a f).runs = s.runs := rfl
@[simp] theorem State.modArr_gran (a : Nat) (f : Arr → Arr) : (s.modArr a f).gran = s.gran := rfl
@[simp] theorem State.modArr_lastSealed (a : Nat) (f : Arr → Arr) : (s.modArr a f).lastSealed = s.lastSealed := rfl
@[simp] theorem State.modArr_txns (a : Nat) (f : Arr → Arr) : (s.modArr a f).txns = s.txns := rfl
@[simp] theorem State.modArr_txnCount (a : Nat) (f : Arr → Arr) : (s.modArr a f).txnCount = s.txnCount := rfl
@[simp] theorem State.modArr_shadowDue (a : Nat) (f : Arr → Arr) : (s.modArr a f).shadowDue = s.shadowDue := rfl
@[simp] theorem State.modArr_num (a : Nat) (f : Arr → Arr) : (s.modArr a f).num = s.num := rfl
@[simp] theorem State.modArr_problems (a : Nat) (f : Arr → Arr) : (s.modArr a f).problems = s.problems := rfl
@[simp] theorem State.modArr_batches (a : Nat) (f : Arr → Arr) : (s.modArr a f).batches = s.batches := rfl
@[simp] theorem State.modArr_deltas (a : Nat) (f : Arr → Arr) : (s.modArr a f).deltas = s.deltas := rfl
@[simp] theorem State.modArr_group (a : Nat) (f : Arr → Arr) : (s.modArr a f).group = s.group := rfl
@[simp] theorem State.modArr_cad (a : Nat) (f : Arr → Arr) : (s.modArr a f).cad = s.cad := rfl
@[simp] theorem State.modArr_pulses (a : Nat) (f : Arr → Arr) : (s.modArr a f).pulses = s.pulses := rfl
@[simp] theorem State.modArr_levels (a : Nat) (f : Arr → Arr) : (s.modArr a f).levels = s.levels := rfl
@[simp] theorem State.modArr_bwLatched (a : Nat) (f : Arr → Arr) : (s.modArr a f).bwLatched = s.bwLatched := rfl
@[simp] theorem State.modArr_bwSeq (a : Nat) (f : Arr → Arr) : (s.modArr a f).bwSeq = s.bwSeq := rfl
@[simp] theorem State.modArr_bwSince (a : Nat) (f : Arr → Arr) : (s.modArr a f).bwSince = s.bwSince := rfl
@[simp] theorem State.modArr_bwLength (a : Nat) (f : Arr → Arr) : (s.modArr a f).bwLength = s.bwLength := rfl
@[simp] theorem State.modArr_tenantPmc (a : Nat) (f : Arr → Arr) : (s.modArr a f).tenantPmc = s.tenantPmc := rfl
@[simp] theorem State.modArr_boot (a : Nat) (f : Arr → Arr) : (s.modArr a f).boot = s.boot := rfl
@[simp] theorem State.modArr_power (a : Nat) (f : Arr → Arr) : (s.modArr a f).power = s.power := rfl
@[simp] theorem State.modArr_ras (a : Nat) (f : Arr → Arr) : (s.modArr a f).ras = s.ras := rfl
@[simp] theorem State.modArr_attestCount (a : Nat) (f : Arr → Arr) : (s.modArr a f).attestCount = s.attestCount := rfl
@[simp] theorem State.modArr_attestQueue (a : Nat) (f : Arr → Arr) : (s.modArr a f).attestQueue = s.attestQueue := rfl

/-! ### State.modPair -/

@[simp] theorem State.modPair_pending (p : Nat) (f : TwinPair → TwinPair) : (s.modPair p f).pending = s.pending := rfl
@[simp] theorem State.modPair_pwrok (p : Nat) (f : TwinPair → TwinPair) : (s.modPair p f).pwrok = s.pwrok := rfl
@[simp] theorem State.modPair_rstHigh (p : Nat) (f : TwinPair → TwinPair) : (s.modPair p f).rstHigh = s.rstHigh := rfl
@[simp] theorem State.modPair_portaRole (p : Nat) (f : TwinPair → TwinPair) : (s.modPair p f).portaRole = s.portaRole := rfl
@[simp] theorem State.modPair_testMode (p : Nat) (f : TwinPair → TwinPair) : (s.modPair p f).testMode = s.testMode := rfl
@[simp] theorem State.modPair_now (p : Nat) (f : TwinPair → TwinPair) : (s.modPair p f).now = s.now := rfl
@[simp] theorem State.modPair_free (p : Nat) (f : TwinPair → TwinPair) : (s.modPair p f).free = s.free := rfl
@[simp] theorem State.modPair_regs (p : Nat) (f : TwinPair → TwinPair) : (s.modPair p f).regs = s.regs := rfl
@[simp] theorem State.modPair_hostA (p : Nat) (f : TwinPair → TwinPair) : (s.modPair p f).hostA = s.hostA := rfl
@[simp] theorem State.modPair_hostB (p : Nat) (f : TwinPair → TwinPair) : (s.modPair p f).hostB = s.hostB := rfl
@[simp] theorem State.modPair_steward (p : Nat) (f : TwinPair → TwinPair) : (s.modPair p f).steward = s.steward := rfl
@[simp] theorem State.modPair_tenant (p : Nat) (f : TwinPair → TwinPair) : (s.modPair p f).tenant = s.tenant := rfl
@[simp] theorem State.modPair_smbus (p : Nat) (f : TwinPair → TwinPair) : (s.modPair p f).smbus = s.smbus := rfl
@[simp] theorem State.modPair_smbusNack (p : Nat) (f : TwinPair → TwinPair) : (s.modPair p f).smbusNack = s.smbusNack := rfl
@[simp] theorem State.modPair_jtag (p : Nat) (f : TwinPair → TwinPair) : (s.modPair p f).jtag = s.jtag := rfl
@[simp] theorem State.modPair_ctxs (p : Nat) (f : TwinPair → TwinPair) : (s.modPair p f).ctxs = s.ctxs := rfl
@[simp] theorem State.modPair_arrays (p : Nat) (f : TwinPair → TwinPair) : (s.modPair p f).arrays = s.arrays := rfl
@[simp] theorem State.modPair_prus (p : Nat) (f : TwinPair → TwinPair) : (s.modPair p f).prus = s.prus := rfl
@[simp] theorem State.modPair_slices (p : Nat) (f : TwinPair → TwinPair) : (s.modPair p f).slices = s.slices := rfl
@[simp] theorem State.modPair_signals (p : Nat) (f : TwinPair → TwinPair) : (s.modPair p f).signals = s.signals := rfl
@[simp] theorem State.modPair_waiters (p : Nat) (f : TwinPair → TwinPair) : (s.modPair p f).waiters = s.waiters := rfl
@[simp] theorem State.modPair_granted (p : Nat) (f : TwinPair → TwinPair) : (s.modPair p f).granted = s.granted := rfl
@[simp] theorem State.modPair_samplers (p : Nat) (f : TwinPair → TwinPair) : (s.modPair p f).samplers = s.samplers := rfl
@[simp] theorem State.modPair_swapArrays (p : Nat) (f : TwinPair → TwinPair) : (s.modPair p f).swapArrays = s.swapArrays := rfl
@[simp] theorem State.modPair_swapWaiters (p : Nat) (f : TwinPair → TwinPair) : (s.modPair p f).swapWaiters = s.swapWaiters := rfl
@[simp] theorem State.modPair_weirQuiet (p : Nat) (f : TwinPair → TwinPair) : (s.modPair p f).weirQuiet = s.weirQuiet := rfl
@[simp] theorem State.modPair_hbm (p : Nat) (f : TwinPair → TwinPair) : (s.modPair p f).hbm = s.hbm := rfl
@[simp] theorem State.modPair_sites (p : Nat) (f : TwinPair → TwinPair) : (s.modPair p f).sites = s.sites := rfl
@[simp] theorem State.modPair_held (p : Nat) (f : TwinPair → TwinPair) : (s.modPair p f).held = s.held := rfl
@[simp] theorem State.modPair_asking (p : Nat) (f : TwinPair → TwinPair) : (s.modPair p f).asking = s.asking := rfl
@[simp] theorem State.modPair_outstanding (p : Nat) (f : TwinPair → TwinPair) : (s.modPair p f).outstanding = s.outstanding := rfl
@[simp] theorem State.modPair_granaries (p : Nat) (f : TwinPair → TwinPair) : (s.modPair p f).granaries = s.granaries := rfl
@[simp] theorem State.modPair_objects (p : Nat) (f : TwinPair → TwinPair) : (s.modPair p f).objects = s.objects := rfl
@[simp] theorem State.modPair_stats (p : Nat) (f : TwinPair → TwinPair) : (s.modPair p f).stats = s.stats := rfl
@[simp] theorem State.modPair_blocks (p : Nat) (f : TwinPair → TwinPair) : (s.modPair p f).blocks = s.blocks := rfl
@[simp] theorem State.modPair_curv (p : Nat) (f : TwinPair → TwinPair) : (s.modPair p f).curv = s.curv := rfl
@[simp] theorem State.modPair_runs (p : Nat) (f : TwinPair → TwinPair) : (s.modPair p f).runs = s.runs := rfl
@[simp] theorem State.modPair_gran (p : Nat) (f : TwinPair → TwinPair) : (s.modPair p f).gran = s.gran := rfl
@[simp] theorem State.modPair_lastSealed (p : Nat) (f : TwinPair → TwinPair) : (s.modPair p f).lastSealed = s.lastSealed := rfl
@[simp] theorem State.modPair_txns (p : Nat) (f : TwinPair → TwinPair) : (s.modPair p f).txns = s.txns := rfl
@[simp] theorem State.modPair_txnCount (p : Nat) (f : TwinPair → TwinPair) : (s.modPair p f).txnCount = s.txnCount := rfl
@[simp] theorem State.modPair_shadowDue (p : Nat) (f : TwinPair → TwinPair) : (s.modPair p f).shadowDue = s.shadowDue := rfl
@[simp] theorem State.modPair_num (p : Nat) (f : TwinPair → TwinPair) : (s.modPair p f).num = s.num := rfl
@[simp] theorem State.modPair_problems (p : Nat) (f : TwinPair → TwinPair) : (s.modPair p f).problems = s.problems := rfl
@[simp] theorem State.modPair_batches (p : Nat) (f : TwinPair → TwinPair) : (s.modPair p f).batches = s.batches := rfl
@[simp] theorem State.modPair_deltas (p : Nat) (f : TwinPair → TwinPair) : (s.modPair p f).deltas = s.deltas := rfl
@[simp] theorem State.modPair_group (p : Nat) (f : TwinPair → TwinPair) : (s.modPair p f).group = s.group := rfl
@[simp] theorem State.modPair_cad (p : Nat) (f : TwinPair → TwinPair) : (s.modPair p f).cad = s.cad := rfl
@[simp] theorem State.modPair_pulses (p : Nat) (f : TwinPair → TwinPair) : (s.modPair p f).pulses = s.pulses := rfl
@[simp] theorem State.modPair_levels (p : Nat) (f : TwinPair → TwinPair) : (s.modPair p f).levels = s.levels := rfl
@[simp] theorem State.modPair_bwLatched (p : Nat) (f : TwinPair → TwinPair) : (s.modPair p f).bwLatched = s.bwLatched := rfl
@[simp] theorem State.modPair_bwSeq (p : Nat) (f : TwinPair → TwinPair) : (s.modPair p f).bwSeq = s.bwSeq := rfl
@[simp] theorem State.modPair_bwSince (p : Nat) (f : TwinPair → TwinPair) : (s.modPair p f).bwSince = s.bwSince := rfl
@[simp] theorem State.modPair_bwLength (p : Nat) (f : TwinPair → TwinPair) : (s.modPair p f).bwLength = s.bwLength := rfl
@[simp] theorem State.modPair_tenantPmc (p : Nat) (f : TwinPair → TwinPair) : (s.modPair p f).tenantPmc = s.tenantPmc := rfl
@[simp] theorem State.modPair_boot (p : Nat) (f : TwinPair → TwinPair) : (s.modPair p f).boot = s.boot := rfl
@[simp] theorem State.modPair_power (p : Nat) (f : TwinPair → TwinPair) : (s.modPair p f).power = s.power := rfl
@[simp] theorem State.modPair_ras (p : Nat) (f : TwinPair → TwinPair) : (s.modPair p f).ras = s.ras := rfl
@[simp] theorem State.modPair_attestCount (p : Nat) (f : TwinPair → TwinPair) : (s.modPair p f).attestCount = s.attestCount := rfl
@[simp] theorem State.modPair_attestQueue (p : Nat) (f : TwinPair → TwinPair) : (s.modPair p f).attestQueue = s.attestQueue := rfl

/-! ### State.modSite -/

@[simp] theorem State.modSite_pending (n : Nat) (f : Stack → Stack) : (s.modSite n f).pending = s.pending := rfl
@[simp] theorem State.modSite_pwrok (n : Nat) (f : Stack → Stack) : (s.modSite n f).pwrok = s.pwrok := rfl
@[simp] theorem State.modSite_rstHigh (n : Nat) (f : Stack → Stack) : (s.modSite n f).rstHigh = s.rstHigh := rfl
@[simp] theorem State.modSite_portaRole (n : Nat) (f : Stack → Stack) : (s.modSite n f).portaRole = s.portaRole := rfl
@[simp] theorem State.modSite_testMode (n : Nat) (f : Stack → Stack) : (s.modSite n f).testMode = s.testMode := rfl
@[simp] theorem State.modSite_now (n : Nat) (f : Stack → Stack) : (s.modSite n f).now = s.now := rfl
@[simp] theorem State.modSite_free (n : Nat) (f : Stack → Stack) : (s.modSite n f).free = s.free := rfl
@[simp] theorem State.modSite_regs (n : Nat) (f : Stack → Stack) : (s.modSite n f).regs = s.regs := rfl
@[simp] theorem State.modSite_hostA (n : Nat) (f : Stack → Stack) : (s.modSite n f).hostA = s.hostA := rfl
@[simp] theorem State.modSite_hostB (n : Nat) (f : Stack → Stack) : (s.modSite n f).hostB = s.hostB := rfl
@[simp] theorem State.modSite_steward (n : Nat) (f : Stack → Stack) : (s.modSite n f).steward = s.steward := rfl
@[simp] theorem State.modSite_tenant (n : Nat) (f : Stack → Stack) : (s.modSite n f).tenant = s.tenant := rfl
@[simp] theorem State.modSite_smbus (n : Nat) (f : Stack → Stack) : (s.modSite n f).smbus = s.smbus := rfl
@[simp] theorem State.modSite_smbusNack (n : Nat) (f : Stack → Stack) : (s.modSite n f).smbusNack = s.smbusNack := rfl
@[simp] theorem State.modSite_jtag (n : Nat) (f : Stack → Stack) : (s.modSite n f).jtag = s.jtag := rfl
@[simp] theorem State.modSite_ctxs (n : Nat) (f : Stack → Stack) : (s.modSite n f).ctxs = s.ctxs := rfl
@[simp] theorem State.modSite_pairs (n : Nat) (f : Stack → Stack) : (s.modSite n f).pairs = s.pairs := rfl
@[simp] theorem State.modSite_arrays (n : Nat) (f : Stack → Stack) : (s.modSite n f).arrays = s.arrays := rfl
@[simp] theorem State.modSite_prus (n : Nat) (f : Stack → Stack) : (s.modSite n f).prus = s.prus := rfl
@[simp] theorem State.modSite_slices (n : Nat) (f : Stack → Stack) : (s.modSite n f).slices = s.slices := rfl
@[simp] theorem State.modSite_signals (n : Nat) (f : Stack → Stack) : (s.modSite n f).signals = s.signals := rfl
@[simp] theorem State.modSite_waiters (n : Nat) (f : Stack → Stack) : (s.modSite n f).waiters = s.waiters := rfl
@[simp] theorem State.modSite_granted (n : Nat) (f : Stack → Stack) : (s.modSite n f).granted = s.granted := rfl
@[simp] theorem State.modSite_samplers (n : Nat) (f : Stack → Stack) : (s.modSite n f).samplers = s.samplers := rfl
@[simp] theorem State.modSite_swapArrays (n : Nat) (f : Stack → Stack) : (s.modSite n f).swapArrays = s.swapArrays := rfl
@[simp] theorem State.modSite_swapWaiters (n : Nat) (f : Stack → Stack) : (s.modSite n f).swapWaiters = s.swapWaiters := rfl
@[simp] theorem State.modSite_weirQuiet (n : Nat) (f : Stack → Stack) : (s.modSite n f).weirQuiet = s.weirQuiet := rfl
@[simp] theorem State.modSite_hbm (n : Nat) (f : Stack → Stack) : (s.modSite n f).hbm = s.hbm := rfl
@[simp] theorem State.modSite_held (n : Nat) (f : Stack → Stack) : (s.modSite n f).held = s.held := rfl
@[simp] theorem State.modSite_asking (n : Nat) (f : Stack → Stack) : (s.modSite n f).asking = s.asking := rfl
@[simp] theorem State.modSite_outstanding (n : Nat) (f : Stack → Stack) : (s.modSite n f).outstanding = s.outstanding := rfl
@[simp] theorem State.modSite_granaries (n : Nat) (f : Stack → Stack) : (s.modSite n f).granaries = s.granaries := rfl
@[simp] theorem State.modSite_objects (n : Nat) (f : Stack → Stack) : (s.modSite n f).objects = s.objects := rfl
@[simp] theorem State.modSite_stats (n : Nat) (f : Stack → Stack) : (s.modSite n f).stats = s.stats := rfl
@[simp] theorem State.modSite_blocks (n : Nat) (f : Stack → Stack) : (s.modSite n f).blocks = s.blocks := rfl
@[simp] theorem State.modSite_curv (n : Nat) (f : Stack → Stack) : (s.modSite n f).curv = s.curv := rfl
@[simp] theorem State.modSite_runs (n : Nat) (f : Stack → Stack) : (s.modSite n f).runs = s.runs := rfl
@[simp] theorem State.modSite_gran (n : Nat) (f : Stack → Stack) : (s.modSite n f).gran = s.gran := rfl
@[simp] theorem State.modSite_lastSealed (n : Nat) (f : Stack → Stack) : (s.modSite n f).lastSealed = s.lastSealed := rfl
@[simp] theorem State.modSite_txns (n : Nat) (f : Stack → Stack) : (s.modSite n f).txns = s.txns := rfl
@[simp] theorem State.modSite_txnCount (n : Nat) (f : Stack → Stack) : (s.modSite n f).txnCount = s.txnCount := rfl
@[simp] theorem State.modSite_shadowDue (n : Nat) (f : Stack → Stack) : (s.modSite n f).shadowDue = s.shadowDue := rfl
@[simp] theorem State.modSite_num (n : Nat) (f : Stack → Stack) : (s.modSite n f).num = s.num := rfl
@[simp] theorem State.modSite_problems (n : Nat) (f : Stack → Stack) : (s.modSite n f).problems = s.problems := rfl
@[simp] theorem State.modSite_batches (n : Nat) (f : Stack → Stack) : (s.modSite n f).batches = s.batches := rfl
@[simp] theorem State.modSite_deltas (n : Nat) (f : Stack → Stack) : (s.modSite n f).deltas = s.deltas := rfl
@[simp] theorem State.modSite_group (n : Nat) (f : Stack → Stack) : (s.modSite n f).group = s.group := rfl
@[simp] theorem State.modSite_cad (n : Nat) (f : Stack → Stack) : (s.modSite n f).cad = s.cad := rfl
@[simp] theorem State.modSite_pulses (n : Nat) (f : Stack → Stack) : (s.modSite n f).pulses = s.pulses := rfl
@[simp] theorem State.modSite_levels (n : Nat) (f : Stack → Stack) : (s.modSite n f).levels = s.levels := rfl
@[simp] theorem State.modSite_bwLatched (n : Nat) (f : Stack → Stack) : (s.modSite n f).bwLatched = s.bwLatched := rfl
@[simp] theorem State.modSite_bwSeq (n : Nat) (f : Stack → Stack) : (s.modSite n f).bwSeq = s.bwSeq := rfl
@[simp] theorem State.modSite_bwSince (n : Nat) (f : Stack → Stack) : (s.modSite n f).bwSince = s.bwSince := rfl
@[simp] theorem State.modSite_bwLength (n : Nat) (f : Stack → Stack) : (s.modSite n f).bwLength = s.bwLength := rfl
@[simp] theorem State.modSite_tenantPmc (n : Nat) (f : Stack → Stack) : (s.modSite n f).tenantPmc = s.tenantPmc := rfl
@[simp] theorem State.modSite_boot (n : Nat) (f : Stack → Stack) : (s.modSite n f).boot = s.boot := rfl
@[simp] theorem State.modSite_power (n : Nat) (f : Stack → Stack) : (s.modSite n f).power = s.power := rfl
@[simp] theorem State.modSite_ras (n : Nat) (f : Stack → Stack) : (s.modSite n f).ras = s.ras := rfl
@[simp] theorem State.modSite_attestCount (n : Nat) (f : Stack → Stack) : (s.modSite n f).attestCount = s.attestCount := rfl
@[simp] theorem State.modSite_attestQueue (n : Nat) (f : Stack → Stack) : (s.modSite n f).attestQueue = s.attestQueue := rfl

/-! ### State.modGranary -/

@[simp] theorem State.modGranary_pending (n : Nat) (f : Granary → Granary) : (s.modGranary n f).pending = s.pending := rfl
@[simp] theorem State.modGranary_pwrok (n : Nat) (f : Granary → Granary) : (s.modGranary n f).pwrok = s.pwrok := rfl
@[simp] theorem State.modGranary_rstHigh (n : Nat) (f : Granary → Granary) : (s.modGranary n f).rstHigh = s.rstHigh := rfl
@[simp] theorem State.modGranary_portaRole (n : Nat) (f : Granary → Granary) : (s.modGranary n f).portaRole = s.portaRole := rfl
@[simp] theorem State.modGranary_testMode (n : Nat) (f : Granary → Granary) : (s.modGranary n f).testMode = s.testMode := rfl
@[simp] theorem State.modGranary_now (n : Nat) (f : Granary → Granary) : (s.modGranary n f).now = s.now := rfl
@[simp] theorem State.modGranary_free (n : Nat) (f : Granary → Granary) : (s.modGranary n f).free = s.free := rfl
@[simp] theorem State.modGranary_regs (n : Nat) (f : Granary → Granary) : (s.modGranary n f).regs = s.regs := rfl
@[simp] theorem State.modGranary_hostA (n : Nat) (f : Granary → Granary) : (s.modGranary n f).hostA = s.hostA := rfl
@[simp] theorem State.modGranary_hostB (n : Nat) (f : Granary → Granary) : (s.modGranary n f).hostB = s.hostB := rfl
@[simp] theorem State.modGranary_steward (n : Nat) (f : Granary → Granary) : (s.modGranary n f).steward = s.steward := rfl
@[simp] theorem State.modGranary_tenant (n : Nat) (f : Granary → Granary) : (s.modGranary n f).tenant = s.tenant := rfl
@[simp] theorem State.modGranary_smbus (n : Nat) (f : Granary → Granary) : (s.modGranary n f).smbus = s.smbus := rfl
@[simp] theorem State.modGranary_smbusNack (n : Nat) (f : Granary → Granary) : (s.modGranary n f).smbusNack = s.smbusNack := rfl
@[simp] theorem State.modGranary_jtag (n : Nat) (f : Granary → Granary) : (s.modGranary n f).jtag = s.jtag := rfl
@[simp] theorem State.modGranary_ctxs (n : Nat) (f : Granary → Granary) : (s.modGranary n f).ctxs = s.ctxs := rfl
@[simp] theorem State.modGranary_pairs (n : Nat) (f : Granary → Granary) : (s.modGranary n f).pairs = s.pairs := rfl
@[simp] theorem State.modGranary_arrays (n : Nat) (f : Granary → Granary) : (s.modGranary n f).arrays = s.arrays := rfl
@[simp] theorem State.modGranary_prus (n : Nat) (f : Granary → Granary) : (s.modGranary n f).prus = s.prus := rfl
@[simp] theorem State.modGranary_slices (n : Nat) (f : Granary → Granary) : (s.modGranary n f).slices = s.slices := rfl
@[simp] theorem State.modGranary_signals (n : Nat) (f : Granary → Granary) : (s.modGranary n f).signals = s.signals := rfl
@[simp] theorem State.modGranary_waiters (n : Nat) (f : Granary → Granary) : (s.modGranary n f).waiters = s.waiters := rfl
@[simp] theorem State.modGranary_granted (n : Nat) (f : Granary → Granary) : (s.modGranary n f).granted = s.granted := rfl
@[simp] theorem State.modGranary_samplers (n : Nat) (f : Granary → Granary) : (s.modGranary n f).samplers = s.samplers := rfl
@[simp] theorem State.modGranary_swapArrays (n : Nat) (f : Granary → Granary) : (s.modGranary n f).swapArrays = s.swapArrays := rfl
@[simp] theorem State.modGranary_swapWaiters (n : Nat) (f : Granary → Granary) : (s.modGranary n f).swapWaiters = s.swapWaiters := rfl
@[simp] theorem State.modGranary_weirQuiet (n : Nat) (f : Granary → Granary) : (s.modGranary n f).weirQuiet = s.weirQuiet := rfl
@[simp] theorem State.modGranary_hbm (n : Nat) (f : Granary → Granary) : (s.modGranary n f).hbm = s.hbm := rfl
@[simp] theorem State.modGranary_sites (n : Nat) (f : Granary → Granary) : (s.modGranary n f).sites = s.sites := rfl
@[simp] theorem State.modGranary_held (n : Nat) (f : Granary → Granary) : (s.modGranary n f).held = s.held := rfl
@[simp] theorem State.modGranary_asking (n : Nat) (f : Granary → Granary) : (s.modGranary n f).asking = s.asking := rfl
@[simp] theorem State.modGranary_outstanding (n : Nat) (f : Granary → Granary) : (s.modGranary n f).outstanding = s.outstanding := rfl
@[simp] theorem State.modGranary_objects (n : Nat) (f : Granary → Granary) : (s.modGranary n f).objects = s.objects := rfl
@[simp] theorem State.modGranary_stats (n : Nat) (f : Granary → Granary) : (s.modGranary n f).stats = s.stats := rfl
@[simp] theorem State.modGranary_blocks (n : Nat) (f : Granary → Granary) : (s.modGranary n f).blocks = s.blocks := rfl
@[simp] theorem State.modGranary_curv (n : Nat) (f : Granary → Granary) : (s.modGranary n f).curv = s.curv := rfl
@[simp] theorem State.modGranary_runs (n : Nat) (f : Granary → Granary) : (s.modGranary n f).runs = s.runs := rfl
@[simp] theorem State.modGranary_gran (n : Nat) (f : Granary → Granary) : (s.modGranary n f).gran = s.gran := rfl
@[simp] theorem State.modGranary_lastSealed (n : Nat) (f : Granary → Granary) : (s.modGranary n f).lastSealed = s.lastSealed := rfl
@[simp] theorem State.modGranary_txns (n : Nat) (f : Granary → Granary) : (s.modGranary n f).txns = s.txns := rfl
@[simp] theorem State.modGranary_txnCount (n : Nat) (f : Granary → Granary) : (s.modGranary n f).txnCount = s.txnCount := rfl
@[simp] theorem State.modGranary_shadowDue (n : Nat) (f : Granary → Granary) : (s.modGranary n f).shadowDue = s.shadowDue := rfl
@[simp] theorem State.modGranary_num (n : Nat) (f : Granary → Granary) : (s.modGranary n f).num = s.num := rfl
@[simp] theorem State.modGranary_problems (n : Nat) (f : Granary → Granary) : (s.modGranary n f).problems = s.problems := rfl
@[simp] theorem State.modGranary_batches (n : Nat) (f : Granary → Granary) : (s.modGranary n f).batches = s.batches := rfl
@[simp] theorem State.modGranary_deltas (n : Nat) (f : Granary → Granary) : (s.modGranary n f).deltas = s.deltas := rfl
@[simp] theorem State.modGranary_group (n : Nat) (f : Granary → Granary) : (s.modGranary n f).group = s.group := rfl
@[simp] theorem State.modGranary_cad (n : Nat) (f : Granary → Granary) : (s.modGranary n f).cad = s.cad := rfl
@[simp] theorem State.modGranary_pulses (n : Nat) (f : Granary → Granary) : (s.modGranary n f).pulses = s.pulses := rfl
@[simp] theorem State.modGranary_levels (n : Nat) (f : Granary → Granary) : (s.modGranary n f).levels = s.levels := rfl
@[simp] theorem State.modGranary_bwLatched (n : Nat) (f : Granary → Granary) : (s.modGranary n f).bwLatched = s.bwLatched := rfl
@[simp] theorem State.modGranary_bwSeq (n : Nat) (f : Granary → Granary) : (s.modGranary n f).bwSeq = s.bwSeq := rfl
@[simp] theorem State.modGranary_bwSince (n : Nat) (f : Granary → Granary) : (s.modGranary n f).bwSince = s.bwSince := rfl
@[simp] theorem State.modGranary_bwLength (n : Nat) (f : Granary → Granary) : (s.modGranary n f).bwLength = s.bwLength := rfl
@[simp] theorem State.modGranary_tenantPmc (n : Nat) (f : Granary → Granary) : (s.modGranary n f).tenantPmc = s.tenantPmc := rfl
@[simp] theorem State.modGranary_boot (n : Nat) (f : Granary → Granary) : (s.modGranary n f).boot = s.boot := rfl
@[simp] theorem State.modGranary_power (n : Nat) (f : Granary → Granary) : (s.modGranary n f).power = s.power := rfl
@[simp] theorem State.modGranary_ras (n : Nat) (f : Granary → Granary) : (s.modGranary n f).ras = s.ras := rfl
@[simp] theorem State.modGranary_attestCount (n : Nat) (f : Granary → Granary) : (s.modGranary n f).attestCount = s.attestCount := rfl
@[simp] theorem State.modGranary_attestQueue (n : Nat) (f : Granary → Granary) : (s.modGranary n f).attestQueue = s.attestQueue := rfl

/-! ### State.setSlice -/

@[simp] theorem State.setSlice_pending (n : Nat) (m : Memory) : (s.setSlice n m).pending = s.pending := rfl
@[simp] theorem State.setSlice_pwrok (n : Nat) (m : Memory) : (s.setSlice n m).pwrok = s.pwrok := rfl
@[simp] theorem State.setSlice_rstHigh (n : Nat) (m : Memory) : (s.setSlice n m).rstHigh = s.rstHigh := rfl
@[simp] theorem State.setSlice_portaRole (n : Nat) (m : Memory) : (s.setSlice n m).portaRole = s.portaRole := rfl
@[simp] theorem State.setSlice_testMode (n : Nat) (m : Memory) : (s.setSlice n m).testMode = s.testMode := rfl
@[simp] theorem State.setSlice_now (n : Nat) (m : Memory) : (s.setSlice n m).now = s.now := rfl
@[simp] theorem State.setSlice_free (n : Nat) (m : Memory) : (s.setSlice n m).free = s.free := rfl
@[simp] theorem State.setSlice_regs (n : Nat) (m : Memory) : (s.setSlice n m).regs = s.regs := rfl
@[simp] theorem State.setSlice_hostA (n : Nat) (m : Memory) : (s.setSlice n m).hostA = s.hostA := rfl
@[simp] theorem State.setSlice_hostB (n : Nat) (m : Memory) : (s.setSlice n m).hostB = s.hostB := rfl
@[simp] theorem State.setSlice_steward (n : Nat) (m : Memory) : (s.setSlice n m).steward = s.steward := rfl
@[simp] theorem State.setSlice_tenant (n : Nat) (m : Memory) : (s.setSlice n m).tenant = s.tenant := rfl
@[simp] theorem State.setSlice_smbus (n : Nat) (m : Memory) : (s.setSlice n m).smbus = s.smbus := rfl
@[simp] theorem State.setSlice_smbusNack (n : Nat) (m : Memory) : (s.setSlice n m).smbusNack = s.smbusNack := rfl
@[simp] theorem State.setSlice_jtag (n : Nat) (m : Memory) : (s.setSlice n m).jtag = s.jtag := rfl
@[simp] theorem State.setSlice_ctxs (n : Nat) (m : Memory) : (s.setSlice n m).ctxs = s.ctxs := rfl
@[simp] theorem State.setSlice_pairs (n : Nat) (m : Memory) : (s.setSlice n m).pairs = s.pairs := rfl
@[simp] theorem State.setSlice_arrays (n : Nat) (m : Memory) : (s.setSlice n m).arrays = s.arrays := rfl
@[simp] theorem State.setSlice_prus (n : Nat) (m : Memory) : (s.setSlice n m).prus = s.prus := rfl
@[simp] theorem State.setSlice_signals (n : Nat) (m : Memory) : (s.setSlice n m).signals = s.signals := rfl
@[simp] theorem State.setSlice_waiters (n : Nat) (m : Memory) : (s.setSlice n m).waiters = s.waiters := rfl
@[simp] theorem State.setSlice_granted (n : Nat) (m : Memory) : (s.setSlice n m).granted = s.granted := rfl
@[simp] theorem State.setSlice_samplers (n : Nat) (m : Memory) : (s.setSlice n m).samplers = s.samplers := rfl
@[simp] theorem State.setSlice_swapArrays (n : Nat) (m : Memory) : (s.setSlice n m).swapArrays = s.swapArrays := rfl
@[simp] theorem State.setSlice_swapWaiters (n : Nat) (m : Memory) : (s.setSlice n m).swapWaiters = s.swapWaiters := rfl
@[simp] theorem State.setSlice_weirQuiet (n : Nat) (m : Memory) : (s.setSlice n m).weirQuiet = s.weirQuiet := rfl
@[simp] theorem State.setSlice_hbm (n : Nat) (m : Memory) : (s.setSlice n m).hbm = s.hbm := rfl
@[simp] theorem State.setSlice_sites (n : Nat) (m : Memory) : (s.setSlice n m).sites = s.sites := rfl
@[simp] theorem State.setSlice_held (n : Nat) (m : Memory) : (s.setSlice n m).held = s.held := rfl
@[simp] theorem State.setSlice_asking (n : Nat) (m : Memory) : (s.setSlice n m).asking = s.asking := rfl
@[simp] theorem State.setSlice_outstanding (n : Nat) (m : Memory) : (s.setSlice n m).outstanding = s.outstanding := rfl
@[simp] theorem State.setSlice_granaries (n : Nat) (m : Memory) : (s.setSlice n m).granaries = s.granaries := rfl
@[simp] theorem State.setSlice_objects (n : Nat) (m : Memory) : (s.setSlice n m).objects = s.objects := rfl
@[simp] theorem State.setSlice_stats (n : Nat) (m : Memory) : (s.setSlice n m).stats = s.stats := rfl
@[simp] theorem State.setSlice_blocks (n : Nat) (m : Memory) : (s.setSlice n m).blocks = s.blocks := rfl
@[simp] theorem State.setSlice_curv (n : Nat) (m : Memory) : (s.setSlice n m).curv = s.curv := rfl
@[simp] theorem State.setSlice_runs (n : Nat) (m : Memory) : (s.setSlice n m).runs = s.runs := rfl
@[simp] theorem State.setSlice_gran (n : Nat) (m : Memory) : (s.setSlice n m).gran = s.gran := rfl
@[simp] theorem State.setSlice_lastSealed (n : Nat) (m : Memory) : (s.setSlice n m).lastSealed = s.lastSealed := rfl
@[simp] theorem State.setSlice_txns (n : Nat) (m : Memory) : (s.setSlice n m).txns = s.txns := rfl
@[simp] theorem State.setSlice_txnCount (n : Nat) (m : Memory) : (s.setSlice n m).txnCount = s.txnCount := rfl
@[simp] theorem State.setSlice_shadowDue (n : Nat) (m : Memory) : (s.setSlice n m).shadowDue = s.shadowDue := rfl
@[simp] theorem State.setSlice_num (n : Nat) (m : Memory) : (s.setSlice n m).num = s.num := rfl
@[simp] theorem State.setSlice_problems (n : Nat) (m : Memory) : (s.setSlice n m).problems = s.problems := rfl
@[simp] theorem State.setSlice_batches (n : Nat) (m : Memory) : (s.setSlice n m).batches = s.batches := rfl
@[simp] theorem State.setSlice_deltas (n : Nat) (m : Memory) : (s.setSlice n m).deltas = s.deltas := rfl
@[simp] theorem State.setSlice_group (n : Nat) (m : Memory) : (s.setSlice n m).group = s.group := rfl
@[simp] theorem State.setSlice_cad (n : Nat) (m : Memory) : (s.setSlice n m).cad = s.cad := rfl
@[simp] theorem State.setSlice_pulses (n : Nat) (m : Memory) : (s.setSlice n m).pulses = s.pulses := rfl
@[simp] theorem State.setSlice_levels (n : Nat) (m : Memory) : (s.setSlice n m).levels = s.levels := rfl
@[simp] theorem State.setSlice_bwLatched (n : Nat) (m : Memory) : (s.setSlice n m).bwLatched = s.bwLatched := rfl
@[simp] theorem State.setSlice_bwSeq (n : Nat) (m : Memory) : (s.setSlice n m).bwSeq = s.bwSeq := rfl
@[simp] theorem State.setSlice_bwSince (n : Nat) (m : Memory) : (s.setSlice n m).bwSince = s.bwSince := rfl
@[simp] theorem State.setSlice_bwLength (n : Nat) (m : Memory) : (s.setSlice n m).bwLength = s.bwLength := rfl
@[simp] theorem State.setSlice_tenantPmc (n : Nat) (m : Memory) : (s.setSlice n m).tenantPmc = s.tenantPmc := rfl
@[simp] theorem State.setSlice_boot (n : Nat) (m : Memory) : (s.setSlice n m).boot = s.boot := rfl
@[simp] theorem State.setSlice_power (n : Nat) (m : Memory) : (s.setSlice n m).power = s.power := rfl
@[simp] theorem State.setSlice_ras (n : Nat) (m : Memory) : (s.setSlice n m).ras = s.ras := rfl
@[simp] theorem State.setSlice_attestCount (n : Nat) (m : Memory) : (s.setSlice n m).attestCount = s.attestCount := rfl
@[simp] theorem State.setSlice_attestQueue (n : Nat) (m : Memory) : (s.setSlice n m).attestQueue = s.attestQueue := rfl

/-! ### State.modObj -/

@[simp] theorem State.modObj_pending (o : Nat) (f : Obj → Obj) : (s.modObj o f).pending = s.pending := rfl
@[simp] theorem State.modObj_pwrok (o : Nat) (f : Obj → Obj) : (s.modObj o f).pwrok = s.pwrok := rfl
@[simp] theorem State.modObj_rstHigh (o : Nat) (f : Obj → Obj) : (s.modObj o f).rstHigh = s.rstHigh := rfl
@[simp] theorem State.modObj_portaRole (o : Nat) (f : Obj → Obj) : (s.modObj o f).portaRole = s.portaRole := rfl
@[simp] theorem State.modObj_testMode (o : Nat) (f : Obj → Obj) : (s.modObj o f).testMode = s.testMode := rfl
@[simp] theorem State.modObj_now (o : Nat) (f : Obj → Obj) : (s.modObj o f).now = s.now := rfl
@[simp] theorem State.modObj_free (o : Nat) (f : Obj → Obj) : (s.modObj o f).free = s.free := rfl
@[simp] theorem State.modObj_regs (o : Nat) (f : Obj → Obj) : (s.modObj o f).regs = s.regs := rfl
@[simp] theorem State.modObj_hostA (o : Nat) (f : Obj → Obj) : (s.modObj o f).hostA = s.hostA := rfl
@[simp] theorem State.modObj_hostB (o : Nat) (f : Obj → Obj) : (s.modObj o f).hostB = s.hostB := rfl
@[simp] theorem State.modObj_steward (o : Nat) (f : Obj → Obj) : (s.modObj o f).steward = s.steward := rfl
@[simp] theorem State.modObj_tenant (o : Nat) (f : Obj → Obj) : (s.modObj o f).tenant = s.tenant := rfl
@[simp] theorem State.modObj_smbus (o : Nat) (f : Obj → Obj) : (s.modObj o f).smbus = s.smbus := rfl
@[simp] theorem State.modObj_smbusNack (o : Nat) (f : Obj → Obj) : (s.modObj o f).smbusNack = s.smbusNack := rfl
@[simp] theorem State.modObj_jtag (o : Nat) (f : Obj → Obj) : (s.modObj o f).jtag = s.jtag := rfl
@[simp] theorem State.modObj_ctxs (o : Nat) (f : Obj → Obj) : (s.modObj o f).ctxs = s.ctxs := rfl
@[simp] theorem State.modObj_pairs (o : Nat) (f : Obj → Obj) : (s.modObj o f).pairs = s.pairs := rfl
@[simp] theorem State.modObj_arrays (o : Nat) (f : Obj → Obj) : (s.modObj o f).arrays = s.arrays := rfl
@[simp] theorem State.modObj_prus (o : Nat) (f : Obj → Obj) : (s.modObj o f).prus = s.prus := rfl
@[simp] theorem State.modObj_slices (o : Nat) (f : Obj → Obj) : (s.modObj o f).slices = s.slices := rfl
@[simp] theorem State.modObj_signals (o : Nat) (f : Obj → Obj) : (s.modObj o f).signals = s.signals := rfl
@[simp] theorem State.modObj_waiters (o : Nat) (f : Obj → Obj) : (s.modObj o f).waiters = s.waiters := rfl
@[simp] theorem State.modObj_granted (o : Nat) (f : Obj → Obj) : (s.modObj o f).granted = s.granted := rfl
@[simp] theorem State.modObj_samplers (o : Nat) (f : Obj → Obj) : (s.modObj o f).samplers = s.samplers := rfl
@[simp] theorem State.modObj_swapArrays (o : Nat) (f : Obj → Obj) : (s.modObj o f).swapArrays = s.swapArrays := rfl
@[simp] theorem State.modObj_swapWaiters (o : Nat) (f : Obj → Obj) : (s.modObj o f).swapWaiters = s.swapWaiters := rfl
@[simp] theorem State.modObj_weirQuiet (o : Nat) (f : Obj → Obj) : (s.modObj o f).weirQuiet = s.weirQuiet := rfl
@[simp] theorem State.modObj_hbm (o : Nat) (f : Obj → Obj) : (s.modObj o f).hbm = s.hbm := rfl
@[simp] theorem State.modObj_sites (o : Nat) (f : Obj → Obj) : (s.modObj o f).sites = s.sites := rfl
@[simp] theorem State.modObj_held (o : Nat) (f : Obj → Obj) : (s.modObj o f).held = s.held := rfl
@[simp] theorem State.modObj_asking (o : Nat) (f : Obj → Obj) : (s.modObj o f).asking = s.asking := rfl
@[simp] theorem State.modObj_outstanding (o : Nat) (f : Obj → Obj) : (s.modObj o f).outstanding = s.outstanding := rfl
@[simp] theorem State.modObj_granaries (o : Nat) (f : Obj → Obj) : (s.modObj o f).granaries = s.granaries := rfl
@[simp] theorem State.modObj_stats (o : Nat) (f : Obj → Obj) : (s.modObj o f).stats = s.stats := rfl
@[simp] theorem State.modObj_blocks (o : Nat) (f : Obj → Obj) : (s.modObj o f).blocks = s.blocks := rfl
@[simp] theorem State.modObj_curv (o : Nat) (f : Obj → Obj) : (s.modObj o f).curv = s.curv := rfl
@[simp] theorem State.modObj_runs (o : Nat) (f : Obj → Obj) : (s.modObj o f).runs = s.runs := rfl
@[simp] theorem State.modObj_gran (o : Nat) (f : Obj → Obj) : (s.modObj o f).gran = s.gran := rfl
@[simp] theorem State.modObj_lastSealed (o : Nat) (f : Obj → Obj) : (s.modObj o f).lastSealed = s.lastSealed := rfl
@[simp] theorem State.modObj_txns (o : Nat) (f : Obj → Obj) : (s.modObj o f).txns = s.txns := rfl
@[simp] theorem State.modObj_txnCount (o : Nat) (f : Obj → Obj) : (s.modObj o f).txnCount = s.txnCount := rfl
@[simp] theorem State.modObj_shadowDue (o : Nat) (f : Obj → Obj) : (s.modObj o f).shadowDue = s.shadowDue := rfl
@[simp] theorem State.modObj_num (o : Nat) (f : Obj → Obj) : (s.modObj o f).num = s.num := rfl
@[simp] theorem State.modObj_problems (o : Nat) (f : Obj → Obj) : (s.modObj o f).problems = s.problems := rfl
@[simp] theorem State.modObj_batches (o : Nat) (f : Obj → Obj) : (s.modObj o f).batches = s.batches := rfl
@[simp] theorem State.modObj_deltas (o : Nat) (f : Obj → Obj) : (s.modObj o f).deltas = s.deltas := rfl
@[simp] theorem State.modObj_group (o : Nat) (f : Obj → Obj) : (s.modObj o f).group = s.group := rfl
@[simp] theorem State.modObj_cad (o : Nat) (f : Obj → Obj) : (s.modObj o f).cad = s.cad := rfl
@[simp] theorem State.modObj_pulses (o : Nat) (f : Obj → Obj) : (s.modObj o f).pulses = s.pulses := rfl
@[simp] theorem State.modObj_levels (o : Nat) (f : Obj → Obj) : (s.modObj o f).levels = s.levels := rfl
@[simp] theorem State.modObj_bwLatched (o : Nat) (f : Obj → Obj) : (s.modObj o f).bwLatched = s.bwLatched := rfl
@[simp] theorem State.modObj_bwSeq (o : Nat) (f : Obj → Obj) : (s.modObj o f).bwSeq = s.bwSeq := rfl
@[simp] theorem State.modObj_bwSince (o : Nat) (f : Obj → Obj) : (s.modObj o f).bwSince = s.bwSince := rfl
@[simp] theorem State.modObj_bwLength (o : Nat) (f : Obj → Obj) : (s.modObj o f).bwLength = s.bwLength := rfl
@[simp] theorem State.modObj_tenantPmc (o : Nat) (f : Obj → Obj) : (s.modObj o f).tenantPmc = s.tenantPmc := rfl
@[simp] theorem State.modObj_boot (o : Nat) (f : Obj → Obj) : (s.modObj o f).boot = s.boot := rfl
@[simp] theorem State.modObj_power (o : Nat) (f : Obj → Obj) : (s.modObj o f).power = s.power := rfl
@[simp] theorem State.modObj_ras (o : Nat) (f : Obj → Obj) : (s.modObj o f).ras = s.ras := rfl
@[simp] theorem State.modObj_attestCount (o : Nat) (f : Obj → Obj) : (s.modObj o f).attestCount = s.attestCount := rfl
@[simp] theorem State.modObj_attestQueue (o : Nat) (f : Obj → Obj) : (s.modObj o f).attestQueue = s.attestQueue := rfl

/-! ### State.modStat -/

@[simp] theorem State.modStat_pending (k : Nat) (f : Stat → Stat) : (s.modStat k f).pending = s.pending := rfl
@[simp] theorem State.modStat_pwrok (k : Nat) (f : Stat → Stat) : (s.modStat k f).pwrok = s.pwrok := rfl
@[simp] theorem State.modStat_rstHigh (k : Nat) (f : Stat → Stat) : (s.modStat k f).rstHigh = s.rstHigh := rfl
@[simp] theorem State.modStat_portaRole (k : Nat) (f : Stat → Stat) : (s.modStat k f).portaRole = s.portaRole := rfl
@[simp] theorem State.modStat_testMode (k : Nat) (f : Stat → Stat) : (s.modStat k f).testMode = s.testMode := rfl
@[simp] theorem State.modStat_now (k : Nat) (f : Stat → Stat) : (s.modStat k f).now = s.now := rfl
@[simp] theorem State.modStat_free (k : Nat) (f : Stat → Stat) : (s.modStat k f).free = s.free := rfl
@[simp] theorem State.modStat_regs (k : Nat) (f : Stat → Stat) : (s.modStat k f).regs = s.regs := rfl
@[simp] theorem State.modStat_hostA (k : Nat) (f : Stat → Stat) : (s.modStat k f).hostA = s.hostA := rfl
@[simp] theorem State.modStat_hostB (k : Nat) (f : Stat → Stat) : (s.modStat k f).hostB = s.hostB := rfl
@[simp] theorem State.modStat_steward (k : Nat) (f : Stat → Stat) : (s.modStat k f).steward = s.steward := rfl
@[simp] theorem State.modStat_tenant (k : Nat) (f : Stat → Stat) : (s.modStat k f).tenant = s.tenant := rfl
@[simp] theorem State.modStat_smbus (k : Nat) (f : Stat → Stat) : (s.modStat k f).smbus = s.smbus := rfl
@[simp] theorem State.modStat_smbusNack (k : Nat) (f : Stat → Stat) : (s.modStat k f).smbusNack = s.smbusNack := rfl
@[simp] theorem State.modStat_jtag (k : Nat) (f : Stat → Stat) : (s.modStat k f).jtag = s.jtag := rfl
@[simp] theorem State.modStat_ctxs (k : Nat) (f : Stat → Stat) : (s.modStat k f).ctxs = s.ctxs := rfl
@[simp] theorem State.modStat_pairs (k : Nat) (f : Stat → Stat) : (s.modStat k f).pairs = s.pairs := rfl
@[simp] theorem State.modStat_arrays (k : Nat) (f : Stat → Stat) : (s.modStat k f).arrays = s.arrays := rfl
@[simp] theorem State.modStat_prus (k : Nat) (f : Stat → Stat) : (s.modStat k f).prus = s.prus := rfl
@[simp] theorem State.modStat_slices (k : Nat) (f : Stat → Stat) : (s.modStat k f).slices = s.slices := rfl
@[simp] theorem State.modStat_signals (k : Nat) (f : Stat → Stat) : (s.modStat k f).signals = s.signals := rfl
@[simp] theorem State.modStat_waiters (k : Nat) (f : Stat → Stat) : (s.modStat k f).waiters = s.waiters := rfl
@[simp] theorem State.modStat_granted (k : Nat) (f : Stat → Stat) : (s.modStat k f).granted = s.granted := rfl
@[simp] theorem State.modStat_samplers (k : Nat) (f : Stat → Stat) : (s.modStat k f).samplers = s.samplers := rfl
@[simp] theorem State.modStat_swapArrays (k : Nat) (f : Stat → Stat) : (s.modStat k f).swapArrays = s.swapArrays := rfl
@[simp] theorem State.modStat_swapWaiters (k : Nat) (f : Stat → Stat) : (s.modStat k f).swapWaiters = s.swapWaiters := rfl
@[simp] theorem State.modStat_weirQuiet (k : Nat) (f : Stat → Stat) : (s.modStat k f).weirQuiet = s.weirQuiet := rfl
@[simp] theorem State.modStat_hbm (k : Nat) (f : Stat → Stat) : (s.modStat k f).hbm = s.hbm := rfl
@[simp] theorem State.modStat_sites (k : Nat) (f : Stat → Stat) : (s.modStat k f).sites = s.sites := rfl
@[simp] theorem State.modStat_held (k : Nat) (f : Stat → Stat) : (s.modStat k f).held = s.held := rfl
@[simp] theorem State.modStat_asking (k : Nat) (f : Stat → Stat) : (s.modStat k f).asking = s.asking := rfl
@[simp] theorem State.modStat_outstanding (k : Nat) (f : Stat → Stat) : (s.modStat k f).outstanding = s.outstanding := rfl
@[simp] theorem State.modStat_granaries (k : Nat) (f : Stat → Stat) : (s.modStat k f).granaries = s.granaries := rfl
@[simp] theorem State.modStat_objects (k : Nat) (f : Stat → Stat) : (s.modStat k f).objects = s.objects := rfl
@[simp] theorem State.modStat_blocks (k : Nat) (f : Stat → Stat) : (s.modStat k f).blocks = s.blocks := rfl
@[simp] theorem State.modStat_curv (k : Nat) (f : Stat → Stat) : (s.modStat k f).curv = s.curv := rfl
@[simp] theorem State.modStat_runs (k : Nat) (f : Stat → Stat) : (s.modStat k f).runs = s.runs := rfl
@[simp] theorem State.modStat_gran (k : Nat) (f : Stat → Stat) : (s.modStat k f).gran = s.gran := rfl
@[simp] theorem State.modStat_lastSealed (k : Nat) (f : Stat → Stat) : (s.modStat k f).lastSealed = s.lastSealed := rfl
@[simp] theorem State.modStat_txns (k : Nat) (f : Stat → Stat) : (s.modStat k f).txns = s.txns := rfl
@[simp] theorem State.modStat_txnCount (k : Nat) (f : Stat → Stat) : (s.modStat k f).txnCount = s.txnCount := rfl
@[simp] theorem State.modStat_shadowDue (k : Nat) (f : Stat → Stat) : (s.modStat k f).shadowDue = s.shadowDue := rfl
@[simp] theorem State.modStat_num (k : Nat) (f : Stat → Stat) : (s.modStat k f).num = s.num := rfl
@[simp] theorem State.modStat_problems (k : Nat) (f : Stat → Stat) : (s.modStat k f).problems = s.problems := rfl
@[simp] theorem State.modStat_batches (k : Nat) (f : Stat → Stat) : (s.modStat k f).batches = s.batches := rfl
@[simp] theorem State.modStat_deltas (k : Nat) (f : Stat → Stat) : (s.modStat k f).deltas = s.deltas := rfl
@[simp] theorem State.modStat_group (k : Nat) (f : Stat → Stat) : (s.modStat k f).group = s.group := rfl
@[simp] theorem State.modStat_cad (k : Nat) (f : Stat → Stat) : (s.modStat k f).cad = s.cad := rfl
@[simp] theorem State.modStat_pulses (k : Nat) (f : Stat → Stat) : (s.modStat k f).pulses = s.pulses := rfl
@[simp] theorem State.modStat_levels (k : Nat) (f : Stat → Stat) : (s.modStat k f).levels = s.levels := rfl
@[simp] theorem State.modStat_bwLatched (k : Nat) (f : Stat → Stat) : (s.modStat k f).bwLatched = s.bwLatched := rfl
@[simp] theorem State.modStat_bwSeq (k : Nat) (f : Stat → Stat) : (s.modStat k f).bwSeq = s.bwSeq := rfl
@[simp] theorem State.modStat_bwSince (k : Nat) (f : Stat → Stat) : (s.modStat k f).bwSince = s.bwSince := rfl
@[simp] theorem State.modStat_bwLength (k : Nat) (f : Stat → Stat) : (s.modStat k f).bwLength = s.bwLength := rfl
@[simp] theorem State.modStat_tenantPmc (k : Nat) (f : Stat → Stat) : (s.modStat k f).tenantPmc = s.tenantPmc := rfl
@[simp] theorem State.modStat_boot (k : Nat) (f : Stat → Stat) : (s.modStat k f).boot = s.boot := rfl
@[simp] theorem State.modStat_power (k : Nat) (f : Stat → Stat) : (s.modStat k f).power = s.power := rfl
@[simp] theorem State.modStat_ras (k : Nat) (f : Stat → Stat) : (s.modStat k f).ras = s.ras := rfl
@[simp] theorem State.modStat_attestCount (k : Nat) (f : Stat → Stat) : (s.modStat k f).attestCount = s.attestCount := rfl
@[simp] theorem State.modStat_attestQueue (k : Nat) (f : Stat → Stat) : (s.modStat k f).attestQueue = s.attestQueue := rfl

/-! ### State.modBlock -/

@[simp] theorem State.modBlock_pending (b : Nat) (f : Block → Block) : (s.modBlock b f).pending = s.pending := rfl
@[simp] theorem State.modBlock_pwrok (b : Nat) (f : Block → Block) : (s.modBlock b f).pwrok = s.pwrok := rfl
@[simp] theorem State.modBlock_rstHigh (b : Nat) (f : Block → Block) : (s.modBlock b f).rstHigh = s.rstHigh := rfl
@[simp] theorem State.modBlock_portaRole (b : Nat) (f : Block → Block) : (s.modBlock b f).portaRole = s.portaRole := rfl
@[simp] theorem State.modBlock_testMode (b : Nat) (f : Block → Block) : (s.modBlock b f).testMode = s.testMode := rfl
@[simp] theorem State.modBlock_now (b : Nat) (f : Block → Block) : (s.modBlock b f).now = s.now := rfl
@[simp] theorem State.modBlock_free (b : Nat) (f : Block → Block) : (s.modBlock b f).free = s.free := rfl
@[simp] theorem State.modBlock_regs (b : Nat) (f : Block → Block) : (s.modBlock b f).regs = s.regs := rfl
@[simp] theorem State.modBlock_hostA (b : Nat) (f : Block → Block) : (s.modBlock b f).hostA = s.hostA := rfl
@[simp] theorem State.modBlock_hostB (b : Nat) (f : Block → Block) : (s.modBlock b f).hostB = s.hostB := rfl
@[simp] theorem State.modBlock_steward (b : Nat) (f : Block → Block) : (s.modBlock b f).steward = s.steward := rfl
@[simp] theorem State.modBlock_tenant (b : Nat) (f : Block → Block) : (s.modBlock b f).tenant = s.tenant := rfl
@[simp] theorem State.modBlock_smbus (b : Nat) (f : Block → Block) : (s.modBlock b f).smbus = s.smbus := rfl
@[simp] theorem State.modBlock_smbusNack (b : Nat) (f : Block → Block) : (s.modBlock b f).smbusNack = s.smbusNack := rfl
@[simp] theorem State.modBlock_jtag (b : Nat) (f : Block → Block) : (s.modBlock b f).jtag = s.jtag := rfl
@[simp] theorem State.modBlock_ctxs (b : Nat) (f : Block → Block) : (s.modBlock b f).ctxs = s.ctxs := rfl
@[simp] theorem State.modBlock_pairs (b : Nat) (f : Block → Block) : (s.modBlock b f).pairs = s.pairs := rfl
@[simp] theorem State.modBlock_arrays (b : Nat) (f : Block → Block) : (s.modBlock b f).arrays = s.arrays := rfl
@[simp] theorem State.modBlock_prus (b : Nat) (f : Block → Block) : (s.modBlock b f).prus = s.prus := rfl
@[simp] theorem State.modBlock_slices (b : Nat) (f : Block → Block) : (s.modBlock b f).slices = s.slices := rfl
@[simp] theorem State.modBlock_signals (b : Nat) (f : Block → Block) : (s.modBlock b f).signals = s.signals := rfl
@[simp] theorem State.modBlock_waiters (b : Nat) (f : Block → Block) : (s.modBlock b f).waiters = s.waiters := rfl
@[simp] theorem State.modBlock_granted (b : Nat) (f : Block → Block) : (s.modBlock b f).granted = s.granted := rfl
@[simp] theorem State.modBlock_samplers (b : Nat) (f : Block → Block) : (s.modBlock b f).samplers = s.samplers := rfl
@[simp] theorem State.modBlock_swapArrays (b : Nat) (f : Block → Block) : (s.modBlock b f).swapArrays = s.swapArrays := rfl
@[simp] theorem State.modBlock_swapWaiters (b : Nat) (f : Block → Block) : (s.modBlock b f).swapWaiters = s.swapWaiters := rfl
@[simp] theorem State.modBlock_weirQuiet (b : Nat) (f : Block → Block) : (s.modBlock b f).weirQuiet = s.weirQuiet := rfl
@[simp] theorem State.modBlock_hbm (b : Nat) (f : Block → Block) : (s.modBlock b f).hbm = s.hbm := rfl
@[simp] theorem State.modBlock_sites (b : Nat) (f : Block → Block) : (s.modBlock b f).sites = s.sites := rfl
@[simp] theorem State.modBlock_held (b : Nat) (f : Block → Block) : (s.modBlock b f).held = s.held := rfl
@[simp] theorem State.modBlock_asking (b : Nat) (f : Block → Block) : (s.modBlock b f).asking = s.asking := rfl
@[simp] theorem State.modBlock_outstanding (b : Nat) (f : Block → Block) : (s.modBlock b f).outstanding = s.outstanding := rfl
@[simp] theorem State.modBlock_granaries (b : Nat) (f : Block → Block) : (s.modBlock b f).granaries = s.granaries := rfl
@[simp] theorem State.modBlock_objects (b : Nat) (f : Block → Block) : (s.modBlock b f).objects = s.objects := rfl
@[simp] theorem State.modBlock_stats (b : Nat) (f : Block → Block) : (s.modBlock b f).stats = s.stats := rfl
@[simp] theorem State.modBlock_curv (b : Nat) (f : Block → Block) : (s.modBlock b f).curv = s.curv := rfl
@[simp] theorem State.modBlock_runs (b : Nat) (f : Block → Block) : (s.modBlock b f).runs = s.runs := rfl
@[simp] theorem State.modBlock_gran (b : Nat) (f : Block → Block) : (s.modBlock b f).gran = s.gran := rfl
@[simp] theorem State.modBlock_lastSealed (b : Nat) (f : Block → Block) : (s.modBlock b f).lastSealed = s.lastSealed := rfl
@[simp] theorem State.modBlock_txns (b : Nat) (f : Block → Block) : (s.modBlock b f).txns = s.txns := rfl
@[simp] theorem State.modBlock_txnCount (b : Nat) (f : Block → Block) : (s.modBlock b f).txnCount = s.txnCount := rfl
@[simp] theorem State.modBlock_shadowDue (b : Nat) (f : Block → Block) : (s.modBlock b f).shadowDue = s.shadowDue := rfl
@[simp] theorem State.modBlock_num (b : Nat) (f : Block → Block) : (s.modBlock b f).num = s.num := rfl
@[simp] theorem State.modBlock_problems (b : Nat) (f : Block → Block) : (s.modBlock b f).problems = s.problems := rfl
@[simp] theorem State.modBlock_batches (b : Nat) (f : Block → Block) : (s.modBlock b f).batches = s.batches := rfl
@[simp] theorem State.modBlock_deltas (b : Nat) (f : Block → Block) : (s.modBlock b f).deltas = s.deltas := rfl
@[simp] theorem State.modBlock_group (b : Nat) (f : Block → Block) : (s.modBlock b f).group = s.group := rfl
@[simp] theorem State.modBlock_cad (b : Nat) (f : Block → Block) : (s.modBlock b f).cad = s.cad := rfl
@[simp] theorem State.modBlock_pulses (b : Nat) (f : Block → Block) : (s.modBlock b f).pulses = s.pulses := rfl
@[simp] theorem State.modBlock_levels (b : Nat) (f : Block → Block) : (s.modBlock b f).levels = s.levels := rfl
@[simp] theorem State.modBlock_bwLatched (b : Nat) (f : Block → Block) : (s.modBlock b f).bwLatched = s.bwLatched := rfl
@[simp] theorem State.modBlock_bwSeq (b : Nat) (f : Block → Block) : (s.modBlock b f).bwSeq = s.bwSeq := rfl
@[simp] theorem State.modBlock_bwSince (b : Nat) (f : Block → Block) : (s.modBlock b f).bwSince = s.bwSince := rfl
@[simp] theorem State.modBlock_bwLength (b : Nat) (f : Block → Block) : (s.modBlock b f).bwLength = s.bwLength := rfl
@[simp] theorem State.modBlock_tenantPmc (b : Nat) (f : Block → Block) : (s.modBlock b f).tenantPmc = s.tenantPmc := rfl
@[simp] theorem State.modBlock_boot (b : Nat) (f : Block → Block) : (s.modBlock b f).boot = s.boot := rfl
@[simp] theorem State.modBlock_power (b : Nat) (f : Block → Block) : (s.modBlock b f).power = s.power := rfl
@[simp] theorem State.modBlock_ras (b : Nat) (f : Block → Block) : (s.modBlock b f).ras = s.ras := rfl
@[simp] theorem State.modBlock_attestCount (b : Nat) (f : Block → Block) : (s.modBlock b f).attestCount = s.attestCount := rfl
@[simp] theorem State.modBlock_attestQueue (b : Nat) (f : Block → Block) : (s.modBlock b f).attestQueue = s.attestQueue := rfl

/-! ### State.setReg -/

@[simp] theorem State.setReg_pending (r : Reg) (i : Nat) (p : Port) (v : Nat) : (s.setReg r i p v).pending = s.pending := rfl
@[simp] theorem State.setReg_pwrok (r : Reg) (i : Nat) (p : Port) (v : Nat) : (s.setReg r i p v).pwrok = s.pwrok := rfl
@[simp] theorem State.setReg_rstHigh (r : Reg) (i : Nat) (p : Port) (v : Nat) : (s.setReg r i p v).rstHigh = s.rstHigh := rfl
@[simp] theorem State.setReg_portaRole (r : Reg) (i : Nat) (p : Port) (v : Nat) : (s.setReg r i p v).portaRole = s.portaRole := rfl
@[simp] theorem State.setReg_testMode (r : Reg) (i : Nat) (p : Port) (v : Nat) : (s.setReg r i p v).testMode = s.testMode := rfl
@[simp] theorem State.setReg_now (r : Reg) (i : Nat) (p : Port) (v : Nat) : (s.setReg r i p v).now = s.now := rfl
@[simp] theorem State.setReg_free (r : Reg) (i : Nat) (p : Port) (v : Nat) : (s.setReg r i p v).free = s.free := rfl
@[simp] theorem State.setReg_hostA (r : Reg) (i : Nat) (p : Port) (v : Nat) : (s.setReg r i p v).hostA = s.hostA := rfl
@[simp] theorem State.setReg_hostB (r : Reg) (i : Nat) (p : Port) (v : Nat) : (s.setReg r i p v).hostB = s.hostB := rfl
@[simp] theorem State.setReg_steward (r : Reg) (i : Nat) (p : Port) (v : Nat) : (s.setReg r i p v).steward = s.steward := rfl
@[simp] theorem State.setReg_tenant (r : Reg) (i : Nat) (p : Port) (v : Nat) : (s.setReg r i p v).tenant = s.tenant := rfl
@[simp] theorem State.setReg_smbus (r : Reg) (i : Nat) (p : Port) (v : Nat) : (s.setReg r i p v).smbus = s.smbus := rfl
@[simp] theorem State.setReg_smbusNack (r : Reg) (i : Nat) (p : Port) (v : Nat) : (s.setReg r i p v).smbusNack = s.smbusNack := rfl
@[simp] theorem State.setReg_jtag (r : Reg) (i : Nat) (p : Port) (v : Nat) : (s.setReg r i p v).jtag = s.jtag := rfl
@[simp] theorem State.setReg_ctxs (r : Reg) (i : Nat) (p : Port) (v : Nat) : (s.setReg r i p v).ctxs = s.ctxs := rfl
@[simp] theorem State.setReg_pairs (r : Reg) (i : Nat) (p : Port) (v : Nat) : (s.setReg r i p v).pairs = s.pairs := rfl
@[simp] theorem State.setReg_arrays (r : Reg) (i : Nat) (p : Port) (v : Nat) : (s.setReg r i p v).arrays = s.arrays := rfl
@[simp] theorem State.setReg_prus (r : Reg) (i : Nat) (p : Port) (v : Nat) : (s.setReg r i p v).prus = s.prus := rfl
@[simp] theorem State.setReg_slices (r : Reg) (i : Nat) (p : Port) (v : Nat) : (s.setReg r i p v).slices = s.slices := rfl
@[simp] theorem State.setReg_signals (r : Reg) (i : Nat) (p : Port) (v : Nat) : (s.setReg r i p v).signals = s.signals := rfl
@[simp] theorem State.setReg_waiters (r : Reg) (i : Nat) (p : Port) (v : Nat) : (s.setReg r i p v).waiters = s.waiters := rfl
@[simp] theorem State.setReg_granted (r : Reg) (i : Nat) (p : Port) (v : Nat) : (s.setReg r i p v).granted = s.granted := rfl
@[simp] theorem State.setReg_samplers (r : Reg) (i : Nat) (p : Port) (v : Nat) : (s.setReg r i p v).samplers = s.samplers := rfl
@[simp] theorem State.setReg_swapArrays (r : Reg) (i : Nat) (p : Port) (v : Nat) : (s.setReg r i p v).swapArrays = s.swapArrays := rfl
@[simp] theorem State.setReg_swapWaiters (r : Reg) (i : Nat) (p : Port) (v : Nat) : (s.setReg r i p v).swapWaiters = s.swapWaiters := rfl
@[simp] theorem State.setReg_weirQuiet (r : Reg) (i : Nat) (p : Port) (v : Nat) : (s.setReg r i p v).weirQuiet = s.weirQuiet := rfl
@[simp] theorem State.setReg_hbm (r : Reg) (i : Nat) (p : Port) (v : Nat) : (s.setReg r i p v).hbm = s.hbm := rfl
@[simp] theorem State.setReg_sites (r : Reg) (i : Nat) (p : Port) (v : Nat) : (s.setReg r i p v).sites = s.sites := rfl
@[simp] theorem State.setReg_held (r : Reg) (i : Nat) (p : Port) (v : Nat) : (s.setReg r i p v).held = s.held := rfl
@[simp] theorem State.setReg_asking (r : Reg) (i : Nat) (p : Port) (v : Nat) : (s.setReg r i p v).asking = s.asking := rfl
@[simp] theorem State.setReg_outstanding (r : Reg) (i : Nat) (p : Port) (v : Nat) : (s.setReg r i p v).outstanding = s.outstanding := rfl
@[simp] theorem State.setReg_granaries (r : Reg) (i : Nat) (p : Port) (v : Nat) : (s.setReg r i p v).granaries = s.granaries := rfl
@[simp] theorem State.setReg_objects (r : Reg) (i : Nat) (p : Port) (v : Nat) : (s.setReg r i p v).objects = s.objects := rfl
@[simp] theorem State.setReg_stats (r : Reg) (i : Nat) (p : Port) (v : Nat) : (s.setReg r i p v).stats = s.stats := rfl
@[simp] theorem State.setReg_blocks (r : Reg) (i : Nat) (p : Port) (v : Nat) : (s.setReg r i p v).blocks = s.blocks := rfl
@[simp] theorem State.setReg_curv (r : Reg) (i : Nat) (p : Port) (v : Nat) : (s.setReg r i p v).curv = s.curv := rfl
@[simp] theorem State.setReg_runs (r : Reg) (i : Nat) (p : Port) (v : Nat) : (s.setReg r i p v).runs = s.runs := rfl
@[simp] theorem State.setReg_gran (r : Reg) (i : Nat) (p : Port) (v : Nat) : (s.setReg r i p v).gran = s.gran := rfl
@[simp] theorem State.setReg_lastSealed (r : Reg) (i : Nat) (p : Port) (v : Nat) : (s.setReg r i p v).lastSealed = s.lastSealed := rfl
@[simp] theorem State.setReg_txns (r : Reg) (i : Nat) (p : Port) (v : Nat) : (s.setReg r i p v).txns = s.txns := rfl
@[simp] theorem State.setReg_txnCount (r : Reg) (i : Nat) (p : Port) (v : Nat) : (s.setReg r i p v).txnCount = s.txnCount := rfl
@[simp] theorem State.setReg_shadowDue (r : Reg) (i : Nat) (p : Port) (v : Nat) : (s.setReg r i p v).shadowDue = s.shadowDue := rfl
@[simp] theorem State.setReg_num (r : Reg) (i : Nat) (p : Port) (v : Nat) : (s.setReg r i p v).num = s.num := rfl
@[simp] theorem State.setReg_problems (r : Reg) (i : Nat) (p : Port) (v : Nat) : (s.setReg r i p v).problems = s.problems := rfl
@[simp] theorem State.setReg_batches (r : Reg) (i : Nat) (p : Port) (v : Nat) : (s.setReg r i p v).batches = s.batches := rfl
@[simp] theorem State.setReg_deltas (r : Reg) (i : Nat) (p : Port) (v : Nat) : (s.setReg r i p v).deltas = s.deltas := rfl
@[simp] theorem State.setReg_group (r : Reg) (i : Nat) (p : Port) (v : Nat) : (s.setReg r i p v).group = s.group := rfl
@[simp] theorem State.setReg_cad (r : Reg) (i : Nat) (p : Port) (v : Nat) : (s.setReg r i p v).cad = s.cad := rfl
@[simp] theorem State.setReg_pulses (r : Reg) (i : Nat) (p : Port) (v : Nat) : (s.setReg r i p v).pulses = s.pulses := rfl
@[simp] theorem State.setReg_levels (r : Reg) (i : Nat) (p : Port) (v : Nat) : (s.setReg r i p v).levels = s.levels := rfl
@[simp] theorem State.setReg_bwLatched (r : Reg) (i : Nat) (p : Port) (v : Nat) : (s.setReg r i p v).bwLatched = s.bwLatched := rfl
@[simp] theorem State.setReg_bwSeq (r : Reg) (i : Nat) (p : Port) (v : Nat) : (s.setReg r i p v).bwSeq = s.bwSeq := rfl
@[simp] theorem State.setReg_bwSince (r : Reg) (i : Nat) (p : Port) (v : Nat) : (s.setReg r i p v).bwSince = s.bwSince := rfl
@[simp] theorem State.setReg_bwLength (r : Reg) (i : Nat) (p : Port) (v : Nat) : (s.setReg r i p v).bwLength = s.bwLength := rfl
@[simp] theorem State.setReg_tenantPmc (r : Reg) (i : Nat) (p : Port) (v : Nat) : (s.setReg r i p v).tenantPmc = s.tenantPmc := rfl
@[simp] theorem State.setReg_boot (r : Reg) (i : Nat) (p : Port) (v : Nat) : (s.setReg r i p v).boot = s.boot := rfl
@[simp] theorem State.setReg_power (r : Reg) (i : Nat) (p : Port) (v : Nat) : (s.setReg r i p v).power = s.power := rfl
@[simp] theorem State.setReg_ras (r : Reg) (i : Nat) (p : Port) (v : Nat) : (s.setReg r i p v).ras = s.ras := rfl
@[simp] theorem State.setReg_attestCount (r : Reg) (i : Nat) (p : Port) (v : Nat) : (s.setReg r i p v).attestCount = s.attestCount := rfl
@[simp] theorem State.setReg_attestQueue (r : Reg) (i : Nat) (p : Port) (v : Nat) : (s.setReg r i p v).attestQueue = s.attestQueue := rfl

/-! ### State.setField -/

@[simp] theorem State.setField_pending (r : Reg) (i : Nat) (p : Port) (lo n v : Nat) : (s.setField r i p lo n v).pending = s.pending := rfl
@[simp] theorem State.setField_pwrok (r : Reg) (i : Nat) (p : Port) (lo n v : Nat) : (s.setField r i p lo n v).pwrok = s.pwrok := rfl
@[simp] theorem State.setField_rstHigh (r : Reg) (i : Nat) (p : Port) (lo n v : Nat) : (s.setField r i p lo n v).rstHigh = s.rstHigh := rfl
@[simp] theorem State.setField_portaRole (r : Reg) (i : Nat) (p : Port) (lo n v : Nat) : (s.setField r i p lo n v).portaRole = s.portaRole := rfl
@[simp] theorem State.setField_testMode (r : Reg) (i : Nat) (p : Port) (lo n v : Nat) : (s.setField r i p lo n v).testMode = s.testMode := rfl
@[simp] theorem State.setField_now (r : Reg) (i : Nat) (p : Port) (lo n v : Nat) : (s.setField r i p lo n v).now = s.now := rfl
@[simp] theorem State.setField_free (r : Reg) (i : Nat) (p : Port) (lo n v : Nat) : (s.setField r i p lo n v).free = s.free := rfl
@[simp] theorem State.setField_hostA (r : Reg) (i : Nat) (p : Port) (lo n v : Nat) : (s.setField r i p lo n v).hostA = s.hostA := rfl
@[simp] theorem State.setField_hostB (r : Reg) (i : Nat) (p : Port) (lo n v : Nat) : (s.setField r i p lo n v).hostB = s.hostB := rfl
@[simp] theorem State.setField_steward (r : Reg) (i : Nat) (p : Port) (lo n v : Nat) : (s.setField r i p lo n v).steward = s.steward := rfl
@[simp] theorem State.setField_tenant (r : Reg) (i : Nat) (p : Port) (lo n v : Nat) : (s.setField r i p lo n v).tenant = s.tenant := rfl
@[simp] theorem State.setField_smbus (r : Reg) (i : Nat) (p : Port) (lo n v : Nat) : (s.setField r i p lo n v).smbus = s.smbus := rfl
@[simp] theorem State.setField_smbusNack (r : Reg) (i : Nat) (p : Port) (lo n v : Nat) : (s.setField r i p lo n v).smbusNack = s.smbusNack := rfl
@[simp] theorem State.setField_jtag (r : Reg) (i : Nat) (p : Port) (lo n v : Nat) : (s.setField r i p lo n v).jtag = s.jtag := rfl
@[simp] theorem State.setField_ctxs (r : Reg) (i : Nat) (p : Port) (lo n v : Nat) : (s.setField r i p lo n v).ctxs = s.ctxs := rfl
@[simp] theorem State.setField_pairs (r : Reg) (i : Nat) (p : Port) (lo n v : Nat) : (s.setField r i p lo n v).pairs = s.pairs := rfl
@[simp] theorem State.setField_arrays (r : Reg) (i : Nat) (p : Port) (lo n v : Nat) : (s.setField r i p lo n v).arrays = s.arrays := rfl
@[simp] theorem State.setField_prus (r : Reg) (i : Nat) (p : Port) (lo n v : Nat) : (s.setField r i p lo n v).prus = s.prus := rfl
@[simp] theorem State.setField_slices (r : Reg) (i : Nat) (p : Port) (lo n v : Nat) : (s.setField r i p lo n v).slices = s.slices := rfl
@[simp] theorem State.setField_signals (r : Reg) (i : Nat) (p : Port) (lo n v : Nat) : (s.setField r i p lo n v).signals = s.signals := rfl
@[simp] theorem State.setField_waiters (r : Reg) (i : Nat) (p : Port) (lo n v : Nat) : (s.setField r i p lo n v).waiters = s.waiters := rfl
@[simp] theorem State.setField_granted (r : Reg) (i : Nat) (p : Port) (lo n v : Nat) : (s.setField r i p lo n v).granted = s.granted := rfl
@[simp] theorem State.setField_samplers (r : Reg) (i : Nat) (p : Port) (lo n v : Nat) : (s.setField r i p lo n v).samplers = s.samplers := rfl
@[simp] theorem State.setField_swapArrays (r : Reg) (i : Nat) (p : Port) (lo n v : Nat) : (s.setField r i p lo n v).swapArrays = s.swapArrays := rfl
@[simp] theorem State.setField_swapWaiters (r : Reg) (i : Nat) (p : Port) (lo n v : Nat) : (s.setField r i p lo n v).swapWaiters = s.swapWaiters := rfl
@[simp] theorem State.setField_weirQuiet (r : Reg) (i : Nat) (p : Port) (lo n v : Nat) : (s.setField r i p lo n v).weirQuiet = s.weirQuiet := rfl
@[simp] theorem State.setField_hbm (r : Reg) (i : Nat) (p : Port) (lo n v : Nat) : (s.setField r i p lo n v).hbm = s.hbm := rfl
@[simp] theorem State.setField_sites (r : Reg) (i : Nat) (p : Port) (lo n v : Nat) : (s.setField r i p lo n v).sites = s.sites := rfl
@[simp] theorem State.setField_held (r : Reg) (i : Nat) (p : Port) (lo n v : Nat) : (s.setField r i p lo n v).held = s.held := rfl
@[simp] theorem State.setField_asking (r : Reg) (i : Nat) (p : Port) (lo n v : Nat) : (s.setField r i p lo n v).asking = s.asking := rfl
@[simp] theorem State.setField_outstanding (r : Reg) (i : Nat) (p : Port) (lo n v : Nat) : (s.setField r i p lo n v).outstanding = s.outstanding := rfl
@[simp] theorem State.setField_granaries (r : Reg) (i : Nat) (p : Port) (lo n v : Nat) : (s.setField r i p lo n v).granaries = s.granaries := rfl
@[simp] theorem State.setField_objects (r : Reg) (i : Nat) (p : Port) (lo n v : Nat) : (s.setField r i p lo n v).objects = s.objects := rfl
@[simp] theorem State.setField_stats (r : Reg) (i : Nat) (p : Port) (lo n v : Nat) : (s.setField r i p lo n v).stats = s.stats := rfl
@[simp] theorem State.setField_blocks (r : Reg) (i : Nat) (p : Port) (lo n v : Nat) : (s.setField r i p lo n v).blocks = s.blocks := rfl
@[simp] theorem State.setField_curv (r : Reg) (i : Nat) (p : Port) (lo n v : Nat) : (s.setField r i p lo n v).curv = s.curv := rfl
@[simp] theorem State.setField_runs (r : Reg) (i : Nat) (p : Port) (lo n v : Nat) : (s.setField r i p lo n v).runs = s.runs := rfl
@[simp] theorem State.setField_gran (r : Reg) (i : Nat) (p : Port) (lo n v : Nat) : (s.setField r i p lo n v).gran = s.gran := rfl
@[simp] theorem State.setField_lastSealed (r : Reg) (i : Nat) (p : Port) (lo n v : Nat) : (s.setField r i p lo n v).lastSealed = s.lastSealed := rfl
@[simp] theorem State.setField_txns (r : Reg) (i : Nat) (p : Port) (lo n v : Nat) : (s.setField r i p lo n v).txns = s.txns := rfl
@[simp] theorem State.setField_txnCount (r : Reg) (i : Nat) (p : Port) (lo n v : Nat) : (s.setField r i p lo n v).txnCount = s.txnCount := rfl
@[simp] theorem State.setField_shadowDue (r : Reg) (i : Nat) (p : Port) (lo n v : Nat) : (s.setField r i p lo n v).shadowDue = s.shadowDue := rfl
@[simp] theorem State.setField_num (r : Reg) (i : Nat) (p : Port) (lo n v : Nat) : (s.setField r i p lo n v).num = s.num := rfl
@[simp] theorem State.setField_problems (r : Reg) (i : Nat) (p : Port) (lo n v : Nat) : (s.setField r i p lo n v).problems = s.problems := rfl
@[simp] theorem State.setField_batches (r : Reg) (i : Nat) (p : Port) (lo n v : Nat) : (s.setField r i p lo n v).batches = s.batches := rfl
@[simp] theorem State.setField_deltas (r : Reg) (i : Nat) (p : Port) (lo n v : Nat) : (s.setField r i p lo n v).deltas = s.deltas := rfl
@[simp] theorem State.setField_group (r : Reg) (i : Nat) (p : Port) (lo n v : Nat) : (s.setField r i p lo n v).group = s.group := rfl
@[simp] theorem State.setField_cad (r : Reg) (i : Nat) (p : Port) (lo n v : Nat) : (s.setField r i p lo n v).cad = s.cad := rfl
@[simp] theorem State.setField_pulses (r : Reg) (i : Nat) (p : Port) (lo n v : Nat) : (s.setField r i p lo n v).pulses = s.pulses := rfl
@[simp] theorem State.setField_levels (r : Reg) (i : Nat) (p : Port) (lo n v : Nat) : (s.setField r i p lo n v).levels = s.levels := rfl
@[simp] theorem State.setField_bwLatched (r : Reg) (i : Nat) (p : Port) (lo n v : Nat) : (s.setField r i p lo n v).bwLatched = s.bwLatched := rfl
@[simp] theorem State.setField_bwSeq (r : Reg) (i : Nat) (p : Port) (lo n v : Nat) : (s.setField r i p lo n v).bwSeq = s.bwSeq := rfl
@[simp] theorem State.setField_bwSince (r : Reg) (i : Nat) (p : Port) (lo n v : Nat) : (s.setField r i p lo n v).bwSince = s.bwSince := rfl
@[simp] theorem State.setField_bwLength (r : Reg) (i : Nat) (p : Port) (lo n v : Nat) : (s.setField r i p lo n v).bwLength = s.bwLength := rfl
@[simp] theorem State.setField_tenantPmc (r : Reg) (i : Nat) (p : Port) (lo n v : Nat) : (s.setField r i p lo n v).tenantPmc = s.tenantPmc := rfl
@[simp] theorem State.setField_boot (r : Reg) (i : Nat) (p : Port) (lo n v : Nat) : (s.setField r i p lo n v).boot = s.boot := rfl
@[simp] theorem State.setField_power (r : Reg) (i : Nat) (p : Port) (lo n v : Nat) : (s.setField r i p lo n v).power = s.power := rfl
@[simp] theorem State.setField_ras (r : Reg) (i : Nat) (p : Port) (lo n v : Nat) : (s.setField r i p lo n v).ras = s.ras := rfl
@[simp] theorem State.setField_attestCount (r : Reg) (i : Nat) (p : Port) (lo n v : Nat) : (s.setField r i p lo n v).attestCount = s.attestCount := rfl
@[simp] theorem State.setField_attestQueue (r : Reg) (i : Nat) (p : Port) (lo n v : Nat) : (s.setField r i p lo n v).attestQueue = s.attestQueue := rfl

/-! ### State.setTxn -/

@[simp] theorem State.setTxn_pending (t : Txn) : (s.setTxn t).pending = s.pending := rfl
@[simp] theorem State.setTxn_pwrok (t : Txn) : (s.setTxn t).pwrok = s.pwrok := rfl
@[simp] theorem State.setTxn_rstHigh (t : Txn) : (s.setTxn t).rstHigh = s.rstHigh := rfl
@[simp] theorem State.setTxn_portaRole (t : Txn) : (s.setTxn t).portaRole = s.portaRole := rfl
@[simp] theorem State.setTxn_testMode (t : Txn) : (s.setTxn t).testMode = s.testMode := rfl
@[simp] theorem State.setTxn_now (t : Txn) : (s.setTxn t).now = s.now := rfl
@[simp] theorem State.setTxn_free (t : Txn) : (s.setTxn t).free = s.free := rfl
@[simp] theorem State.setTxn_regs (t : Txn) : (s.setTxn t).regs = s.regs := rfl
@[simp] theorem State.setTxn_hostA (t : Txn) : (s.setTxn t).hostA = s.hostA := rfl
@[simp] theorem State.setTxn_hostB (t : Txn) : (s.setTxn t).hostB = s.hostB := rfl
@[simp] theorem State.setTxn_steward (t : Txn) : (s.setTxn t).steward = s.steward := rfl
@[simp] theorem State.setTxn_tenant (t : Txn) : (s.setTxn t).tenant = s.tenant := rfl
@[simp] theorem State.setTxn_smbus (t : Txn) : (s.setTxn t).smbus = s.smbus := rfl
@[simp] theorem State.setTxn_smbusNack (t : Txn) : (s.setTxn t).smbusNack = s.smbusNack := rfl
@[simp] theorem State.setTxn_jtag (t : Txn) : (s.setTxn t).jtag = s.jtag := rfl
@[simp] theorem State.setTxn_ctxs (t : Txn) : (s.setTxn t).ctxs = s.ctxs := rfl
@[simp] theorem State.setTxn_pairs (t : Txn) : (s.setTxn t).pairs = s.pairs := rfl
@[simp] theorem State.setTxn_arrays (t : Txn) : (s.setTxn t).arrays = s.arrays := rfl
@[simp] theorem State.setTxn_prus (t : Txn) : (s.setTxn t).prus = s.prus := rfl
@[simp] theorem State.setTxn_slices (t : Txn) : (s.setTxn t).slices = s.slices := rfl
@[simp] theorem State.setTxn_signals (t : Txn) : (s.setTxn t).signals = s.signals := rfl
@[simp] theorem State.setTxn_waiters (t : Txn) : (s.setTxn t).waiters = s.waiters := rfl
@[simp] theorem State.setTxn_granted (t : Txn) : (s.setTxn t).granted = s.granted := rfl
@[simp] theorem State.setTxn_samplers (t : Txn) : (s.setTxn t).samplers = s.samplers := rfl
@[simp] theorem State.setTxn_swapArrays (t : Txn) : (s.setTxn t).swapArrays = s.swapArrays := rfl
@[simp] theorem State.setTxn_swapWaiters (t : Txn) : (s.setTxn t).swapWaiters = s.swapWaiters := rfl
@[simp] theorem State.setTxn_weirQuiet (t : Txn) : (s.setTxn t).weirQuiet = s.weirQuiet := rfl
@[simp] theorem State.setTxn_hbm (t : Txn) : (s.setTxn t).hbm = s.hbm := rfl
@[simp] theorem State.setTxn_sites (t : Txn) : (s.setTxn t).sites = s.sites := rfl
@[simp] theorem State.setTxn_held (t : Txn) : (s.setTxn t).held = s.held := rfl
@[simp] theorem State.setTxn_asking (t : Txn) : (s.setTxn t).asking = s.asking := rfl
@[simp] theorem State.setTxn_outstanding (t : Txn) : (s.setTxn t).outstanding = s.outstanding := rfl
@[simp] theorem State.setTxn_granaries (t : Txn) : (s.setTxn t).granaries = s.granaries := rfl
@[simp] theorem State.setTxn_objects (t : Txn) : (s.setTxn t).objects = s.objects := rfl
@[simp] theorem State.setTxn_stats (t : Txn) : (s.setTxn t).stats = s.stats := rfl
@[simp] theorem State.setTxn_blocks (t : Txn) : (s.setTxn t).blocks = s.blocks := rfl
@[simp] theorem State.setTxn_curv (t : Txn) : (s.setTxn t).curv = s.curv := rfl
@[simp] theorem State.setTxn_runs (t : Txn) : (s.setTxn t).runs = s.runs := rfl
@[simp] theorem State.setTxn_gran (t : Txn) : (s.setTxn t).gran = s.gran := rfl
@[simp] theorem State.setTxn_lastSealed (t : Txn) : (s.setTxn t).lastSealed = s.lastSealed := rfl
@[simp] theorem State.setTxn_txnCount (t : Txn) : (s.setTxn t).txnCount = s.txnCount := rfl
@[simp] theorem State.setTxn_shadowDue (t : Txn) : (s.setTxn t).shadowDue = s.shadowDue := rfl
@[simp] theorem State.setTxn_num (t : Txn) : (s.setTxn t).num = s.num := rfl
@[simp] theorem State.setTxn_problems (t : Txn) : (s.setTxn t).problems = s.problems := rfl
@[simp] theorem State.setTxn_batches (t : Txn) : (s.setTxn t).batches = s.batches := rfl
@[simp] theorem State.setTxn_deltas (t : Txn) : (s.setTxn t).deltas = s.deltas := rfl
@[simp] theorem State.setTxn_group (t : Txn) : (s.setTxn t).group = s.group := rfl
@[simp] theorem State.setTxn_cad (t : Txn) : (s.setTxn t).cad = s.cad := rfl
@[simp] theorem State.setTxn_pulses (t : Txn) : (s.setTxn t).pulses = s.pulses := rfl
@[simp] theorem State.setTxn_levels (t : Txn) : (s.setTxn t).levels = s.levels := rfl
@[simp] theorem State.setTxn_bwLatched (t : Txn) : (s.setTxn t).bwLatched = s.bwLatched := rfl
@[simp] theorem State.setTxn_bwSeq (t : Txn) : (s.setTxn t).bwSeq = s.bwSeq := rfl
@[simp] theorem State.setTxn_bwSince (t : Txn) : (s.setTxn t).bwSince = s.bwSince := rfl
@[simp] theorem State.setTxn_bwLength (t : Txn) : (s.setTxn t).bwLength = s.bwLength := rfl
@[simp] theorem State.setTxn_tenantPmc (t : Txn) : (s.setTxn t).tenantPmc = s.tenantPmc := rfl
@[simp] theorem State.setTxn_boot (t : Txn) : (s.setTxn t).boot = s.boot := rfl
@[simp] theorem State.setTxn_power (t : Txn) : (s.setTxn t).power = s.power := rfl
@[simp] theorem State.setTxn_ras (t : Txn) : (s.setTxn t).ras = s.ras := rfl
@[simp] theorem State.setTxn_attestCount (t : Txn) : (s.setTxn t).attestCount = s.attestCount := rfl
@[simp] theorem State.setTxn_attestQueue (t : Txn) : (s.setTxn t).attestQueue = s.attestQueue := rfl

/-! ### State.hbmPut -/

@[simp] theorem State.hbmPut_pending (a : Nat) (bs : List Byte) : (s.hbmPut a bs).pending = s.pending := rfl
@[simp] theorem State.hbmPut_pwrok (a : Nat) (bs : List Byte) : (s.hbmPut a bs).pwrok = s.pwrok := rfl
@[simp] theorem State.hbmPut_rstHigh (a : Nat) (bs : List Byte) : (s.hbmPut a bs).rstHigh = s.rstHigh := rfl
@[simp] theorem State.hbmPut_portaRole (a : Nat) (bs : List Byte) : (s.hbmPut a bs).portaRole = s.portaRole := rfl
@[simp] theorem State.hbmPut_testMode (a : Nat) (bs : List Byte) : (s.hbmPut a bs).testMode = s.testMode := rfl
@[simp] theorem State.hbmPut_now (a : Nat) (bs : List Byte) : (s.hbmPut a bs).now = s.now := rfl
@[simp] theorem State.hbmPut_free (a : Nat) (bs : List Byte) : (s.hbmPut a bs).free = s.free := rfl
@[simp] theorem State.hbmPut_regs (a : Nat) (bs : List Byte) : (s.hbmPut a bs).regs = s.regs := rfl
@[simp] theorem State.hbmPut_hostA (a : Nat) (bs : List Byte) : (s.hbmPut a bs).hostA = s.hostA := rfl
@[simp] theorem State.hbmPut_hostB (a : Nat) (bs : List Byte) : (s.hbmPut a bs).hostB = s.hostB := rfl
@[simp] theorem State.hbmPut_steward (a : Nat) (bs : List Byte) : (s.hbmPut a bs).steward = s.steward := rfl
@[simp] theorem State.hbmPut_tenant (a : Nat) (bs : List Byte) : (s.hbmPut a bs).tenant = s.tenant := rfl
@[simp] theorem State.hbmPut_smbus (a : Nat) (bs : List Byte) : (s.hbmPut a bs).smbus = s.smbus := rfl
@[simp] theorem State.hbmPut_smbusNack (a : Nat) (bs : List Byte) : (s.hbmPut a bs).smbusNack = s.smbusNack := rfl
@[simp] theorem State.hbmPut_jtag (a : Nat) (bs : List Byte) : (s.hbmPut a bs).jtag = s.jtag := rfl
@[simp] theorem State.hbmPut_ctxs (a : Nat) (bs : List Byte) : (s.hbmPut a bs).ctxs = s.ctxs := rfl
@[simp] theorem State.hbmPut_pairs (a : Nat) (bs : List Byte) : (s.hbmPut a bs).pairs = s.pairs := rfl
@[simp] theorem State.hbmPut_arrays (a : Nat) (bs : List Byte) : (s.hbmPut a bs).arrays = s.arrays := rfl
@[simp] theorem State.hbmPut_prus (a : Nat) (bs : List Byte) : (s.hbmPut a bs).prus = s.prus := rfl
@[simp] theorem State.hbmPut_slices (a : Nat) (bs : List Byte) : (s.hbmPut a bs).slices = s.slices := rfl
@[simp] theorem State.hbmPut_signals (a : Nat) (bs : List Byte) : (s.hbmPut a bs).signals = s.signals := rfl
@[simp] theorem State.hbmPut_waiters (a : Nat) (bs : List Byte) : (s.hbmPut a bs).waiters = s.waiters := rfl
@[simp] theorem State.hbmPut_granted (a : Nat) (bs : List Byte) : (s.hbmPut a bs).granted = s.granted := rfl
@[simp] theorem State.hbmPut_samplers (a : Nat) (bs : List Byte) : (s.hbmPut a bs).samplers = s.samplers := rfl
@[simp] theorem State.hbmPut_swapArrays (a : Nat) (bs : List Byte) : (s.hbmPut a bs).swapArrays = s.swapArrays := rfl
@[simp] theorem State.hbmPut_swapWaiters (a : Nat) (bs : List Byte) : (s.hbmPut a bs).swapWaiters = s.swapWaiters := rfl
@[simp] theorem State.hbmPut_weirQuiet (a : Nat) (bs : List Byte) : (s.hbmPut a bs).weirQuiet = s.weirQuiet := rfl
@[simp] theorem State.hbmPut_sites (a : Nat) (bs : List Byte) : (s.hbmPut a bs).sites = s.sites := rfl
@[simp] theorem State.hbmPut_held (a : Nat) (bs : List Byte) : (s.hbmPut a bs).held = s.held := rfl
@[simp] theorem State.hbmPut_asking (a : Nat) (bs : List Byte) : (s.hbmPut a bs).asking = s.asking := rfl
@[simp] theorem State.hbmPut_outstanding (a : Nat) (bs : List Byte) : (s.hbmPut a bs).outstanding = s.outstanding := rfl
@[simp] theorem State.hbmPut_granaries (a : Nat) (bs : List Byte) : (s.hbmPut a bs).granaries = s.granaries := rfl
@[simp] theorem State.hbmPut_objects (a : Nat) (bs : List Byte) : (s.hbmPut a bs).objects = s.objects := rfl
@[simp] theorem State.hbmPut_stats (a : Nat) (bs : List Byte) : (s.hbmPut a bs).stats = s.stats := rfl
@[simp] theorem State.hbmPut_blocks (a : Nat) (bs : List Byte) : (s.hbmPut a bs).blocks = s.blocks := rfl
@[simp] theorem State.hbmPut_curv (a : Nat) (bs : List Byte) : (s.hbmPut a bs).curv = s.curv := rfl
@[simp] theorem State.hbmPut_runs (a : Nat) (bs : List Byte) : (s.hbmPut a bs).runs = s.runs := rfl
@[simp] theorem State.hbmPut_gran (a : Nat) (bs : List Byte) : (s.hbmPut a bs).gran = s.gran := rfl
@[simp] theorem State.hbmPut_lastSealed (a : Nat) (bs : List Byte) : (s.hbmPut a bs).lastSealed = s.lastSealed := rfl
@[simp] theorem State.hbmPut_txns (a : Nat) (bs : List Byte) : (s.hbmPut a bs).txns = s.txns := rfl
@[simp] theorem State.hbmPut_txnCount (a : Nat) (bs : List Byte) : (s.hbmPut a bs).txnCount = s.txnCount := rfl
@[simp] theorem State.hbmPut_shadowDue (a : Nat) (bs : List Byte) : (s.hbmPut a bs).shadowDue = s.shadowDue := rfl
@[simp] theorem State.hbmPut_num (a : Nat) (bs : List Byte) : (s.hbmPut a bs).num = s.num := rfl
@[simp] theorem State.hbmPut_problems (a : Nat) (bs : List Byte) : (s.hbmPut a bs).problems = s.problems := rfl
@[simp] theorem State.hbmPut_batches (a : Nat) (bs : List Byte) : (s.hbmPut a bs).batches = s.batches := rfl
@[simp] theorem State.hbmPut_deltas (a : Nat) (bs : List Byte) : (s.hbmPut a bs).deltas = s.deltas := rfl
@[simp] theorem State.hbmPut_group (a : Nat) (bs : List Byte) : (s.hbmPut a bs).group = s.group := rfl
@[simp] theorem State.hbmPut_cad (a : Nat) (bs : List Byte) : (s.hbmPut a bs).cad = s.cad := rfl
@[simp] theorem State.hbmPut_pulses (a : Nat) (bs : List Byte) : (s.hbmPut a bs).pulses = s.pulses := rfl
@[simp] theorem State.hbmPut_levels (a : Nat) (bs : List Byte) : (s.hbmPut a bs).levels = s.levels := rfl
@[simp] theorem State.hbmPut_bwLatched (a : Nat) (bs : List Byte) : (s.hbmPut a bs).bwLatched = s.bwLatched := rfl
@[simp] theorem State.hbmPut_bwSeq (a : Nat) (bs : List Byte) : (s.hbmPut a bs).bwSeq = s.bwSeq := rfl
@[simp] theorem State.hbmPut_bwSince (a : Nat) (bs : List Byte) : (s.hbmPut a bs).bwSince = s.bwSince := rfl
@[simp] theorem State.hbmPut_bwLength (a : Nat) (bs : List Byte) : (s.hbmPut a bs).bwLength = s.bwLength := rfl
@[simp] theorem State.hbmPut_tenantPmc (a : Nat) (bs : List Byte) : (s.hbmPut a bs).tenantPmc = s.tenantPmc := rfl
@[simp] theorem State.hbmPut_boot (a : Nat) (bs : List Byte) : (s.hbmPut a bs).boot = s.boot := rfl
@[simp] theorem State.hbmPut_power (a : Nat) (bs : List Byte) : (s.hbmPut a bs).power = s.power := rfl
@[simp] theorem State.hbmPut_ras (a : Nat) (bs : List Byte) : (s.hbmPut a bs).ras = s.ras := rfl
@[simp] theorem State.hbmPut_attestCount (a : Nat) (bs : List Byte) : (s.hbmPut a bs).attestCount = s.attestCount := rfl
@[simp] theorem State.hbmPut_attestQueue (a : Nat) (bs : List Byte) : (s.hbmPut a bs).attestQueue = s.attestQueue := rfl

/-! ### State.setPort -/

@[simp] theorem State.setPort_pending (p : Port) (x : PortState) : (s.setPort p x).pending = s.pending := by cases p <;> rfl
@[simp] theorem State.setPort_pwrok (p : Port) (x : PortState) : (s.setPort p x).pwrok = s.pwrok := by cases p <;> rfl
@[simp] theorem State.setPort_rstHigh (p : Port) (x : PortState) : (s.setPort p x).rstHigh = s.rstHigh := by cases p <;> rfl
@[simp] theorem State.setPort_portaRole (p : Port) (x : PortState) : (s.setPort p x).portaRole = s.portaRole := by cases p <;> rfl
@[simp] theorem State.setPort_testMode (p : Port) (x : PortState) : (s.setPort p x).testMode = s.testMode := by cases p <;> rfl
@[simp] theorem State.setPort_now (p : Port) (x : PortState) : (s.setPort p x).now = s.now := by cases p <;> rfl
@[simp] theorem State.setPort_free (p : Port) (x : PortState) : (s.setPort p x).free = s.free := by cases p <;> rfl
@[simp] theorem State.setPort_regs (p : Port) (x : PortState) : (s.setPort p x).regs = s.regs := by cases p <;> rfl
@[simp] theorem State.setPort_hostA (p : Port) (x : PortState) : (s.setPort p x).hostA = s.hostA := by cases p <;> rfl
@[simp] theorem State.setPort_hostB (p : Port) (x : PortState) : (s.setPort p x).hostB = s.hostB := by cases p <;> rfl
@[simp] theorem State.setPort_smbus (p : Port) (x : PortState) : (s.setPort p x).smbus = s.smbus := by cases p <;> rfl
@[simp] theorem State.setPort_smbusNack (p : Port) (x : PortState) : (s.setPort p x).smbusNack = s.smbusNack := by cases p <;> rfl
@[simp] theorem State.setPort_jtag (p : Port) (x : PortState) : (s.setPort p x).jtag = s.jtag := by cases p <;> rfl
@[simp] theorem State.setPort_ctxs (p : Port) (x : PortState) : (s.setPort p x).ctxs = s.ctxs := by cases p <;> rfl
@[simp] theorem State.setPort_pairs (p : Port) (x : PortState) : (s.setPort p x).pairs = s.pairs := by cases p <;> rfl
@[simp] theorem State.setPort_arrays (p : Port) (x : PortState) : (s.setPort p x).arrays = s.arrays := by cases p <;> rfl
@[simp] theorem State.setPort_prus (p : Port) (x : PortState) : (s.setPort p x).prus = s.prus := by cases p <;> rfl
@[simp] theorem State.setPort_slices (p : Port) (x : PortState) : (s.setPort p x).slices = s.slices := by cases p <;> rfl
@[simp] theorem State.setPort_signals (p : Port) (x : PortState) : (s.setPort p x).signals = s.signals := by cases p <;> rfl
@[simp] theorem State.setPort_waiters (p : Port) (x : PortState) : (s.setPort p x).waiters = s.waiters := by cases p <;> rfl
@[simp] theorem State.setPort_granted (p : Port) (x : PortState) : (s.setPort p x).granted = s.granted := by cases p <;> rfl
@[simp] theorem State.setPort_samplers (p : Port) (x : PortState) : (s.setPort p x).samplers = s.samplers := by cases p <;> rfl
@[simp] theorem State.setPort_swapArrays (p : Port) (x : PortState) : (s.setPort p x).swapArrays = s.swapArrays := by cases p <;> rfl
@[simp] theorem State.setPort_swapWaiters (p : Port) (x : PortState) : (s.setPort p x).swapWaiters = s.swapWaiters := by cases p <;> rfl
@[simp] theorem State.setPort_weirQuiet (p : Port) (x : PortState) : (s.setPort p x).weirQuiet = s.weirQuiet := by cases p <;> rfl
@[simp] theorem State.setPort_hbm (p : Port) (x : PortState) : (s.setPort p x).hbm = s.hbm := by cases p <;> rfl
@[simp] theorem State.setPort_sites (p : Port) (x : PortState) : (s.setPort p x).sites = s.sites := by cases p <;> rfl
@[simp] theorem State.setPort_held (p : Port) (x : PortState) : (s.setPort p x).held = s.held := by cases p <;> rfl
@[simp] theorem State.setPort_asking (p : Port) (x : PortState) : (s.setPort p x).asking = s.asking := by cases p <;> rfl
@[simp] theorem State.setPort_outstanding (p : Port) (x : PortState) : (s.setPort p x).outstanding = s.outstanding := by cases p <;> rfl
@[simp] theorem State.setPort_granaries (p : Port) (x : PortState) : (s.setPort p x).granaries = s.granaries := by cases p <;> rfl
@[simp] theorem State.setPort_objects (p : Port) (x : PortState) : (s.setPort p x).objects = s.objects := by cases p <;> rfl
@[simp] theorem State.setPort_stats (p : Port) (x : PortState) : (s.setPort p x).stats = s.stats := by cases p <;> rfl
@[simp] theorem State.setPort_blocks (p : Port) (x : PortState) : (s.setPort p x).blocks = s.blocks := by cases p <;> rfl
@[simp] theorem State.setPort_curv (p : Port) (x : PortState) : (s.setPort p x).curv = s.curv := by cases p <;> rfl
@[simp] theorem State.setPort_runs (p : Port) (x : PortState) : (s.setPort p x).runs = s.runs := by cases p <;> rfl
@[simp] theorem State.setPort_gran (p : Port) (x : PortState) : (s.setPort p x).gran = s.gran := by cases p <;> rfl
@[simp] theorem State.setPort_lastSealed (p : Port) (x : PortState) : (s.setPort p x).lastSealed = s.lastSealed := by cases p <;> rfl
@[simp] theorem State.setPort_txns (p : Port) (x : PortState) : (s.setPort p x).txns = s.txns := by cases p <;> rfl
@[simp] theorem State.setPort_txnCount (p : Port) (x : PortState) : (s.setPort p x).txnCount = s.txnCount := by cases p <;> rfl
@[simp] theorem State.setPort_shadowDue (p : Port) (x : PortState) : (s.setPort p x).shadowDue = s.shadowDue := by cases p <;> rfl
@[simp] theorem State.setPort_num (p : Port) (x : PortState) : (s.setPort p x).num = s.num := by cases p <;> rfl
@[simp] theorem State.setPort_problems (p : Port) (x : PortState) : (s.setPort p x).problems = s.problems := by cases p <;> rfl
@[simp] theorem State.setPort_batches (p : Port) (x : PortState) : (s.setPort p x).batches = s.batches := by cases p <;> rfl
@[simp] theorem State.setPort_deltas (p : Port) (x : PortState) : (s.setPort p x).deltas = s.deltas := by cases p <;> rfl
@[simp] theorem State.setPort_group (p : Port) (x : PortState) : (s.setPort p x).group = s.group := by cases p <;> rfl
@[simp] theorem State.setPort_cad (p : Port) (x : PortState) : (s.setPort p x).cad = s.cad := by cases p <;> rfl
@[simp] theorem State.setPort_pulses (p : Port) (x : PortState) : (s.setPort p x).pulses = s.pulses := by cases p <;> rfl
@[simp] theorem State.setPort_levels (p : Port) (x : PortState) : (s.setPort p x).levels = s.levels := by cases p <;> rfl
@[simp] theorem State.setPort_bwLatched (p : Port) (x : PortState) : (s.setPort p x).bwLatched = s.bwLatched := by cases p <;> rfl
@[simp] theorem State.setPort_bwSeq (p : Port) (x : PortState) : (s.setPort p x).bwSeq = s.bwSeq := by cases p <;> rfl
@[simp] theorem State.setPort_bwSince (p : Port) (x : PortState) : (s.setPort p x).bwSince = s.bwSince := by cases p <;> rfl
@[simp] theorem State.setPort_bwLength (p : Port) (x : PortState) : (s.setPort p x).bwLength = s.bwLength := by cases p <;> rfl
@[simp] theorem State.setPort_tenantPmc (p : Port) (x : PortState) : (s.setPort p x).tenantPmc = s.tenantPmc := by cases p <;> rfl
@[simp] theorem State.setPort_boot (p : Port) (x : PortState) : (s.setPort p x).boot = s.boot := by cases p <;> rfl
@[simp] theorem State.setPort_power (p : Port) (x : PortState) : (s.setPort p x).power = s.power := by cases p <;> rfl
@[simp] theorem State.setPort_ras (p : Port) (x : PortState) : (s.setPort p x).ras = s.ras := by cases p <;> rfl
@[simp] theorem State.setPort_attestCount (p : Port) (x : PortState) : (s.setPort p x).attestCount = s.attestCount := by cases p <;> rfl
@[simp] theorem State.setPort_attestQueue (p : Port) (x : PortState) : (s.setPort p x).attestQueue = s.attestQueue := by cases p <;> rfl

/-! ### State.modPort -/

@[simp] theorem State.modPort_pending (p : Port) (f : PortState → PortState) : (s.modPort p f).pending = s.pending := by cases p <;> rfl
@[simp] theorem State.modPort_pwrok (p : Port) (f : PortState → PortState) : (s.modPort p f).pwrok = s.pwrok := by cases p <;> rfl
@[simp] theorem State.modPort_rstHigh (p : Port) (f : PortState → PortState) : (s.modPort p f).rstHigh = s.rstHigh := by cases p <;> rfl
@[simp] theorem State.modPort_portaRole (p : Port) (f : PortState → PortState) : (s.modPort p f).portaRole = s.portaRole := by cases p <;> rfl
@[simp] theorem State.modPort_testMode (p : Port) (f : PortState → PortState) : (s.modPort p f).testMode = s.testMode := by cases p <;> rfl
@[simp] theorem State.modPort_now (p : Port) (f : PortState → PortState) : (s.modPort p f).now = s.now := by cases p <;> rfl
@[simp] theorem State.modPort_free (p : Port) (f : PortState → PortState) : (s.modPort p f).free = s.free := by cases p <;> rfl
@[simp] theorem State.modPort_regs (p : Port) (f : PortState → PortState) : (s.modPort p f).regs = s.regs := by cases p <;> rfl
@[simp] theorem State.modPort_hostA (p : Port) (f : PortState → PortState) : (s.modPort p f).hostA = s.hostA := by cases p <;> rfl
@[simp] theorem State.modPort_hostB (p : Port) (f : PortState → PortState) : (s.modPort p f).hostB = s.hostB := by cases p <;> rfl
@[simp] theorem State.modPort_smbus (p : Port) (f : PortState → PortState) : (s.modPort p f).smbus = s.smbus := by cases p <;> rfl
@[simp] theorem State.modPort_smbusNack (p : Port) (f : PortState → PortState) : (s.modPort p f).smbusNack = s.smbusNack := by cases p <;> rfl
@[simp] theorem State.modPort_jtag (p : Port) (f : PortState → PortState) : (s.modPort p f).jtag = s.jtag := by cases p <;> rfl
@[simp] theorem State.modPort_ctxs (p : Port) (f : PortState → PortState) : (s.modPort p f).ctxs = s.ctxs := by cases p <;> rfl
@[simp] theorem State.modPort_pairs (p : Port) (f : PortState → PortState) : (s.modPort p f).pairs = s.pairs := by cases p <;> rfl
@[simp] theorem State.modPort_arrays (p : Port) (f : PortState → PortState) : (s.modPort p f).arrays = s.arrays := by cases p <;> rfl
@[simp] theorem State.modPort_prus (p : Port) (f : PortState → PortState) : (s.modPort p f).prus = s.prus := by cases p <;> rfl
@[simp] theorem State.modPort_slices (p : Port) (f : PortState → PortState) : (s.modPort p f).slices = s.slices := by cases p <;> rfl
@[simp] theorem State.modPort_signals (p : Port) (f : PortState → PortState) : (s.modPort p f).signals = s.signals := by cases p <;> rfl
@[simp] theorem State.modPort_waiters (p : Port) (f : PortState → PortState) : (s.modPort p f).waiters = s.waiters := by cases p <;> rfl
@[simp] theorem State.modPort_granted (p : Port) (f : PortState → PortState) : (s.modPort p f).granted = s.granted := by cases p <;> rfl
@[simp] theorem State.modPort_samplers (p : Port) (f : PortState → PortState) : (s.modPort p f).samplers = s.samplers := by cases p <;> rfl
@[simp] theorem State.modPort_swapArrays (p : Port) (f : PortState → PortState) : (s.modPort p f).swapArrays = s.swapArrays := by cases p <;> rfl
@[simp] theorem State.modPort_swapWaiters (p : Port) (f : PortState → PortState) : (s.modPort p f).swapWaiters = s.swapWaiters := by cases p <;> rfl
@[simp] theorem State.modPort_weirQuiet (p : Port) (f : PortState → PortState) : (s.modPort p f).weirQuiet = s.weirQuiet := by cases p <;> rfl
@[simp] theorem State.modPort_hbm (p : Port) (f : PortState → PortState) : (s.modPort p f).hbm = s.hbm := by cases p <;> rfl
@[simp] theorem State.modPort_sites (p : Port) (f : PortState → PortState) : (s.modPort p f).sites = s.sites := by cases p <;> rfl
@[simp] theorem State.modPort_held (p : Port) (f : PortState → PortState) : (s.modPort p f).held = s.held := by cases p <;> rfl
@[simp] theorem State.modPort_asking (p : Port) (f : PortState → PortState) : (s.modPort p f).asking = s.asking := by cases p <;> rfl
@[simp] theorem State.modPort_outstanding (p : Port) (f : PortState → PortState) : (s.modPort p f).outstanding = s.outstanding := by cases p <;> rfl
@[simp] theorem State.modPort_granaries (p : Port) (f : PortState → PortState) : (s.modPort p f).granaries = s.granaries := by cases p <;> rfl
@[simp] theorem State.modPort_objects (p : Port) (f : PortState → PortState) : (s.modPort p f).objects = s.objects := by cases p <;> rfl
@[simp] theorem State.modPort_stats (p : Port) (f : PortState → PortState) : (s.modPort p f).stats = s.stats := by cases p <;> rfl
@[simp] theorem State.modPort_blocks (p : Port) (f : PortState → PortState) : (s.modPort p f).blocks = s.blocks := by cases p <;> rfl
@[simp] theorem State.modPort_curv (p : Port) (f : PortState → PortState) : (s.modPort p f).curv = s.curv := by cases p <;> rfl
@[simp] theorem State.modPort_runs (p : Port) (f : PortState → PortState) : (s.modPort p f).runs = s.runs := by cases p <;> rfl
@[simp] theorem State.modPort_gran (p : Port) (f : PortState → PortState) : (s.modPort p f).gran = s.gran := by cases p <;> rfl
@[simp] theorem State.modPort_lastSealed (p : Port) (f : PortState → PortState) : (s.modPort p f).lastSealed = s.lastSealed := by cases p <;> rfl
@[simp] theorem State.modPort_txns (p : Port) (f : PortState → PortState) : (s.modPort p f).txns = s.txns := by cases p <;> rfl
@[simp] theorem State.modPort_txnCount (p : Port) (f : PortState → PortState) : (s.modPort p f).txnCount = s.txnCount := by cases p <;> rfl
@[simp] theorem State.modPort_shadowDue (p : Port) (f : PortState → PortState) : (s.modPort p f).shadowDue = s.shadowDue := by cases p <;> rfl
@[simp] theorem State.modPort_num (p : Port) (f : PortState → PortState) : (s.modPort p f).num = s.num := by cases p <;> rfl
@[simp] theorem State.modPort_problems (p : Port) (f : PortState → PortState) : (s.modPort p f).problems = s.problems := by cases p <;> rfl
@[simp] theorem State.modPort_batches (p : Port) (f : PortState → PortState) : (s.modPort p f).batches = s.batches := by cases p <;> rfl
@[simp] theorem State.modPort_deltas (p : Port) (f : PortState → PortState) : (s.modPort p f).deltas = s.deltas := by cases p <;> rfl
@[simp] theorem State.modPort_group (p : Port) (f : PortState → PortState) : (s.modPort p f).group = s.group := by cases p <;> rfl
@[simp] theorem State.modPort_cad (p : Port) (f : PortState → PortState) : (s.modPort p f).cad = s.cad := by cases p <;> rfl
@[simp] theorem State.modPort_pulses (p : Port) (f : PortState → PortState) : (s.modPort p f).pulses = s.pulses := by cases p <;> rfl
@[simp] theorem State.modPort_levels (p : Port) (f : PortState → PortState) : (s.modPort p f).levels = s.levels := by cases p <;> rfl
@[simp] theorem State.modPort_bwLatched (p : Port) (f : PortState → PortState) : (s.modPort p f).bwLatched = s.bwLatched := by cases p <;> rfl
@[simp] theorem State.modPort_bwSeq (p : Port) (f : PortState → PortState) : (s.modPort p f).bwSeq = s.bwSeq := by cases p <;> rfl
@[simp] theorem State.modPort_bwSince (p : Port) (f : PortState → PortState) : (s.modPort p f).bwSince = s.bwSince := by cases p <;> rfl
@[simp] theorem State.modPort_bwLength (p : Port) (f : PortState → PortState) : (s.modPort p f).bwLength = s.bwLength := by cases p <;> rfl
@[simp] theorem State.modPort_tenantPmc (p : Port) (f : PortState → PortState) : (s.modPort p f).tenantPmc = s.tenantPmc := by cases p <;> rfl
@[simp] theorem State.modPort_boot (p : Port) (f : PortState → PortState) : (s.modPort p f).boot = s.boot := by cases p <;> rfl
@[simp] theorem State.modPort_power (p : Port) (f : PortState → PortState) : (s.modPort p f).power = s.power := by cases p <;> rfl
@[simp] theorem State.modPort_ras (p : Port) (f : PortState → PortState) : (s.modPort p f).ras = s.ras := by cases p <;> rfl
@[simp] theorem State.modPort_attestCount (p : Port) (f : PortState → PortState) : (s.modPort p f).attestCount = s.attestCount := by cases p <;> rfl
@[simp] theorem State.modPort_attestQueue (p : Port) (f : PortState → PortState) : (s.modPort p f).attestQueue = s.attestQueue := by cases p <;> rfl

/-! ### State.setHost -/

@[simp] theorem State.setHost_pending (p : Port) (m : Memory) : (s.setHost p m).pending = s.pending := by cases p <;> rfl
@[simp] theorem State.setHost_pwrok (p : Port) (m : Memory) : (s.setHost p m).pwrok = s.pwrok := by cases p <;> rfl
@[simp] theorem State.setHost_rstHigh (p : Port) (m : Memory) : (s.setHost p m).rstHigh = s.rstHigh := by cases p <;> rfl
@[simp] theorem State.setHost_portaRole (p : Port) (m : Memory) : (s.setHost p m).portaRole = s.portaRole := by cases p <;> rfl
@[simp] theorem State.setHost_testMode (p : Port) (m : Memory) : (s.setHost p m).testMode = s.testMode := by cases p <;> rfl
@[simp] theorem State.setHost_now (p : Port) (m : Memory) : (s.setHost p m).now = s.now := by cases p <;> rfl
@[simp] theorem State.setHost_free (p : Port) (m : Memory) : (s.setHost p m).free = s.free := by cases p <;> rfl
@[simp] theorem State.setHost_regs (p : Port) (m : Memory) : (s.setHost p m).regs = s.regs := by cases p <;> rfl
@[simp] theorem State.setHost_steward (p : Port) (m : Memory) : (s.setHost p m).steward = s.steward := by cases p <;> rfl
@[simp] theorem State.setHost_tenant (p : Port) (m : Memory) : (s.setHost p m).tenant = s.tenant := by cases p <;> rfl
@[simp] theorem State.setHost_smbus (p : Port) (m : Memory) : (s.setHost p m).smbus = s.smbus := by cases p <;> rfl
@[simp] theorem State.setHost_smbusNack (p : Port) (m : Memory) : (s.setHost p m).smbusNack = s.smbusNack := by cases p <;> rfl
@[simp] theorem State.setHost_jtag (p : Port) (m : Memory) : (s.setHost p m).jtag = s.jtag := by cases p <;> rfl
@[simp] theorem State.setHost_ctxs (p : Port) (m : Memory) : (s.setHost p m).ctxs = s.ctxs := by cases p <;> rfl
@[simp] theorem State.setHost_pairs (p : Port) (m : Memory) : (s.setHost p m).pairs = s.pairs := by cases p <;> rfl
@[simp] theorem State.setHost_arrays (p : Port) (m : Memory) : (s.setHost p m).arrays = s.arrays := by cases p <;> rfl
@[simp] theorem State.setHost_prus (p : Port) (m : Memory) : (s.setHost p m).prus = s.prus := by cases p <;> rfl
@[simp] theorem State.setHost_slices (p : Port) (m : Memory) : (s.setHost p m).slices = s.slices := by cases p <;> rfl
@[simp] theorem State.setHost_signals (p : Port) (m : Memory) : (s.setHost p m).signals = s.signals := by cases p <;> rfl
@[simp] theorem State.setHost_waiters (p : Port) (m : Memory) : (s.setHost p m).waiters = s.waiters := by cases p <;> rfl
@[simp] theorem State.setHost_granted (p : Port) (m : Memory) : (s.setHost p m).granted = s.granted := by cases p <;> rfl
@[simp] theorem State.setHost_samplers (p : Port) (m : Memory) : (s.setHost p m).samplers = s.samplers := by cases p <;> rfl
@[simp] theorem State.setHost_swapArrays (p : Port) (m : Memory) : (s.setHost p m).swapArrays = s.swapArrays := by cases p <;> rfl
@[simp] theorem State.setHost_swapWaiters (p : Port) (m : Memory) : (s.setHost p m).swapWaiters = s.swapWaiters := by cases p <;> rfl
@[simp] theorem State.setHost_weirQuiet (p : Port) (m : Memory) : (s.setHost p m).weirQuiet = s.weirQuiet := by cases p <;> rfl
@[simp] theorem State.setHost_hbm (p : Port) (m : Memory) : (s.setHost p m).hbm = s.hbm := by cases p <;> rfl
@[simp] theorem State.setHost_sites (p : Port) (m : Memory) : (s.setHost p m).sites = s.sites := by cases p <;> rfl
@[simp] theorem State.setHost_held (p : Port) (m : Memory) : (s.setHost p m).held = s.held := by cases p <;> rfl
@[simp] theorem State.setHost_asking (p : Port) (m : Memory) : (s.setHost p m).asking = s.asking := by cases p <;> rfl
@[simp] theorem State.setHost_outstanding (p : Port) (m : Memory) : (s.setHost p m).outstanding = s.outstanding := by cases p <;> rfl
@[simp] theorem State.setHost_granaries (p : Port) (m : Memory) : (s.setHost p m).granaries = s.granaries := by cases p <;> rfl
@[simp] theorem State.setHost_objects (p : Port) (m : Memory) : (s.setHost p m).objects = s.objects := by cases p <;> rfl
@[simp] theorem State.setHost_stats (p : Port) (m : Memory) : (s.setHost p m).stats = s.stats := by cases p <;> rfl
@[simp] theorem State.setHost_blocks (p : Port) (m : Memory) : (s.setHost p m).blocks = s.blocks := by cases p <;> rfl
@[simp] theorem State.setHost_curv (p : Port) (m : Memory) : (s.setHost p m).curv = s.curv := by cases p <;> rfl
@[simp] theorem State.setHost_runs (p : Port) (m : Memory) : (s.setHost p m).runs = s.runs := by cases p <;> rfl
@[simp] theorem State.setHost_gran (p : Port) (m : Memory) : (s.setHost p m).gran = s.gran := by cases p <;> rfl
@[simp] theorem State.setHost_lastSealed (p : Port) (m : Memory) : (s.setHost p m).lastSealed = s.lastSealed := by cases p <;> rfl
@[simp] theorem State.setHost_txns (p : Port) (m : Memory) : (s.setHost p m).txns = s.txns := by cases p <;> rfl
@[simp] theorem State.setHost_txnCount (p : Port) (m : Memory) : (s.setHost p m).txnCount = s.txnCount := by cases p <;> rfl
@[simp] theorem State.setHost_shadowDue (p : Port) (m : Memory) : (s.setHost p m).shadowDue = s.shadowDue := by cases p <;> rfl
@[simp] theorem State.setHost_num (p : Port) (m : Memory) : (s.setHost p m).num = s.num := by cases p <;> rfl
@[simp] theorem State.setHost_problems (p : Port) (m : Memory) : (s.setHost p m).problems = s.problems := by cases p <;> rfl
@[simp] theorem State.setHost_batches (p : Port) (m : Memory) : (s.setHost p m).batches = s.batches := by cases p <;> rfl
@[simp] theorem State.setHost_deltas (p : Port) (m : Memory) : (s.setHost p m).deltas = s.deltas := by cases p <;> rfl
@[simp] theorem State.setHost_group (p : Port) (m : Memory) : (s.setHost p m).group = s.group := by cases p <;> rfl
@[simp] theorem State.setHost_cad (p : Port) (m : Memory) : (s.setHost p m).cad = s.cad := by cases p <;> rfl
@[simp] theorem State.setHost_pulses (p : Port) (m : Memory) : (s.setHost p m).pulses = s.pulses := by cases p <;> rfl
@[simp] theorem State.setHost_levels (p : Port) (m : Memory) : (s.setHost p m).levels = s.levels := by cases p <;> rfl
@[simp] theorem State.setHost_bwLatched (p : Port) (m : Memory) : (s.setHost p m).bwLatched = s.bwLatched := by cases p <;> rfl
@[simp] theorem State.setHost_bwSeq (p : Port) (m : Memory) : (s.setHost p m).bwSeq = s.bwSeq := by cases p <;> rfl
@[simp] theorem State.setHost_bwSince (p : Port) (m : Memory) : (s.setHost p m).bwSince = s.bwSince := by cases p <;> rfl
@[simp] theorem State.setHost_bwLength (p : Port) (m : Memory) : (s.setHost p m).bwLength = s.bwLength := by cases p <;> rfl
@[simp] theorem State.setHost_tenantPmc (p : Port) (m : Memory) : (s.setHost p m).tenantPmc = s.tenantPmc := by cases p <;> rfl
@[simp] theorem State.setHost_boot (p : Port) (m : Memory) : (s.setHost p m).boot = s.boot := by cases p <;> rfl
@[simp] theorem State.setHost_power (p : Port) (m : Memory) : (s.setHost p m).power = s.power := by cases p <;> rfl
@[simp] theorem State.setHost_ras (p : Port) (m : Memory) : (s.setHost p m).ras = s.ras := by cases p <;> rfl
@[simp] theorem State.setHost_attestCount (p : Port) (m : Memory) : (s.setHost p m).attestCount = s.attestCount := by cases p <;> rfl
@[simp] theorem State.setHost_attestQueue (p : Port) (m : Memory) : (s.setHost p m).attestQueue = s.attestQueue := by cases p <;> rfl

/-! ### State.cfgError -/

@[simp] theorem State.cfgError_pending (p : Port) (o : Nat) : (s.cfgError p o).pending = s.pending := rfl
@[simp] theorem State.cfgError_pwrok (p : Port) (o : Nat) : (s.cfgError p o).pwrok = s.pwrok := rfl
@[simp] theorem State.cfgError_rstHigh (p : Port) (o : Nat) : (s.cfgError p o).rstHigh = s.rstHigh := rfl
@[simp] theorem State.cfgError_portaRole (p : Port) (o : Nat) : (s.cfgError p o).portaRole = s.portaRole := rfl
@[simp] theorem State.cfgError_testMode (p : Port) (o : Nat) : (s.cfgError p o).testMode = s.testMode := rfl
@[simp] theorem State.cfgError_now (p : Port) (o : Nat) : (s.cfgError p o).now = s.now := rfl
@[simp] theorem State.cfgError_free (p : Port) (o : Nat) : (s.cfgError p o).free = s.free := rfl
@[simp] theorem State.cfgError_regs (p : Port) (o : Nat) : (s.cfgError p o).regs = s.regs := rfl
@[simp] theorem State.cfgError_hostA (p : Port) (o : Nat) : (s.cfgError p o).hostA = s.hostA := rfl
@[simp] theorem State.cfgError_hostB (p : Port) (o : Nat) : (s.cfgError p o).hostB = s.hostB := rfl
@[simp] theorem State.cfgError_steward (p : Port) (o : Nat) : (s.cfgError p o).steward = s.steward := rfl
@[simp] theorem State.cfgError_tenant (p : Port) (o : Nat) : (s.cfgError p o).tenant = s.tenant := rfl
@[simp] theorem State.cfgError_smbus (p : Port) (o : Nat) : (s.cfgError p o).smbus = s.smbus := rfl
@[simp] theorem State.cfgError_smbusNack (p : Port) (o : Nat) : (s.cfgError p o).smbusNack = s.smbusNack := rfl
@[simp] theorem State.cfgError_jtag (p : Port) (o : Nat) : (s.cfgError p o).jtag = s.jtag := rfl
@[simp] theorem State.cfgError_ctxs (p : Port) (o : Nat) : (s.cfgError p o).ctxs = s.ctxs := rfl
@[simp] theorem State.cfgError_pairs (p : Port) (o : Nat) : (s.cfgError p o).pairs = s.pairs := rfl
@[simp] theorem State.cfgError_arrays (p : Port) (o : Nat) : (s.cfgError p o).arrays = s.arrays := rfl
@[simp] theorem State.cfgError_prus (p : Port) (o : Nat) : (s.cfgError p o).prus = s.prus := rfl
@[simp] theorem State.cfgError_slices (p : Port) (o : Nat) : (s.cfgError p o).slices = s.slices := rfl
@[simp] theorem State.cfgError_signals (p : Port) (o : Nat) : (s.cfgError p o).signals = s.signals := rfl
@[simp] theorem State.cfgError_waiters (p : Port) (o : Nat) : (s.cfgError p o).waiters = s.waiters := rfl
@[simp] theorem State.cfgError_granted (p : Port) (o : Nat) : (s.cfgError p o).granted = s.granted := rfl
@[simp] theorem State.cfgError_samplers (p : Port) (o : Nat) : (s.cfgError p o).samplers = s.samplers := rfl
@[simp] theorem State.cfgError_swapArrays (p : Port) (o : Nat) : (s.cfgError p o).swapArrays = s.swapArrays := rfl
@[simp] theorem State.cfgError_swapWaiters (p : Port) (o : Nat) : (s.cfgError p o).swapWaiters = s.swapWaiters := rfl
@[simp] theorem State.cfgError_weirQuiet (p : Port) (o : Nat) : (s.cfgError p o).weirQuiet = s.weirQuiet := rfl
@[simp] theorem State.cfgError_hbm (p : Port) (o : Nat) : (s.cfgError p o).hbm = s.hbm := rfl
@[simp] theorem State.cfgError_sites (p : Port) (o : Nat) : (s.cfgError p o).sites = s.sites := rfl
@[simp] theorem State.cfgError_held (p : Port) (o : Nat) : (s.cfgError p o).held = s.held := rfl
@[simp] theorem State.cfgError_asking (p : Port) (o : Nat) : (s.cfgError p o).asking = s.asking := rfl
@[simp] theorem State.cfgError_outstanding (p : Port) (o : Nat) : (s.cfgError p o).outstanding = s.outstanding := rfl
@[simp] theorem State.cfgError_granaries (p : Port) (o : Nat) : (s.cfgError p o).granaries = s.granaries := rfl
@[simp] theorem State.cfgError_objects (p : Port) (o : Nat) : (s.cfgError p o).objects = s.objects := rfl
@[simp] theorem State.cfgError_stats (p : Port) (o : Nat) : (s.cfgError p o).stats = s.stats := rfl
@[simp] theorem State.cfgError_blocks (p : Port) (o : Nat) : (s.cfgError p o).blocks = s.blocks := rfl
@[simp] theorem State.cfgError_curv (p : Port) (o : Nat) : (s.cfgError p o).curv = s.curv := rfl
@[simp] theorem State.cfgError_runs (p : Port) (o : Nat) : (s.cfgError p o).runs = s.runs := rfl
@[simp] theorem State.cfgError_gran (p : Port) (o : Nat) : (s.cfgError p o).gran = s.gran := rfl
@[simp] theorem State.cfgError_lastSealed (p : Port) (o : Nat) : (s.cfgError p o).lastSealed = s.lastSealed := rfl
@[simp] theorem State.cfgError_txns (p : Port) (o : Nat) : (s.cfgError p o).txns = s.txns := rfl
@[simp] theorem State.cfgError_txnCount (p : Port) (o : Nat) : (s.cfgError p o).txnCount = s.txnCount := rfl
@[simp] theorem State.cfgError_shadowDue (p : Port) (o : Nat) : (s.cfgError p o).shadowDue = s.shadowDue := rfl
@[simp] theorem State.cfgError_num (p : Port) (o : Nat) : (s.cfgError p o).num = s.num := rfl
@[simp] theorem State.cfgError_problems (p : Port) (o : Nat) : (s.cfgError p o).problems = s.problems := rfl
@[simp] theorem State.cfgError_batches (p : Port) (o : Nat) : (s.cfgError p o).batches = s.batches := rfl
@[simp] theorem State.cfgError_deltas (p : Port) (o : Nat) : (s.cfgError p o).deltas = s.deltas := rfl
@[simp] theorem State.cfgError_group (p : Port) (o : Nat) : (s.cfgError p o).group = s.group := rfl
@[simp] theorem State.cfgError_cad (p : Port) (o : Nat) : (s.cfgError p o).cad = s.cad := rfl
@[simp] theorem State.cfgError_pulses (p : Port) (o : Nat) : (s.cfgError p o).pulses = s.pulses := rfl
@[simp] theorem State.cfgError_levels (p : Port) (o : Nat) : (s.cfgError p o).levels = s.levels := rfl
@[simp] theorem State.cfgError_bwLatched (p : Port) (o : Nat) : (s.cfgError p o).bwLatched = s.bwLatched := rfl
@[simp] theorem State.cfgError_bwSeq (p : Port) (o : Nat) : (s.cfgError p o).bwSeq = s.bwSeq := rfl
@[simp] theorem State.cfgError_bwSince (p : Port) (o : Nat) : (s.cfgError p o).bwSince = s.bwSince := rfl
@[simp] theorem State.cfgError_bwLength (p : Port) (o : Nat) : (s.cfgError p o).bwLength = s.bwLength := rfl
@[simp] theorem State.cfgError_tenantPmc (p : Port) (o : Nat) : (s.cfgError p o).tenantPmc = s.tenantPmc := rfl
@[simp] theorem State.cfgError_boot (p : Port) (o : Nat) : (s.cfgError p o).boot = s.boot := rfl
@[simp] theorem State.cfgError_power (p : Port) (o : Nat) : (s.cfgError p o).power = s.power := rfl
@[simp] theorem State.cfgError_attestCount (p : Port) (o : Nat) : (s.cfgError p o).attestCount = s.attestCount := rfl
@[simp] theorem State.cfgError_attestQueue (p : Port) (o : Nat) : (s.cfgError p o).attestQueue = s.attestQueue := rfl

/-! ### State.pulse -/

@[simp] theorem State.pulse_pending (e u v c : Nat) (m : Word) : (s.pulse e u v c m).pending = s.pending := by unfold State.pulse; split <;> rfl
@[simp] theorem State.pulse_pwrok (e u v c : Nat) (m : Word) : (s.pulse e u v c m).pwrok = s.pwrok := by unfold State.pulse; split <;> rfl
@[simp] theorem State.pulse_rstHigh (e u v c : Nat) (m : Word) : (s.pulse e u v c m).rstHigh = s.rstHigh := by unfold State.pulse; split <;> rfl
@[simp] theorem State.pulse_portaRole (e u v c : Nat) (m : Word) : (s.pulse e u v c m).portaRole = s.portaRole := by unfold State.pulse; split <;> rfl
@[simp] theorem State.pulse_testMode (e u v c : Nat) (m : Word) : (s.pulse e u v c m).testMode = s.testMode := by unfold State.pulse; split <;> rfl
@[simp] theorem State.pulse_now (e u v c : Nat) (m : Word) : (s.pulse e u v c m).now = s.now := by unfold State.pulse; split <;> rfl
@[simp] theorem State.pulse_free (e u v c : Nat) (m : Word) : (s.pulse e u v c m).free = s.free := by unfold State.pulse; split <;> rfl
@[simp] theorem State.pulse_regs (e u v c : Nat) (m : Word) : (s.pulse e u v c m).regs = s.regs := by unfold State.pulse; split <;> rfl
@[simp] theorem State.pulse_hostA (e u v c : Nat) (m : Word) : (s.pulse e u v c m).hostA = s.hostA := by unfold State.pulse; split <;> rfl
@[simp] theorem State.pulse_hostB (e u v c : Nat) (m : Word) : (s.pulse e u v c m).hostB = s.hostB := by unfold State.pulse; split <;> rfl
@[simp] theorem State.pulse_steward (e u v c : Nat) (m : Word) : (s.pulse e u v c m).steward = s.steward := by unfold State.pulse; split <;> rfl
@[simp] theorem State.pulse_tenant (e u v c : Nat) (m : Word) : (s.pulse e u v c m).tenant = s.tenant := by unfold State.pulse; split <;> rfl
@[simp] theorem State.pulse_smbus (e u v c : Nat) (m : Word) : (s.pulse e u v c m).smbus = s.smbus := by unfold State.pulse; split <;> rfl
@[simp] theorem State.pulse_smbusNack (e u v c : Nat) (m : Word) : (s.pulse e u v c m).smbusNack = s.smbusNack := by unfold State.pulse; split <;> rfl
@[simp] theorem State.pulse_jtag (e u v c : Nat) (m : Word) : (s.pulse e u v c m).jtag = s.jtag := by unfold State.pulse; split <;> rfl
@[simp] theorem State.pulse_ctxs (e u v c : Nat) (m : Word) : (s.pulse e u v c m).ctxs = s.ctxs := by unfold State.pulse; split <;> rfl
@[simp] theorem State.pulse_pairs (e u v c : Nat) (m : Word) : (s.pulse e u v c m).pairs = s.pairs := by unfold State.pulse; split <;> rfl
@[simp] theorem State.pulse_arrays (e u v c : Nat) (m : Word) : (s.pulse e u v c m).arrays = s.arrays := by unfold State.pulse; split <;> rfl
@[simp] theorem State.pulse_prus (e u v c : Nat) (m : Word) : (s.pulse e u v c m).prus = s.prus := by unfold State.pulse; split <;> rfl
@[simp] theorem State.pulse_slices (e u v c : Nat) (m : Word) : (s.pulse e u v c m).slices = s.slices := by unfold State.pulse; split <;> rfl
@[simp] theorem State.pulse_signals (e u v c : Nat) (m : Word) : (s.pulse e u v c m).signals = s.signals := by unfold State.pulse; split <;> rfl
@[simp] theorem State.pulse_waiters (e u v c : Nat) (m : Word) : (s.pulse e u v c m).waiters = s.waiters := by unfold State.pulse; split <;> rfl
@[simp] theorem State.pulse_granted (e u v c : Nat) (m : Word) : (s.pulse e u v c m).granted = s.granted := by unfold State.pulse; split <;> rfl
@[simp] theorem State.pulse_samplers (e u v c : Nat) (m : Word) : (s.pulse e u v c m).samplers = s.samplers := by unfold State.pulse; split <;> rfl
@[simp] theorem State.pulse_swapArrays (e u v c : Nat) (m : Word) : (s.pulse e u v c m).swapArrays = s.swapArrays := by unfold State.pulse; split <;> rfl
@[simp] theorem State.pulse_swapWaiters (e u v c : Nat) (m : Word) : (s.pulse e u v c m).swapWaiters = s.swapWaiters := by unfold State.pulse; split <;> rfl
@[simp] theorem State.pulse_weirQuiet (e u v c : Nat) (m : Word) : (s.pulse e u v c m).weirQuiet = s.weirQuiet := by unfold State.pulse; split <;> rfl
@[simp] theorem State.pulse_hbm (e u v c : Nat) (m : Word) : (s.pulse e u v c m).hbm = s.hbm := by unfold State.pulse; split <;> rfl
@[simp] theorem State.pulse_sites (e u v c : Nat) (m : Word) : (s.pulse e u v c m).sites = s.sites := by unfold State.pulse; split <;> rfl
@[simp] theorem State.pulse_held (e u v c : Nat) (m : Word) : (s.pulse e u v c m).held = s.held := by unfold State.pulse; split <;> rfl
@[simp] theorem State.pulse_asking (e u v c : Nat) (m : Word) : (s.pulse e u v c m).asking = s.asking := by unfold State.pulse; split <;> rfl
@[simp] theorem State.pulse_outstanding (e u v c : Nat) (m : Word) : (s.pulse e u v c m).outstanding = s.outstanding := by unfold State.pulse; split <;> rfl
@[simp] theorem State.pulse_granaries (e u v c : Nat) (m : Word) : (s.pulse e u v c m).granaries = s.granaries := by unfold State.pulse; split <;> rfl
@[simp] theorem State.pulse_objects (e u v c : Nat) (m : Word) : (s.pulse e u v c m).objects = s.objects := by unfold State.pulse; split <;> rfl
@[simp] theorem State.pulse_stats (e u v c : Nat) (m : Word) : (s.pulse e u v c m).stats = s.stats := by unfold State.pulse; split <;> rfl
@[simp] theorem State.pulse_blocks (e u v c : Nat) (m : Word) : (s.pulse e u v c m).blocks = s.blocks := by unfold State.pulse; split <;> rfl
@[simp] theorem State.pulse_curv (e u v c : Nat) (m : Word) : (s.pulse e u v c m).curv = s.curv := by unfold State.pulse; split <;> rfl
@[simp] theorem State.pulse_runs (e u v c : Nat) (m : Word) : (s.pulse e u v c m).runs = s.runs := by unfold State.pulse; split <;> rfl
@[simp] theorem State.pulse_gran (e u v c : Nat) (m : Word) : (s.pulse e u v c m).gran = s.gran := by unfold State.pulse; split <;> rfl
@[simp] theorem State.pulse_lastSealed (e u v c : Nat) (m : Word) : (s.pulse e u v c m).lastSealed = s.lastSealed := by unfold State.pulse; split <;> rfl
@[simp] theorem State.pulse_txns (e u v c : Nat) (m : Word) : (s.pulse e u v c m).txns = s.txns := by unfold State.pulse; split <;> rfl
@[simp] theorem State.pulse_txnCount (e u v c : Nat) (m : Word) : (s.pulse e u v c m).txnCount = s.txnCount := by unfold State.pulse; split <;> rfl
@[simp] theorem State.pulse_shadowDue (e u v c : Nat) (m : Word) : (s.pulse e u v c m).shadowDue = s.shadowDue := by unfold State.pulse; split <;> rfl
@[simp] theorem State.pulse_num (e u v c : Nat) (m : Word) : (s.pulse e u v c m).num = s.num := by unfold State.pulse; split <;> rfl
@[simp] theorem State.pulse_problems (e u v c : Nat) (m : Word) : (s.pulse e u v c m).problems = s.problems := by unfold State.pulse; split <;> rfl
@[simp] theorem State.pulse_batches (e u v c : Nat) (m : Word) : (s.pulse e u v c m).batches = s.batches := by unfold State.pulse; split <;> rfl
@[simp] theorem State.pulse_deltas (e u v c : Nat) (m : Word) : (s.pulse e u v c m).deltas = s.deltas := by unfold State.pulse; split <;> rfl
@[simp] theorem State.pulse_group (e u v c : Nat) (m : Word) : (s.pulse e u v c m).group = s.group := by unfold State.pulse; split <;> rfl
@[simp] theorem State.pulse_cad (e u v c : Nat) (m : Word) : (s.pulse e u v c m).cad = s.cad := by unfold State.pulse; split <;> rfl
@[simp] theorem State.pulse_levels (e u v c : Nat) (m : Word) : (s.pulse e u v c m).levels = s.levels := by unfold State.pulse; split <;> rfl
@[simp] theorem State.pulse_bwLatched (e u v c : Nat) (m : Word) : (s.pulse e u v c m).bwLatched = s.bwLatched := by unfold State.pulse; split <;> rfl
@[simp] theorem State.pulse_bwSeq (e u v c : Nat) (m : Word) : (s.pulse e u v c m).bwSeq = s.bwSeq := by unfold State.pulse; split <;> rfl
@[simp] theorem State.pulse_bwSince (e u v c : Nat) (m : Word) : (s.pulse e u v c m).bwSince = s.bwSince := by unfold State.pulse; split <;> rfl
@[simp] theorem State.pulse_bwLength (e u v c : Nat) (m : Word) : (s.pulse e u v c m).bwLength = s.bwLength := by unfold State.pulse; split <;> rfl
@[simp] theorem State.pulse_tenantPmc (e u v c : Nat) (m : Word) : (s.pulse e u v c m).tenantPmc = s.tenantPmc := by unfold State.pulse; split <;> rfl
@[simp] theorem State.pulse_boot (e u v c : Nat) (m : Word) : (s.pulse e u v c m).boot = s.boot := by unfold State.pulse; split <;> rfl
@[simp] theorem State.pulse_power (e u v c : Nat) (m : Word) : (s.pulse e u v c m).power = s.power := by unfold State.pulse; split <;> rfl
@[simp] theorem State.pulse_ras (e u v c : Nat) (m : Word) : (s.pulse e u v c m).ras = s.ras := by unfold State.pulse; split <;> rfl
@[simp] theorem State.pulse_attestCount (e u v c : Nat) (m : Word) : (s.pulse e u v c m).attestCount = s.attestCount := by unfold State.pulse; split <;> rfl
@[simp] theorem State.pulse_attestQueue (e u v c : Nat) (m : Word) : (s.pulse e u v c m).attestQueue = s.attestQueue := by unfold State.pulse; split <;> rfl

/-! ### Reading what was set -/

@[simp] theorem State.arr_setArr (a : Nat) (x : Arr) : (s.setArr a x).arr a = x := tgetD_tset_self _ _ _ _

theorem State.arr_setArr_ne {a b : Nat} (x : Arr) (h : a ≠ b) : (s.setArr a x).arr b = s.arr b := tgetD_tset_ne _ _ _ h

@[simp] theorem State.arr_modArr (a : Nat) (f : Arr → Arr) : (s.modArr a f).arr a = f (s.arr a) := s.arr_setArr a _

theorem State.arr_modArr_ne {a b : Nat} (f : Arr → Arr) (h : a ≠ b) : (s.modArr a f).arr b = s.arr b := s.arr_setArr_ne _ h

@[simp] theorem State.pair_modPair (p : Nat) (f : TwinPair → TwinPair) : (s.modPair p f).pair p = f (s.pair p) :=
  tgetD_tset_self _ _ _ _

@[simp] theorem State.site_modSite (n : Nat) (f : Stack → Stack) : (s.modSite n f).site n = f (s.site n) := tgetD_tset_self _ _ _ _

theorem State.site_modSite_ne {n k : Nat} (f : Stack → Stack) (h : n ≠ k) : (s.modSite n f).site k = s.site k :=
  tgetD_tset_ne _ _ _ h

@[simp] theorem State.granary_modGranary (n : Nat) (f : Granary → Granary) : (s.modGranary n f).granary n = f (s.granary n) :=
  tgetD_tset_self _ _ _ _

theorem State.ctx?_modCtx (c n : Nat) (f : Ctx → Ctx) :
    (s.modCtx c f).ctx? n = if c = n then (s.ctx? n).map f else s.ctx? n := tget_tmod _ _ _ _

@[simp] theorem State.portSt_setPort (p : Port) (x : PortState) : (s.setPort p x).portSt p = x := by cases p <;> rfl

@[simp] theorem State.portSt_modPort (p : Port) (f : PortState → PortState) : (s.modPort p f).portSt p = f (s.portSt p) := by
  cases p <;> rfl

@[simp] theorem State.hostMem_setHost (p : Port) (m : Memory) : (s.setHost p m).hostMem p = m := by cases p <;> rfl

end Sys2Proof.Machine
end

