-- ==== Sys2Proof/Laws/Access.lean ====
section
/-! SUPPORT. Writes of BAR0: what a write of a listed 32-bit or 64-bit register comes to once the port serves it. -/

namespace Sys2Proof.Machine

/-- The state in which a port's access is carried out: what was captured or held of an earlier one is gone (R445). -/
def State.accessing (s : State) (p : Port) : State := s.modPort p fun x => { x with captured := none, held := none }

theorem State.accessing_target (s : State) (p q : Port) (off : Nat) : (s.accessing p).target q off = s.target q off := by
  cases p <;> rfl

theorem State.accessing_served (s : State) (p : Port) (r : Reg) : (s.accessing p).served r = s.served r := by
  cases p <;> rfl

/-- The register that a port reaches at a listed offset outside the slices' blocks. -/
theorem State.target_reg (s : State) (p : Port) {off : Nat} {h : RegHit} (hr : regAt off = some h) (hs : sliceSite off = none) :
    s.target p off = .reg h.row.reg h.idx h.word h.row.bytes p false := by
  simp [State.target, State.siteServed, hr, hs]

theorem State.serves_iff {s : State} {p : Port} : s.serves p = true ↔
    s.barOpen p = true ∧ s.isReady = true ∧ s.power.state ≠ 3 ∧ (s.portSt p).held = none := by
  simp [State.serves, and_assoc]

/-- A port that serves serves every register. -/
theorem State.serves_served {s : State} {p : Port} (h : s.serves p = true) (r : Reg) : s.served r = true := by
  obtain ⟨-, hr, hp, -⟩ := State.serves_iff.1 h
  simp [State.served, hr, hp]

/-- A 32-bit write of a served 32-bit register, with no low word held, is a write of that register (R444). -/
theorem State.write32_reg {s : State} {p : Port} {off : Nat} {h : RegHit} (v : Nat) (hr : regAt off = some h)
    (hs : sliceSite off = none) (hb : h.row.bytes = 4) (hserved : s.served h.row.reg = true) (hheld : (s.portSt p).held = none) :
    s.write32 p off v =
      (s.accessing p).portWrite p h.row.reg h.idx ((2 ^ 32 - 1) * 2 ^ (32 * h.word)) (v * 2 ^ (32 * h.word)) off := by
  have ht : (s.accessing p).target p off = .reg h.row.reg h.idx h.word 4 p false := by
    rw [State.accessing_target, State.target_reg s p hr hs, hb]
  have he : s.setPort p { s.portSt p with captured := none, held := none } = s.accessing p := rfl
  simp only [State.write32, hheld, he, State.holdsLow, ht, State.writeAt, State.accessing_served, hserved]
  simp

/-- A 64-bit write of a served 64-bit register is a write of that register (R445). -/
theorem State.write64_reg {s : State} {p : Port} {off : Nat} {h : RegHit} (v : Nat) (hr : regAt off = some h)
    (hs : sliceSite off = none) (hb : h.row.bytes = 8) (hw : h.word = 0) (hserved : s.served h.row.reg = true) :
    s.write64 p off v = (s.accessing p).portWrite p h.row.reg h.idx (2 ^ 64 - 1) v off := by
  have ht : (s.accessing p).target p off = .reg h.row.reg h.idx 0 8 p false := by
    rw [State.accessing_target, State.target_reg s p hr hs, hb, hw]
  have he : (s.modPort p fun x => { x with captured := none, held := none }) = s.accessing p := rfl
  simp only [State.write64, he, State.holdsLow, ht, State.writeAt, State.accessing_served, hserved]
  simp

/-- A write of a register by the steward port is carried out. -/
theorem State.portWrite_steward (s : State) (r : Reg) (idx named v off : Nat) :
    s.portWrite .steward r idx named v off = s.putReg .steward r idx named v off := by
  simp [State.portWrite]

/-- A write of a register that does not wait for the collective engine is applied. -/
theorem State.putReg_apply (s : State) (p : Port) {r : Reg} (idx named v off : Nat) (h : waitsForCol r = false) :
    s.putReg p r idx named v off = s.applyReg p r idx named v off := by
  simp [State.putReg, h]

end Sys2Proof.Machine
end

