-- ==== Sys2Proof/Laws/Memory.lean ====
section
/-! SUPPORT. Byte memories: every operation keeps the canonical form, a byte written is read back, and no other changes. -/

namespace Sys2Proof.Machine

/-! ### The canonical form -/

theorem memWfFrom_mono {n k : Nat} {m : Memory} (h : memWfFrom n m = true) (hk : k ≤ n) : memWfFrom k m = true := by
  cases m with
  | nil => rfl
  | cons c m =>
    obtain ⟨a, b⟩ := c
    simp only [memWfFrom, Bool.and_eq_true, decide_eq_true_eq] at h ⊢
    exact ⟨⟨by omega, h.1.2⟩, h.2⟩

/-- Below the first address a canonical memory lists, every byte reads as an unlisted one. -/
theorem memRead_below {n a : Nat} {m : Memory} (h : memWfFrom n m = true) (ha : a < n) : memRead m a = unlisted := by
  induction m generalizing n with
  | nil => rfl
  | cons c m ih =>
    obtain ⟨k, b⟩ := c
    simp only [memWfFrom, Bool.and_eq_true, decide_eq_true_eq] at h
    have hk : k ≠ a := by omega
    simp [memRead, hk, ih h.2 (by omega)]

theorem memWrite_wfFrom {n a : Nat} {m : Memory} (b : Byte) (h : memWfFrom n m = true) (ha : n ≤ a) :
    memWfFrom n (memWrite m a b) = true := by
  induction m generalizing n with
  | nil =>
    unfold memWrite
    split <;> simp_all [memWfFrom]
  | cons c m ih =>
    obtain ⟨k, d⟩ := c
    simp only [memWfFrom, Bool.and_eq_true, decide_eq_true_eq] at h
    unfold memWrite
    split
    · split
      · simp [memWfFrom, h]
      · simp_all [memWfFrom]
    · split
      · subst_vars
        split
        · exact memWfFrom_mono h.2 (by omega)
        · simp_all [memWfFrom]
      · simp only [memWfFrom, Bool.and_eq_true, decide_eq_true_eq]
        exact ⟨h.1, ih h.2 (by omega)⟩

/-- Writing a byte keeps the canonical form. -/
theorem memWrite_wf {m : Memory} (a : Nat) (b : Byte) (h : m.wf = true) : (memWrite m a b).wf = true :=
  memWrite_wfFrom b h (Nat.zero_le a)

/-- Writing bytes keeps the canonical form. -/
theorem memPut_wf {m : Memory} (a : Nat) (bs : List Byte) (h : m.wf = true) : (memPut m a bs).wf = true := by
  induction bs generalizing m a with
  | nil => exact h
  | cons b bs ih => exact ih _ (memWrite_wf a b h)

theorem filter_wfFrom {n : Nat} {m : Memory} (p : Host.Cell → Bool) (h : memWfFrom n m = true) : memWfFrom n (m.filter p) = true := by
  induction m generalizing n with
  | nil => rfl
  | cons c m ih =>
    obtain ⟨k, b⟩ := c
    simp only [memWfFrom, Bool.and_eq_true, decide_eq_true_eq] at h
    by_cases hp : p (k, b) = true
    · simp only [List.filter_cons, hp, if_true, memWfFrom, Bool.and_eq_true, decide_eq_true_eq]
      exact ⟨h.1, ih h.2⟩
    · simp only [List.filter_cons, hp]
      exact ih (memWfFrom_mono h.2 (by omega))

/-- Erasing a range keeps the canonical form. -/
theorem memErase_wf {m : Memory} (a n : Nat) (h : m.wf = true) : (memErase m a n).wf = true := filter_wfFrom _ h

theorem memMove_wf {m : Memory} (src dst : Nat) (cs : List Host.Cell) (h : m.wf = true) : (memMove m src dst cs).wf = true := by
  induction cs generalizing m with
  | nil => exact h
  | cons c cs ih => exact ih (memWrite_wf _ _ h)

/-- Copying a range keeps the canonical form. -/
theorem memCopy_wf {m : Memory} (src dst n : Nat) (h : m.wf = true) : (memCopy m src dst n).wf = true :=
  memMove_wf src dst _ (memErase_wf dst n h)

/-! ### Reading after writing -/

theorem memRead_memWriteFrom {n : Nat} {m : Memory} (a x : Nat) (b : Byte) (h : memWfFrom n m = true) :
    memRead (memWrite m a b) x = if x = a then b else memRead m x := by
  induction m generalizing n with
  | nil =>
    unfold memWrite
    by_cases hx : x = a
    · subst hx; split <;> simp_all [memRead]
    · split <;> simp_all [memRead]; intro hc; exact absurd hc.symm hx
  | cons c m ih =>
    obtain ⟨k, d⟩ := c
    simp only [memWfFrom, Bool.and_eq_true, decide_eq_true_eq] at h
    unfold memWrite
    split
    · rename_i hak
      by_cases hx : x = a
      · subst hx
        split
        · have hk : k ≠ x := by omega
          have := memRead_below h.2 (show x < k + 1 by omega)
          simp_all [memRead]
        · simp [memRead]
      · split
        · simp
        · simp [memRead, Ne.symm hx]
    · rename_i hak
      by_cases hka : k = a
      · simp only [hka, if_true]
        by_cases hx : x = a
        · by_cases hb : b = unlisted
          · have := memRead_below h.2 (show x < k + 1 by omega)
            simp [hb, hx ▸ this, hx]
          · simp [hb, memRead, hx]
        · have : a ≠ x := Ne.symm hx
          by_cases hb : b = unlisted <;> simp [hb, memRead, this, hx]
      · simp only [hka, if_false]
        by_cases hx : k = x
        · have : x ≠ a := by omega
          simp [memRead, hx, this]
        · simp [memRead, hx, ih h.2]

/-- A byte written is read back, and every other byte is as it was. -/
theorem memRead_memWrite {m : Memory} (a x : Nat) (b : Byte) (h : m.wf = true) :
    memRead (memWrite m a b) x = if x = a then b else memRead m x := memRead_memWriteFrom a x b h

/-- Bytes written are read back; outside them nothing changes. -/
theorem memRead_memPut {m : Memory} (a x : Nat) (bs : List Byte) (h : m.wf = true) :
    memRead (memPut m a bs) x = if a ≤ x ∧ x < a + bs.length then bs.getD (x - a) 0 else memRead m x := by
  induction bs generalizing m a with
  | nil =>
    simp [memPut]
  | cons b bs ih =>
    rw [memPut, ih _ (memWrite_wf a b h), memRead_memWrite a x b h]
    by_cases h1 : a + 1 ≤ x ∧ x < a + 1 + bs.length
    · have h2 : a ≤ x ∧ x < a + (b :: bs).length := by simp; omega
      have h3 : x - a = (x - (a + 1)) + 1 := by omega
      rw [if_pos h1, if_pos h2, h3]; simp
    · by_cases h4 : x = a
      · subst h4
        have h2 : x ≤ x ∧ x < x + (b :: bs).length := by simp
        rw [if_neg h1, if_pos rfl, if_pos h2]; simp
      · have h2 : ¬(a ≤ x ∧ x < a + (b :: bs).length) := by simp; omega
        rw [if_neg h1, if_neg h4, if_neg h2]

/-- What was written is what the range holds. -/
theorem memBytes_memPut {m : Memory} (a : Nat) (bs : List Byte) (h : m.wf = true) : memBytes (memPut m a bs) a bs.length = bs := by
  apply List.ext_getElem
  · simp [memBytes]
  · intro i h1 h2
    simp only [memBytes, List.getElem_map, List.getElem_range]
    rw [memRead_memPut a (a + i) bs h, if_pos (by omega)]
    simp [List.getD, h2]

end Sys2Proof.Machine
end

