-- ==== Sys2Proof/Laws/Regs.lean ====
section
/-! SUPPORT. The register file: what a register or a field of it reads after one was set. -/

namespace Sys2Proof.Machine

theorem find?_filter_ne {k q : RegKey} (h : k ≠ q) (l : List (RegKey × DWord)) :
    (l.filter fun e => e.1 != k).find? (fun e => e.1 == q) = l.find? fun e => e.1 == q := by
  induction l with
  | nil => rfl
  | cons e l ih =>
    by_cases hk : e.1 = k
    · have hq : (e.1 == q) = false := by simp [hk, h]
      rw [List.filter_cons_of_neg (by simp [hk]), List.find?_cons, hq, ih]
    · rw [List.filter_cons_of_pos (by simp [hk]), List.find?_cons, List.find?_cons, ih]

/-- A register set reads as its value. -/
theorem State.rawReg_setReg (s : State) (r : Reg) (i : Nat) (p : Port) (v : Nat) : (s.setReg r i p v).rawReg r i p = v % 2 ^ 64 := by
  simp [State.rawReg, State.setReg, regsPut]

/-- Setting a register leaves every other as it was. -/
theorem State.rawReg_setReg_ne (s : State) {r q : Reg} {i j : Nat} {p o : Port} (v : Nat)
    (h : (⟨r, i, p⟩ : RegKey) ≠ ⟨q, j, o⟩) : (s.setReg r i p v).rawReg q j o = s.rawReg q j o := by
  have hb : ((⟨r, i, p⟩ : RegKey) == ⟨q, j, o⟩) = false := by simp [h]
  simp only [State.rawReg, State.setReg, regsPut, List.find?_cons, hb, find?_filter_ne h]

/-- Setting a field leaves every other register as it was. -/
theorem State.rawReg_setField_ne (s : State) {r q : Reg} {i j : Nat} {p o : Port} (lo n v : Nat)
    (h : (⟨r, i, p⟩ : RegKey) ≠ ⟨q, j, o⟩) : (s.setField r i p lo n v).rawReg q j o = s.rawReg q j o :=
  s.rawReg_setReg_ne _ h

/-- Registers depend on the register file alone. -/
theorem State.rawReg_congr {s t : State} (h : t.regs = s.regs) (r : Reg) (i : Nat) (p : Port) : t.rawReg r i p = s.rawReg r i p := by
  simp [State.rawReg, h]

end Sys2Proof.Machine
end

