-- ==== Sys2Proof/Laws/Reports.lean ====
section
/-! SUPPORT. What recording and reporting can change: each lemma names every field that the operation may touch, so that all
others follow at once. -/

namespace Sys2Proof.Machine

/-- Two states that differ at most in what records and reports touch: the ports, the host memories, trigger registers and the
counters' pulses. -/
def Reported (s t : State) : Prop :=
  ∃ a b r q m n, t = { s with steward := a, tenant := b, regs := r, pulses := q, hostA := m, hostB := n }

theorem Reported.refl (s : State) : Reported s s := ⟨s.steward, s.tenant, s.regs, s.pulses, s.hostA, s.hostB, rfl⟩

theorem Reported.trans {s t u : State} (h : Reported s t) (g : Reported t u) : Reported s u := by
  obtain ⟨a, b, r, q, m, n, rfl⟩ := h
  obtain ⟨a', b', r', q', m', n', rfl⟩ := g
  exact ⟨a', b', r', q', m', n', rfl⟩

theorem Reported.setPort (s : State) (p : Port) (x : PortState) : Reported s (s.setPort p x) := by
  cases p
  · exact ⟨x, s.tenant, s.regs, s.pulses, s.hostA, s.hostB, rfl⟩
  · exact ⟨s.steward, x, s.regs, s.pulses, s.hostA, s.hostB, rfl⟩

theorem Reported.modPort (s : State) (p : Port) (f : PortState → PortState) : Reported s (s.modPort p f) := .setPort s p _

theorem Reported.setHost (s : State) (p : Port) (x : Memory) : Reported s (s.setHost p x) := by
  cases p
  · exact ⟨s.steward, s.tenant, s.regs, s.pulses, x, s.hostB, rfl⟩
  · exact ⟨s.steward, s.tenant, s.regs, s.pulses, s.hostA, x, rfl⟩

theorem Reported.setReg (s : State) (r : Reg) (i : Nat) (p : Port) (v : Nat) : Reported s (s.setReg r i p v) :=
  ⟨s.steward, s.tenant, _, s.pulses, s.hostA, s.hostB, rfl⟩

theorem Reported.setField (s : State) (r : Reg) (i : Nat) (p : Port) (lo n v : Nat) : Reported s (s.setField r i p lo n v) :=
  .setReg s r i p _

theorem Reported.pulse (s : State) (e u v c : Nat) (m : Word) : Reported s (s.pulse e u v c m) := by
  unfold State.pulse
  split
  · exact .refl s
  · exact ⟨s.steward, s.tenant, s.regs, _, s.hostA, s.hostB, rfl⟩

theorem Reported.hostWrite (s : State) (p : Port) (a : Nat) (bs : List Byte) : Reported s (s.hostWrite p a bs) := by
  unfold State.hostWrite
  split
  · exact .setHost s p _
  · exact .modPort s p _

theorem Reported.foldl {β : Type} {f : State → β → State} (h : ∀ s b, Reported s (f s b)) (l : List β) (s : State) :
    Reported s (l.foldl f s) := by
  induction l generalizing s with
  | nil => exact .refl s
  | cons b l ih => exact (h s b).trans (ih (f s b))

/-! ### The sluice -/

theorem Reported.sluiceEnqueue (s : State) (p : Port) (r : List Word) : Reported s (s.sluiceEnqueue p r) := by
  unfold State.sluiceEnqueue
  dsimp only
  split
  · exact .setPort s p _
  · exact (Reported.setPort s p _).trans (.pulse _ _ _ _ _ _)

theorem Reported.sluiceTo (s : State) (p : Port) (k c src : Nat) (m : Word) (pl : List Word) :
    Reported s (s.sluiceTo p k c src m pl) := by
  unfold State.sluiceTo
  dsimp only
  repeat' split
  all_goals first | exact .sluiceEnqueue s p _ | exact .refl s

/-- A record offered to the sluices touches their queues and the counters' pulses. -/
theorem Reported.sluice (s : State) (k c src : Nat) (m : Word) (pl : List Word) : Reported s (s.sluice k c src m pl) :=
  (Reported.sluiceTo s .steward k c src m pl).trans (.sluiceTo _ .tenant k c src m pl)

theorem Reported.trigger (s : State) (p : Port) (bit : Nat) : Reported s (s.trigger p bit) := by
  unfold State.trigger
  dsimp only
  split
  · exact .refl s
  · split
    · exact .sluiceEnqueue s p _
    · split
      · split
        · have h : ∀ u r, Reported s u → Reported s (u.sluiceEnqueue p r) := fun u r hu => hu.trans (.sluiceEnqueue u p r)
          have h0 := (Reported.setField s .dbgTrig 0 p 0 1 0).trans (.modPort _ p fun x => { x with triggered := true })
          split
          · exact (h _ _ h0).trans (.modPort _ _ _)
          · exact h _ _ h0
        · exact (Reported.setField s _ _ _ _ _ _).trans (.modPort _ _ _)
      · exact .refl s

theorem Reported.triggerFor (s : State) (p : Port) (c bit : Nat) : Reported s (s.triggerFor p c bit) := by
  unfold State.triggerFor
  split
  · exact .trigger s p bit
  · exact .refl s

/-- A MARK touches what reports touch. -/
theorem Reported.markRecord (s : State) (c src : Nat) (id : Word) (trc : Bool) (w : Word) :
    Reported s (s.markRecord c src id trc w) := by
  unfold State.markRecord
  dsimp only
  have hit (u : State) (p : Port) : Reported u (if u.rfp .dbgTrig p 32 32 == id.toNat then u.triggerFor p c 2 else u) := by
    split
    · exact .triggerFor u p c 2
    · exact .refl u
  split
  · exact ((Reported.sluice s _ _ _ _ _).trans (hit _ _)).trans (hit _ _)
  · exact (hit _ _).trans (hit _ _)

/-! ### Events and ATTN -/

theorem Reported.updateAttn (s : State) (p : Port) : Reported s (s.updateAttn p) := .setPort s p _

theorem Reported.releaseAttn (s : State) (p : Port) : Reported s (s.releaseAttn p) := by
  unfold State.releaseAttn
  dsimp only
  split
  · exact .setPort s p _
  · exact .refl s

theorem Reported.evtPut (s : State) (p : Port) (ws : List Word) : Reported s (s.evtPut p ws) := by
  unfold State.evtPut
  split
  · exact .refl s
  · exact ((Reported.setPort s p _).trans (.hostWrite _ _ _ _)).trans (.updateAttn _ _)

theorem Reported.evtLost (s : State) (p : Port) : Reported s (s.evtLost p) := by
  unfold State.evtLost
  dsimp only
  split
  · exact (Reported.setPort s p _).trans (.evtPut _ _ _)
  · exact .refl s

theorem Reported.evtTo (s : State) (p : Port) (ws : List Word) : Reported s (s.evtTo p ws) := by
  have h : Reported s (if (s.portSt p).evtQueue.isEmpty then s.evtLost p else s) := by
    split
    · exact .evtLost s p
    · exact .refl s
  refine h.trans ?_
  unfold State.evtTo
  dsimp only
  repeat' split
  all_goals first | exact .evtPut _ _ _ | exact .setPort _ _ _

theorem Reported.evtDrain (s : State) (p : Port) (n : Nat) : Reported s (s.evtDrain p n) := by
  induction n generalizing s with
  | zero => exact .refl s
  | succ n ih =>
    refine (Reported.evtLost s p).trans ?_
    unfold State.evtDrain
    dsimp only
    split
    · exact .refl _
    · split
      · exact ((Reported.modPort _ p _).trans (.evtPut _ _ _)).trans (ih _)
      · exact .refl _

/-- An event touches what reports touch. -/
theorem Reported.event (s : State) (ports : List Port) (ty cls c : Nat) (pl : List Word) : Reported s (s.event ports ty cls c pl) := by
  unfold State.event
  dsimp only
  have hit (u : State) (p : Port) : Reported u (if u.rfp .dbgTrig p 8 16 == ty then u.triggerFor p c 3 else u) := by
    split
    · exact .triggerFor u p c 3
    · exact .refl u
  exact (((Reported.sluice s _ _ _ _ _).trans (hit _ _)).trans (hit _ _)).trans (.foldl (fun u p => .evtTo u p _) ports _)

theorem Reported.devEvent (s : State) (ty cls : Nat) (pl : List Word) : Reported s (s.devEvent ty cls pl) := .event s _ ty cls 0 pl

theorem Reported.ctxEvent (s : State) (ty cls c : Nat) (pl : List Word) : Reported s (s.ctxEvent ty cls c pl) := .event s _ ty cls c pl

/-! ### Completions -/

/-- Two states that differ at most in what the completion or the acceptance of a descriptor touches: contexts besides. -/
def ReportedCtx (s t : State) : Prop := ∃ u x, Reported s u ∧ t = { u with ctxs := x }

theorem Reported.withCtxs {s t : State} (h : Reported s t) (x : Table Ctx) :
    Reported { s with ctxs := x } { t with ctxs := x } := by
  obtain ⟨a, b, r, q, m, n, rfl⟩ := h
  exact ⟨a, b, r, q, m, n, rfl⟩

theorem ReportedCtx.of {s t : State} (h : Reported s t) : ReportedCtx s t := ⟨t, t.ctxs, h, rfl⟩

theorem ReportedCtx.refl (s : State) : ReportedCtx s s := .of (.refl s)

theorem ReportedCtx.trans {s t u : State} (h : ReportedCtx s t) (g : ReportedCtx t u) : ReportedCtx s u := by
  obtain ⟨v, x, hv, rfl⟩ := h
  obtain ⟨w, y, hw, rfl⟩ := g
  obtain ⟨a, b, r, q, m, n, rfl⟩ := hv
  obtain ⟨a', b', r', q', m', n', rfl⟩ := hw
  exact ⟨{ s with steward := a', tenant := b', regs := r', pulses := q', hostA := m', hostB := n' }, y,
    ⟨a', b', r', q', m', n', rfl⟩, rfl⟩

theorem ReportedCtx.modCtx (s : State) (c : Nat) (f : Ctx → Ctx) : ReportedCtx s (s.modCtx c f) := ⟨s, _, .refl s, rfl⟩

/-- A host write of a context touches what reports touch, and whether the context is held. -/
theorem ReportedCtx.ctxWrite (s : State) (c : Nat) (p : Port) (a : Nat) (bs : List Byte) : ReportedCtx s (s.ctxWrite c p a bs) := by
  unfold State.ctxWrite
  split
  · exact .of (.hostWrite s p a bs)
  · exact (ReportedCtx.of (.hostWrite s p a bs)).trans (.modCtx _ c _)

/-- A completion touches what reports touch, and its context. -/
theorem ReportedCtx.writeCompletion (s : State) (c : Nat) (d : Desc) (m : Word) (st det : Nat) (res : Word) :
    ReportedCtx s (s.writeCompletion c d m st det res) := by
  unfold State.writeCompletion
  split
  · exact .refl s
  · rename_i x _
    have h1 (u : State) (p : Port) (a : Nat) (bs : List Byte) (b : Bool) : ReportedCtx u (if b then u.ctxWrite c p a bs else u) := by
      split
      · exact .ctxWrite u c p a bs
      · exact .refl u
    have key (u : State) (f : Ctx → Ctx) (pl : List Word) (hu : ReportedCtx s u) :
        ReportedCtx s (if stOk st then ((u.modCtx c f).updateAttn x.port).sluice 3 c 0x200 m pl
          else (((u.modCtx c f).updateAttn x.port).sluice 3 c 0x200 m pl).trigger x.port 4) := by
      refine (hu.trans (.modCtx u c f)).trans (.of ?_)
      refine ((Reported.updateAttn _ x.port).trans (.sluice _ 3 c 0x200 m pl)).trans ?_
      split
      · exact .refl _
      · exact .trigger _ _ _
    exact key _ _ _ ((h1 s _ _ _ _).trans (h1 _ _ _ _ _))

/-- What the completion or the acceptance of a descriptor leaves alone. -/
theorem ReportedCtx.same {s t : State} (h : ReportedCtx s t) :
    t.pending = s.pending ∧ t.pwrok = s.pwrok ∧ t.now = s.now ∧ t.free = s.free ∧ t.pairs = s.pairs ∧ t.arrays = s.arrays ∧
    t.hbm = s.hbm ∧ t.sites = s.sites ∧ t.runs = s.runs ∧ t.txns = s.txns ∧ t.objects = s.objects ∧ t.stats = s.stats ∧
    t.problems = s.problems ∧ t.batches = s.batches ∧ t.group = s.group ∧ t.cad = s.cad ∧ t.power = s.power ∧ t.boot = s.boot ∧
    t.ras = s.ras ∧ t.gran = s.gran ∧ t.curv = s.curv ∧ t.num = s.num := by
  obtain ⟨u, x, ⟨a, b, r, q, m, n, rfl⟩, rfl⟩ := h
  exact ⟨rfl, rfl, rfl, rfl, rfl, rfl, rfl, rfl, rfl, rfl, rfl, rfl, rfl, rfl, rfl, rfl, rfl, rfl, rfl, rfl, rfl, rfl⟩

end Sys2Proof.Machine
end

