-- ==== Sys2Proof/Laws/Ring.lean ====
section
/-! SUPPORT. Descriptors on their way through a ring: what a row does with a descriptor that is taken at once. -/

namespace Sys2Proof.Machine

/-- A context with one field group changed waits, is full and breaks chains as before. -/
theorem Ctx.mustWait_ring (x : Ctx) (d : Desc) (e : Option Word) (h : List (Desc × Bool)) (b : Bool) :
    ({ x with ring := { x.ring with expect := e }, held := h, active := true } : Ctx).mustWait d b = x.mustWait d b := rfl

theorem State.ctx?_of_taking {s : State} {c : Nat} (h : s.taking c = true) : ∃ x, s.ctx? c = some x := by
  simp only [State.taking, Bool.and_eq_true] at h
  exact Option.isSome_iff_exists.mp h.1.2

theorem State.ctxD_of_ctx? {s : State} {c : Nat} {x : Ctx} (h : s.ctx? c = some x) : s.ctxD c = x := by
  have h' : tget s.ctxs c = some x := h
  simp [State.ctxD, tgetD, h']

/-- A descriptor that finds its context's queue empty and need not wait is admitted at once, with what it takes past the
SEQ check. -/
theorem State.submit_admits {s : State} {c : Nat} {d : Desc} {x : Ctx} (ht : s.taking c = true) (hx : s.ctx? c = some x)
    (hh : x.held = []) (hw : x.mustWait d (!x.seqOk d) = false) :
    s.submit c d =
      (s.modCtx c fun y => { y with ring := if x.seqOk d then { y.ring with expect := some (d.seq + 1) } else y.ring, active := true }).takeUp c
        { x with ring := if x.seqOk d then { x.ring with expect := some (d.seq + 1) } else x.ring, held := [(d, !x.seqOk d)], active := true } d
        (!x.seqOk d) := by
  have hx' : tget s.ctxs c = some x := hx
  have hD := State.ctxD_of_ctx? hx
  unfold State.submit
  simp only [ht, Bool.not_true, Bool.false_eq_true, if_false, hD, State.modCtx, tmod_of_get hx', hh, List.nil_append]
  have hget : tget (tset s.ctxs c { x with ring := if x.seqOk d then { x.ring with expect := some (d.seq + 1) } else x.ring, held := [(d, !x.seqOk d)], active := true }) c =
    some { x with ring := if x.seqOk d then { x.ring with expect := some (d.seq + 1) } else x.ring, held := [(d, !x.seqOk d)], active := true } := tget_tset_self _ _ _
  simp only [State.ctxD, tgetD, hget, Option.getD_some, List.length_singleton]
  rw [State.drain]
  simp only [State.ctx?, hget]
  have hw' : ({ x with ring := if x.seqOk d then { x.ring with expect := some (d.seq + 1) } else x.ring, held := [(d, !x.seqOk d)], active := true } : Ctx).mustWait d
      (!x.seqOk d) = false := by
    rw [← hw]; cases x.seqOk d <;> rfl
  simp only [hw', Bool.false_eq_true, if_false, State.drain, State.modCtx, tmod_of_get hget, tset_tset]

/-- The state that `seqTaken` names, in the form `submit_admits` gives. -/
theorem State.takesNow_iff {s : State} {c : Nat} {d : Desc} (h : s.takesNow c d = true) :
    ∃ x, s.ctx? c = some x ∧ s.taking c = true ∧ x.held = [] ∧ x.seqOk d = true ∧ x.mode = .resident ∧ x.mustWait d false = false ∧
      x.chainBroken d = false := by
  simp only [State.takesNow, Bool.and_eq_true, Bool.not_eq_true', beq_iff_eq, List.isEmpty_iff] at h
  obtain ⟨⟨⟨⟨⟨h1, h2⟩, h3⟩, h4⟩, h5⟩, h6⟩ := h
  obtain ⟨x, hx⟩ := State.ctx?_of_taking h1
  rw [State.ctxD_of_ctx? hx] at h2 h3 h4 h5 h6
  exact ⟨x, hx, h1, h2, h3, h4, h5, h6⟩

/-- A descriptor that is taken at once meets its own checks alone. -/
theorem State.submit_takesNow {s : State} {c : Nat} {d : Desc} (h : s.takesNow c d = true) :
    s.submit c d = match (s.seqTaken c d).verdict c d with
      | some r => ((s.seqTaken c d).reject c d r.1 r.2).memberRejected c d r.1 r.2
      | none => (s.seqTaken c d).begin c d := by
  obtain ⟨x, hx, ht, hh, hs, hm, hw, hc⟩ := State.takesNow_iff h
  rw [State.submit_admits ht hx hh (by simpa [hs] using hw)]
  simp only [hs, if_true, Bool.not_true]
  have ha : Ctx.turnedAway { x with ring := { x.ring with expect := some (d.seq + 1) }, held := [(d, false)], active := true } d false = none := by
    have hc' : ({ x with ring := { x.ring with expect := some (d.seq + 1) }, held := [(d, false)], active := true } : Ctx).chainBroken d = false := hc
    simp only [Ctx.turnedAway, hc']
    simp [hm]
  rw [State.takeUp, ha, Option.none_or]
  rfl

/-- A descriptor of a row that is taken at once and passes its checks is accepted and started. -/
theorem descRow_admits {s : State} {c : Nat} {d : Desc} {r : DescRow} (h : s.admits c d r = true) :
    descRow r c d s = .next ((s.accepted c d).startOf c d r) := by
  simp only [State.admits, descOf, Bool.and_eq_true, decide_eq_true_eq, beq_iff_eq] at h
  obtain ⟨⟨⟨hc, hr⟩, ht⟩, hv⟩ := h
  have hn : ¬ 256 ≤ c := by omega
  simp only [descRow, hn, if_false, hr, if_true, State.submit_takesNow ht, hv, State.begin, State.accepted]

/-- Acceptance touches contexts, reports and, for a member, its transaction. -/
theorem accepted_frame (s : State) (c : Nat) (d : Desc) :
    ∃ v y, ReportedCtx s v ∧ s.accepted c d = { v with txns := y } := by
  unfold State.accepted State.accept
  dsimp only
  have h : ReportedCtx s (((((s.seqTaken c d).noteLast c d).modCtx c fun x => { x with
      opens := x.opens ++ [{ desc := d, marker := (s.seqTaken c d).markerFor c d }],
      activeUntil := ((s.seqTaken c d).noteLast c d).now + 1050000, active := true }).pulse 0x245 0 1 c ((s.seqTaken c d).markerFor c d)).sluice
        2 c 0x200 ((s.seqTaken c d).markerFor c d) [d.seq, BitVec.ofNat 32 (d.opcode + 256 * d.f 0 8 8)]) :=
    (((ReportedCtx.modCtx s c _).trans (.modCtx _ c _)).trans (.modCtx _ c _)).trans
      (.of ((Reported.pulse _ _ _ _ _ _).trans (.sluice _ _ _ _ _ _)))
  split
  · split
    · exact ⟨_, _, h, rfl⟩
    · exact ⟨_, _, h, rfl⟩
  · exact ⟨_, _, h, rfl⟩

/-- What acceptance leaves alone. -/
theorem accepted_same (s : State) (c : Nat) (d : Desc) :
    (s.accepted c d).pending = s.pending ∧ (s.accepted c d).now = s.now ∧ (s.accepted c d).arrays = s.arrays ∧
    (s.accepted c d).pairs = s.pairs ∧ (s.accepted c d).hbm = s.hbm ∧ (s.accepted c d).sites = s.sites ∧
    (s.accepted c d).runs = s.runs ∧ (s.accepted c d).objects = s.objects ∧ (s.accepted c d).stats = s.stats ∧
    (s.accepted c d).problems = s.problems ∧ (s.accepted c d).batches = s.batches ∧ (s.accepted c d).group = s.group ∧
    (s.accepted c d).cad = s.cad ∧ (s.accepted c d).power = s.power ∧ (s.accepted c d).boot = s.boot ∧
    (s.accepted c d).gran = s.gran ∧ (s.accepted c d).curv = s.curv ∧ (s.accepted c d).free = s.free := by
  obtain ⟨v, y, h, e⟩ := accepted_frame s c d
  obtain ⟨h1, -, h3, h4, h5, h6, h7, h8, h9, -, h11, h12, h13, h14, h15, h16, h17, h18, -, h20, h21, -⟩ := h.same
  rw [e]
  exact ⟨h1, h3, h6, h5, h7, h8, h9, h11, h12, h13, h14, h15, h16, h17, h18, h20, h21, h4⟩

end Sys2Proof.Machine
end

