-- ==== Sys2Proof/Tests/Slice0.lean ====
section
/-! SUPPORT. Tests of single commands, terms that well-formedness refuses, instruction words written out from the
encoding, and for each obligation with hypotheses a state and operands that meet them. -/

namespace Sys2Proof.Tests


open Sys2Proof Sys2Proof.Machine

set_option Elab.async false

/-! ### Small states -/

/-- A descriptor from its words. -/
def desc (ws : List Nat) : Desc := Desc.ofWords (ws.map (BitVec.ofNat 32))

/-- A region of one page, page 100 + number of stack 0. -/
def region (num size : Nat) (versioned : Bool) : Region :=
  { decl := { num := num, place := .pinned 0, size := size, versioned := versioned, carried := none, sampleRow := 0, slots := 1 },
    stacksOf := [0], pages := [(0, [100 + num])], width := [(0, 1)] }

/-- Trained object 1 of one block, its components in regions 3 to 10. -/
def objDecl : ObjectDecl :=
  { num := 1, frozen := false, cols := 64, rows := 1, pairMaster := false, hasM := false, hasV := false, wcFmt := 5, master := 3,
    mReg := 0, vReg := 0, wc := 4, wcMap := 15, grad := 6, gradMap := 7, err := 8, staging := 9, stagingMap := 10, selStream := 0, outStream := 0,
    writes := false, shard := 0, shardCut := 0, scratch := 0, align := 64 }

def obj : Obj := { decl := objDecl, ctx := 1, version := 1, live := [{ number := 1, pages := [(0, [104])] }] }

def statDecl : StatDecl :=
  { obj := 1, side := 0, dim := 64, blockSize := 128, region := 11, fraction := 1, group := 0, roots := 12, shared := none }

def block : Block := { obj := 1, side := 0, q := 0, size := 128, real := 64 }

def stage : StageDecl :=
  { num := 0, kind := .array, reads := [], writes := [], weights := [], views := [0], grams := [(1, 0)], dws := [], layer := 0 }

def body : PlanBody :=
  { programs := [], replays := [], groups := [0], tokens := [], regions := [], objects := [], stats := [],
    views := [{ num := 0, obj := 1, side := 0, source := 1, fmt := 5, cols := 64, pitch := 66, capacity := 4 }], stages := [stage],
    classes := [{ num := 0, qx := 16, qz := 16, qj := 16, qw := 16, qh := 16, ql := 16, qy := 16, scales := [] }],
    m := 4, statsRegion := 13, recordRegion := 14, histLog := 0, histDepth := 0, solverRegion := 0,
    scratches := [], hists := [(0, 13, 1024)], stashes := [], tiles := [],
    outputs := [(0, 1, 1, 64, 7)] }

/-- The TRAIN context: pair 0, slices 0 and 1, one plan, regions 1 (plain), 2 (versioned) and those of the object. -/
def train : Ctx :=
  { kind := .train, mode := .resident, pairs := [0], slices := [0, 1],
    plans := [(0, { body := body })],
    regions := [(1, region 1 8192 false), (2, region 2 8192 true), (3, region 3 256 false), (4, region 4 66 false),
      (5, region 5 4096 false), (6, region 6 512 false), (13, region 13 4096 false)] }

def solve : Ctx := { kind := .solve, mode := .resident, pairs := [1], slices := [2, 3], plans := [(0, { body := body })] }

/-- A device past READY: both links up, every site trained, contexts 0 (management), 1 (TRAIN), 2 (SOLVE). -/
def ready : State :=
  { pwrok := true, rstHigh := true, steward := { linkUp := true, perstHigh := true }, tenant := { linkUp := true, perstHigh := true },
    boot := { stage := 7, everReady := true, variant := some false }, power := { state := 1 },
    sites := (List.range 12).map fun n => (n, { present := true, trained := true, out := 0xFFFFFFFE, taken := if n = 0 then (List.range 16).map (100 + ·) else [], share := 10, pool := [(0, 10)] }),
    ctxs := [(0, { kind := .management, mode := .resident }), (1, train), (2, solve)],
    objects := [(1, obj)], stats := [(2, { decl := statDecl })], blocks := [(0, block)] }

/-- With transaction 5 of context 1 open, the page of region 2 shadowed. -/
def txn : Txn := { ctx := 1, tag := 5, shadows := [{ region := 2, stack := 0, index := 0, page := 200 }] }
def inTxn : State := { ready with txns := [txn], txnCount := 1 }

/-! ### Witnesses: descriptors -/

theorem witness_markers : ready.admits 1 (desc [0x01, 7]) .nop ∧ ready.admits 1 (desc [0x3A, 7, 0xAB]) .mark ∧
    ready.admits 1 (desc [0x39, 7, 3, 1, 5]) .signal ∧ ready.admits 1 (desc [0x38, 7, 0, 5]) .waitFrame ∧
    ready.admits 1 (desc [0x38, 7, 1, 3, 2]) .waitToken ∧ ready.admits 1 (desc [0x38, 7, 2, 1, 9]) .waitSeq := by decide +kernel

def copyUp : Desc := desc [0x02, 7, 0, 0x1000, 0, 0x101, 0, 0, 64]

theorem witness_copy_empty : ready.admits 1 (desc [0x02, 7, 0, 0x1000, 0, 0x101]) .copy := by decide +kernel

theorem witness_copy : ready.admits 1 copyUp .copy = true ∧ copyUp.w64 8 ≠ 0 ∧
    (ready.accepted 1 copyUp).weirsOpen 1 (dSrc copyUp) (dDst copyUp) = true ∧
    (ready.accepted 1 copyUp).restoreTarget 1 copyUp = none := by decide +kernel

/-- Outside a transaction writes are prepared as the state stands. -/
theorem prepares_plain {s : State} {c : Nat} {d : Desc} {l : Loc} {rs : List (Nat × Nat)} (h : d.inTxn = false) :
    s.prepares c d l rs s := by
  unfold State.prepares
  split
  · simp [h]
  · rfl

theorem witness_prepares : (ready.accepted 1 copyUp).prepares 1 copyUp (dDst copyUp) [((dDst copyUp).offset, copyUp.w64 8)]
    (ready.accepted 1 copyUp) := prepares_plain (by decide)

/-- Context 1 with its host and collective weirs shut. -/
def shut : State :=
  { ready with regs := [({ reg := .ctxWeirEff, idx := 6 }, 100), ({ reg := .ctxWeirEff, idx := 7 }, 100)],
               ctxs := [(1, { train with buckets := [(2, -1), (3, -1)] }), (2, solve)], hostA := [(0x2000, 127)] }

theorem witness_copy_shut : shut.admits 1 copyUp .copy = true ∧
    (shut.accepted 1 copyUp).weirsOpen 1 (dSrc copyUp) (dDst copyUp) = false := by decide +kernel

def copyMember : Desc := desc [0x50402, 7, 0, 0x1000, 0, 0x201, 0, 0, 64]

/-- Whether a member's write may go on. -/
def goes : WriteResult → Bool
  | .go _ => true
  | _ => false

theorem go_of_goes {w : WriteResult} (h : goes w = true) : ∃ k, w = .go k := by
  cases w with
  | go s => exact ⟨s, rfl⟩
  | waits s => simp [goes] at h
  | aborted s => simp [goes] at h

theorem witness_copy_member : inTxn.admits 1 copyMember .copy = true ∧ copyMember.w64 8 ≠ 0 ∧
    (inTxn.accepted 1 copyMember).weirsOpen 1 (dSrc copyMember) (dDst copyMember) = true ∧
    (inTxn.accepted 1 copyMember).restoreTarget 1 copyMember = none ∧
    ∃ k, (inTxn.accepted 1 copyMember).prepares 1 copyMember (dDst copyMember) [((dDst copyMember).offset, copyMember.w64 8)] k := by
  refine ⟨by decide +kernel, by decide, by decide +kernel, by decide +kernel, ?_⟩
  obtain ⟨k, hk⟩ := go_of_goes (w := (inTxn.accepted 1 copyMember).memberWrites 1 copyMember 2 [(0, 64)]) (by decide +kernel)
  exact ⟨k, by simpa [State.prepares, show dDst copyMember = .region 2 0 by decide, show copyMember.inTxn = true by decide,
    show (Loc.region 2 0).offset = 0 from rfl, show copyMember.w64 8 = 64 by decide] using hk⟩

/-- A harvest record of object 1 at host address 4096. -/
def recorded : State := { inTxn with hostA := memPut [] 4096 (leBytes 4 0x48565252 ++ leBytes 2 1 ++ [9] ++
  List.replicate 25 0 ++ leBytes 8 256 ++ leBytes 8 0 ++ leBytes 8 0 ++ leBytes 8 66) }

def restore : Desc := desc [0x50402, 7, 0, 0x1000, 0, 0x301, 0, 0, 12288]

theorem witness_copy_restore : recorded.admits 1 restore .copy = true ∧ restore.w64 8 ≠ 0 ∧
    (recorded.accepted 1 restore).weirsOpen 1 (dSrc restore) (dDst restore) = true ∧
    (recorded.accepted 1 restore).restoreTarget 1 restore = some obj := by decide +kernel

def gather (n : Nat) : Desc := desc [0x03, 7, 0x101, 0, 0, 0, 0x1000, 0, 0, 0x2000, 0, n, 64]
def scatter (n : Nat) : Desc := desc [0x04, 7, 0x101, 0, 0, 0, 0x1000, 0, 0, 0x2000, 0, n, 64]
/-- The index list holds 128, one row past the region. -/
def farIndex : State := { ready with hostA := [(0x2000, 128)] }
def lastIndex : State := { ready with hostA := [(0x2000, 127)] }

theorem witness_rows_none : ready.admits 1 (gather 0) .gather = true ∧ ready.admits 1 (scatter 0) .scatter = true := by decide +kernel

theorem witness_rows_outside : farIndex.admits 1 (gather 1) .gather = true ∧ farIndex.admits 1 (scatter 1) .scatter = true ∧
    (farIndex.accepted 1 (gather 1)).rowsInside 1 (gather 1) ((farIndex.accepted 1 (gather 1)).indexList 1 (gather 1)) = false ∧
    (farIndex.accepted 1 (scatter 1)).rowsInside 1 (scatter 1) ((farIndex.accepted 1 (scatter 1)).indexList 1 (scatter 1)) = false := by
  decide +kernel

theorem witness_rows_inside : lastIndex.admits 1 (gather 1) .gather = true ∧ lastIndex.admits 1 (scatter 1) .scatter = true ∧
    (gather 1).inTxn = false ∧ (scatter 1).inTxn = false ∧ (gather 1).w 11 ≠ 0 ∧
    (lastIndex.accepted 1 (gather 1)).weirsOpen 1 (dSrc (gather 1)) (dDst (gather 1)) = true ∧
    (lastIndex.accepted 1 (scatter 1)).weirsOpen 1 (dDst (scatter 1)) (dSrc (scatter 1)) = true ∧
    (lastIndex.accepted 1 (gather 1)).rowsInside 1 (gather 1) ((lastIndex.accepted 1 (gather 1)).indexList 1 (gather 1)) = true ∧
    (lastIndex.accepted 1 (scatter 1)).rowsInside 1 (scatter 1) ((lastIndex.accepted 1 (scatter 1)).indexList 1 (scatter 1)) = true := by
  decide +kernel

theorem witness_rows_shut : shut.admits 1 (gather 1) .gather = true ∧ shut.admits 1 (scatter 1) .scatter = true ∧
    (shut.accepted 1 (gather 1)).rowsInside 1 (gather 1) ((shut.accepted 1 (gather 1)).indexList 1 (gather 1)) = true ∧
    (shut.accepted 1 (scatter 1)).rowsInside 1 (scatter 1) ((shut.accepted 1 (scatter 1)).indexList 1 (scatter 1)) = true ∧
    (shut.accepted 1 (gather 1)).weirsOpen 1 (dSrc (gather 1)) (dDst (gather 1)) = false ∧
    (shut.accepted 1 (scatter 1)).weirsOpen 1 (dDst (scatter 1)) (dSrc (scatter 1)) = false := by decide +kernel

/-- The smallest container: one pair, one group, one stage, two empty program sections. -/
def container : List Byte :=
  let b := leBytes 4 0x4C50424D ++ leBytes 4 0x00010000 ++ leBytes 8 144 ++ leBytes 4 1 ++ leBytes 4 1 ++ leBytes 4 1 ++ leBytes 4 0 ++
    leBytes 8 0 ++ leBytes 4 2 ++ leBytes 20 0 ++ (List.replicate 2 (leBytes 8 1 ++ leBytes 8 112 ++ leBytes 8 0)).flatten
  b ++ leBytes 32 (sha3 b).toNat

def program (n : Nat) : ProgramDecl := { logical := n, segments := [], entries := [], fillsIn := [], fillsOut := [] }

def loaded : PlanBody := { body with programs := [program 0, program 1], views := [], stages := [stage] }

def withContainer : State := { ready with hostA := memPut [] 0x1000 container }

def planLoad : Desc := desc [0x08, 7, 1, 0x1000, 0, 144]

/-- What a container holds inside its sections is left open (log entry 7): this one may hold the body above. -/
theorem witness_plan_load (h : Config.planBody ((withContainer.seqTaken 1 planLoad).planBytes 1 planLoad) = loaded) :
    withContainer.admits 1 planLoad .planLoad = true := by
  have hc : (withContainer.seqTaken 1 planLoad).checksOf 1 planLoad .planLoad =
      (withContainer.seqTaken 1 planLoad).checkPlan 1 planLoad loaded :=
    congrArg (fun b => (withContainer.seqTaken 1 planLoad).checkPlan 1 planLoad b) h
  have hr : planLoad.row = some .planLoad := by decide
  have hj : (withContainer.seqTaken 1 planLoad).judge 1 planLoad false
      ((withContainer.seqTaken 1 planLoad).checkPlan 1 planLoad loaded) = none := by decide +kernel
  have ht : withContainer.takesNow 1 planLoad = true := by decide +kernel
  simp only [State.admits, State.verdict, hr, hc]
  simp [ht, show descOf .planLoad 1 planLoad = true by decide, show knownOpcode planLoad.opcode = true by decide,
    show DescRow.planLoad.usesTag = false from rfl, hj]

/-- Whether an allocation succeeds. -/
def succeeds {α : Type} : Except Nat α → Bool
  | .ok _ => true
  | .error _ => false

theorem ok_of_succeeds {α : Type} {x : Except Nat α} (h : succeeds x = true) : ∃ a, x = .ok a := by
  cases x with
  | ok a => exact ⟨a, rfl⟩
  | error e => simp [succeeds] at h

theorem witness_plan_regions : ∃ r, (withContainer.accepted 1 planLoad).allocAll (withContainer.ctxD 1).pairs
    ((withContainer.accepted 1 planLoad).newRegions 1 loaded ++ [cacheDecl 144]) = .ok r := ok_of_succeeds (by decide +kernel)

def planRun (n : Nat) : Desc := desc [0x09, 7, 0x30, n, 1, 0, 9]

theorem witness_plan_run : ready.admits 1 (planRun 0) .planRun = true ∧ (planRun 0).f 3 0 17 = 0 ∧
    ready.admits 1 (planRun 4) .planRun = true ∧ (planRun 4).f 3 0 17 ≠ 0 ∧ (ready.planOf 1 0).isSome = true := by decide +kernel

def statSet : Desc := desc [0x10, 7, 1]
def statReset : Desc := desc [0x10, 7, 0x40001]
def precondCfg : Desc := desc [0x12, 7, 1]
def rootRefresh : Desc := desc [0x11, 7, 1]

/-- A descriptor as a member of transaction 5. -/
def member (d : Desc) : Desc := { d with w0 := d.w0 ||| 0x50400 }

theorem witness_curvature : ready.admits 1 statSet .statCfgSet = true ∧ ready.admits 1 statReset .statCfgReset = true ∧
    ready.admits 1 precondCfg .precondCfg = true ∧ ready.admits 1 rootRefresh .rootRefresh = true ∧
    statSet.inTxn = false ∧ statReset.inTxn = false ∧ precondCfg.inTxn = false ∧ rootRefresh.inTxn = false := by decide +kernel

def regGroup : Desc := desc [0x48, 7, 1, 1, 0x3000]

theorem witness_curvature_members : inTxn.admits 1 (member statSet) .statCfgSet = true ∧
    inTxn.admits 1 (member statReset) .statCfgReset = true ∧ inTxn.admits 1 (member precondCfg) .precondCfg = true ∧
    inTxn.admits 1 (member rootRefresh) .rootRefresh = true ∧ inTxn.admits 1 (member regGroup) .regGroup = true ∧
    (member regGroup).f 3 0 9 ≠ 0 ∧ (member statSet).inTxn = true ∧
    ((inTxn.accepted 1 (member statSet)).txn? 1 5).isSome = true := by decide +kernel

/-- An update of step 9: its one entry, of recipe 3, lies in region 5. -/
def entryBytes : List Byte := leBytes 4 0x30001 ++ leBytes 4 0x3F800000
def update : State := { inTxn with hbm := memPut [] (hbmAddr 0 105 0) entryBytes, objects := [(1, { obj with buf := .openFor 9 })] }
def granStep (op : Nat) : Desc := desc [0x18, 7, 9, 256 * op, 5, 0, 0, 1]
def entry : GranEntry := { obj := 1, recipe := 3, lr := 0x3F800000 }
/-- The same once the step is sealed and its norm has passed. -/
def decided : State :=
  { update with objects := [(1, { obj with buf := .sealedFor 9 })], lastSealed := [(1, 9)],
                gran := some { ctx := 1, step := 9, entries := [entry], passed := true } }

theorem witness_gran : update.admits 1 (member (granStep 0)) .granStepFull = true ∧
    update.admits 1 (granStep 1) .granStepNorm = true ∧ decided.admits 1 (member (granStep 2)) .granStepApply = true ∧
    ((decided.accepted 1 (member (granStep 2))).markGran 1 (member (granStep 2))).gran.isSome = true ∧
    decided.admits 1 (granStep 3) .granStepDiscard = true ∧ granCount (granStep 3) ≠ 0 ∧
    ready.admits 1 (desc [0x18, 7, 9, 768, 5]) .granStepDiscard = true := by decide +kernel

def withProgram : State := { ready with hostA := memPut [] 0x1000 (leBytes 4 0xFC000000) }

theorem witness_gran_prog : withProgram.admits 1 (desc [0x19, 7, 0x10, 0x1000]) .granProg = true ∧ withProgram.gran = none := by
  decide +kernel

/-- Rank 0 of a group of two. -/
def grouped (s : State) : State :=
  { s with regs := [({ reg := .colCfg }, 0x101), ({ reg := .colTopoTable }, 1), ({ reg := .colTopoTable, idx := 4 }, 0x10001)] }

theorem witness_txn : ready.admits 1 (desc [0x50020, 7]) .txnBegin = true ∧ beginGroup (desc [0x50020, 7]) = false ∧
    (grouped ready).admits 1 (desc [0x50020, 7, 4, 0, 0, 0xAB]) .txnBegin = true ∧ beginGroup (desc [0x50020, 7, 4]) = true ∧
    inTxn.admits 1 (desc [0x50021, 7]) .txnCommit = true ∧ txn.isOpen = true ∧ inTxn.txn? 1 5 = some txn ∧
    inTxn.admits 1 (desc [0x50022, 7]) .txnAbort = true := by decide +kernel

def aborted : State := { ready with txns := [{ ctx := 1, tag := 5, phase := .aborted 0x60D }] }

theorem witness_txn_aborted : aborted.admits 1 (desc [0x50021, 7]) .txnCommit = true ∧
    aborted.txn? 1 5 = some { ctx := 1, tag := 5, phase := .aborted 0x60D } := by decide +kernel

def coll (sub count : Nat) : Desc := desc [0x28, 7, sub + 0x70, 1, count, 0, 0x101, 0, 0, 0x101, 4096, 0]

theorem witness_coll : (grouped ready).admits 1 (coll 0 0) .allreduce = true ∧ collCount (coll 0 0) = 0 ∧
    (grouped ready).admits 1 (coll 0 64) .allreduce = true ∧ (grouped ready).admits 1 (coll 1 64) .reducescatter = true ∧
    (grouped ready).admits 1 (coll 2 64) .allgather = true ∧ (grouped ready).admits 1 (coll 3 64) .broadcast = true ∧
    (grouped ready).admits 1 (coll 4 1) .permute = true ∧ collCount (coll 4 1) ≠ 0 ∧ (grouped ready).group.flights = [] ∧
    ((grouped ready).accepted 1 (coll 4 1)).collOn = true ∧
    ((3 :: hbmWeir false (collSrc (coll 4 1))).all fun n => ((grouped ready).accepted 1 (coll 4 1)).weirLets 1 n) = true := by
  decide +kernel

theorem witness_coll_empty : (grouped ready).admits 1 (coll 1 0) .reducescatter = true ∧ (grouped ready).admits 1 (coll 2 0) .allgather = true ∧
    (grouped ready).admits 1 (coll 3 0) .broadcast = true ∧ (grouped ready).admits 1 (coll 4 0) .permute = true := by decide +kernel

/-- Sixteen collectives under way, and the collective weir shut. -/
def full : State := { grouped ready with group := { flights := List.replicate 16 { ctx := 2, desc := coll 0 64 } } }
def shutColl : State := { shut with regs := (grouped ready).regs ++ shut.regs }

theorem witness_coll_waits : full.admits 1 (coll 0 64) .allreduce = true ∧ full.admits 1 (coll 4 1) .permute = true ∧
    full.group.flights.length = 16 ∧ shutColl.admits 1 (coll 0 64) .allreduce = true ∧ shutColl.group.flights.length < 16 ∧
    (shutColl.accepted 1 (coll 0 64)).collOn = true ∧
    ((3 :: hbmWeir false (collSrc (coll 0 64))).all fun n => (shutColl.accepted 1 (coll 0 64)).weirLets 1 n) = false ∧
    ({ grouped ready with power := { state := 2 } } : State).collOn = false := by decide +kernel

/-- One problem of one unknown and one row, without entries, as a record at host address 4096. -/
def record : List Byte :=
  leBytes 4 0 ++ leBytes 4 0x10001 ++ leBytes 12 0 ++ leBytes 4 1 ++ leBytes 16 0 ++ leBytes 4 0x3F800000 ++ leBytes 4 0x3F800000
def problem : Problem := { n := 1, m := 1, maxit := 1, z := [0], w := [65536], lo := [0], hi := [0], slot := [0] }
def solving : State := { ready with hostA := memPut [] 0x1000 record, problems := [(probKey 2 0, problem)] }
/-- Delta entry: row 0 of z of problem 0 becomes 1.0. -/
def deltaEntry : State := { solving with hostA := memPut [] 0x1000 (leBytes 8 0 ++ leBytes 4 0x3F800000) }
def delta (n : Nat) : Desc := desc [0x31, 7, n, 0x1000]

theorem witness_solver : solving.admits 2 (desc [0x30, 7, 0, 1, 0x1000]) .slvStructLoad = true ∧
    structCount (desc [0x30, 7, 0, 1]) ≠ 0 ∧ solving.admits 2 (desc [0x30, 7, 16383, 0x10001]) .slvStructFree = true ∧
    solving.batchHolds 2 false (span 0 1) = false ∧
    solving.admits 2 (desc [0x32, 7, 0, 1, 0, 0, 0, 0, 0x1000, 0, 0x2000, 0, 1]) .slvBatch = true := by decide +kernel

theorem witness_solver_empty : solving.admits 2 (desc [0x30, 7, 0, 0, 0x1000]) .slvStructLoad = true ∧ structCount (desc [0x30, 7, 0, 0]) = 0 ∧
    solving.admits 2 (desc [0x30, 7, 0, 0x10000]) .slvStructFree = true ∧ solving.admits 2 (delta 0) .slvDelta = true ∧ deltaCount (delta 0) = 0 ∧
    solving.admits 2 (desc [0x32, 7, 0, 0, 0, 0, 0, 0, 0x1000, 0, 0x2000, 0, 1]) .slvBatch = true := by decide +kernel

/-- Problem 0 in a batch that has been released. -/
def heldBatch : State := { solving with batches := [{ ctx := 2, seq := 3, count := 1, released := true, left := [0] }] }

theorem witness_struct_waits : heldBatch.admits 2 (desc [0x30, 7, 0, 1, 0x1000]) .slvStructLoad = true ∧
    heldBatch.admits 2 (desc [0x30, 7, 0, 0x10001]) .slvStructFree = true ∧ heldBatch.batchHolds 2 false (span 0 1) = true := by decide +kernel

/-- A delta entry: of a held problem, of none, of a place the problem has not, and one that applies. -/
theorem witness_delta : deltaEntry.admits 2 (delta 1) .slvDelta = true ∧ deltaCount (delta 1) ≠ 0 ∧
    heldBatch.batchHolds 2 true [0] = true ∧ deltaEntry.batchHolds 2 true [0] = false ∧ deltaEntry.problem? 2 1 = none ∧
    deltaEntry.problem? 2 0 = some problem ∧ problem.delta 0 1 0x3F800000 0 = none ∧ (problem.delta 0 0 0x3F800000 0).isSome = true := by
  decide +kernel

def watch (mode armed : Nat) : Desc := desc [0x3B, 7, 16 * mode + 64 * armed, 0x101, 0, 0, 256, 0, 7, 0x1000]

theorem witness_watch : ready.admits 1 (watch 0 0) .watchOff = true ∧ ready.admits 1 (watch 1 1) .watchStatistics = true ∧
    ready.admits 1 (watch 2 1) .watchDigest = true ∧ (watch 1 1).f 2 6 1 = 1 ∧ locOf (watch 1 1) 3 = some (.region 1 0) ∧
    (ready.watchOutput 1 0 (.region 1 0)).isSome = true ∧ ready.admits 1 (watch 1 0) .watchStatistics = true ∧
    ready.admits 1 (watch 2 0) .watchDigest = true ∧ (watch 1 0).f 2 6 1 = 0 ∧ (watch 1 0).w64 6 ≠ 0 := by decide +kernel

theorem witness_watch_empty : ready.admits 1 (desc [0x3B, 7, 16, 0x101, 0, 0, 0, 0, 7, 0x1000]) .watchStatistics = true ∧
    ready.admits 1 (desc [0x3B, 7, 32, 0x101, 0, 0, 0, 0, 7, 0x1000]) .watchDigest = true ∧ (desc [0x3B, 7, 16]).w64 6 = 0 := by decide +kernel

theorem witness_harvest : ready.admits 1 (desc [0x40, 7]) .harvest = true ∧
    ready.admits 1 (desc [0x40, 7, 0, 0xFFFF, 15, 0x10000, 0, 16384]) .harvest = true ∧ ready.gran = none ∧
    (desc [0x40, 7, 0, 0xFFFF]).f 3 0 16 ≠ 0 ∧
    ({ ready with gran := some { ctx := 1, window := true } } : State).admits 1 (desc [0x40, 7, 0, 0xFFFF, 15, 0x10000, 0, 16384]) .harvest = true := by
  decide +kernel

/-- The doorbell table at host address 64 KiB, its entry 3 holding a ring of 64 places. -/
def table : State :=
  { ready with regs := [({ reg := .hifDoorbellBase }, 0x10001)],
               hostA := memPut [] (0x10000 + 192) (leBytes 8 0 ++ leBytes 8 0x20000 ++ leBytes 8 0x30000 ++ leBytes 8 0x40000 ++ [6, 6]) }

/-- A device of six stacks. -/
def small : State :=
  { ready with boot := { ready.boot with variant := some true },
               sites := [0, 2, 4, 6, 8, 10].map fun n => (n, { present := true, trained := true, out := 0xFFFFFFFE, share := 10 }) }

def springed : State := { ready with power := { state := 2, spring := 2, cause := 8, cleared := 8 } }

theorem witness_management : ready.admits 0 regGroup .regGroup = true ∧
    table.admits 0 (desc [0x48, 7, 2, 0xA03]) .ctxDefine = true ∧ (table.readRing .steward 3).isSome = true ∧
    ready.admits 0 (desc [0x48, 7, 4, 1]) .ctxTeardown = true ∧ ready.admits 0 (desc [0x48, 7, 5, 2]) .ctxFree = true ∧
    ready.admits 0 (desc [0x48, 7, 6]) .springEnter = true ∧ springed.admits 0 (desc [0x48, 7, 7]) .springExit = true ∧
    regGroup.f 3 0 9 ≠ 0 ∧ ready.admits 0 (desc [0x48, 7, 1, 0, 0x3000]) .regGroup = true ∧
    (springed.ctxs.all fun e => !e.2.hostHeld) = true := by decide +kernel

theorem witness_part_set : small.admits 0 (desc [0x48, 7, 3, 1, 1, 0, 3]) .partSet = true := by decide +kernel

theorem some_of_isSome {α : Type} {x : Option α} (h : x.isSome = true) : ∃ a, x = some a := by
  cases x with
  | some a => exact ⟨a, rfl⟩
  | none => simp at h

theorem witness_swap_area : ∃ r, (small.accepted 0 (desc [0x48, 7, 3, 1, 1, 0, 3])).swapAlloc [0, 1] = some r :=
  some_of_isSome (by decide +kernel)

/-! ### Witnesses: tile instructions -/

/-- The device with an array 0 that is about to issue an instruction. -/
def about (t : Tile) (x : Arr) : State := { ready with arrays := [(0, { x with mode := .running, program := encodeTile t })] }
def running (t : Tile) : State := about t {}

/-- A Gram configuration. -/
def gramArr : Arr := { cfg := { fs := 5, fm := 5, acc := 2 } }

theorem witness_cfg : (running (.cfgMode 8 8 true 4 1 false false)).issues 0 (.cfgMode 8 8 true 4 1 false false) 1 = true ∧
    (running (.cfgAddr 15 24575 (-32768) 65535)).issues 0 (.cfgAddr 15 24575 (-32768) 65535) 2 = true ∧
    (running (.cfgPos 3 0xFFFFFFFFFFFF 1 (-1))).issues 0 (.cfgPos 3 0xFFFFFFFFFFFF 1 (-1)) 5 = true ∧
    (running (.cfgFxq 31 0 16 16)).issues 0 (.cfgFxq 31 0 16 16) 1 = true ∧
    (running (.cfgStream 0xFFFFFF)).issues 0 (.cfgStream 0xFFFFFF) 2 = true := by decide +kernel

theorem witness_macc : (running .maccZero).issues 0 .maccZero 1 = true ∧ isGramMode ((running .maccZero).arr 0).cfg = false ∧
    (about .maccZero gramArr).issues 0 .maccZero 1 = true ∧ isGramMode gramArr.cfg = true ∧ gramArr.passes = [] ∧
    (running (.maccStore 15)).issues 0 (.maccStore 15) 1 = true ∧ (about (.maccStore 15) gramArr).issues 0 (.maccStore 15) 1 = true ∧
    ((about (.maccStore 15) gramArr).allPending 0).blocks { reads := (gramArr.areg 15).lines 128 1024 } = false ∧
    (gramArr.areg 15).rowsOk 128 1024 = true ∧ (running .maccKeep).issues 0 .maccKeep 1 = true ∧
    (about .maccKeep gramArr).issues 0 .maccKeep 1 = true := by decide +kernel

def drain : Drain := { areg := 2, fmt := 7 }
def strmArr : Arr := { drn := some drain }

theorem witness_passes : (running (.drn 2 7 false false 0 0)).issues 0 (.drn 2 7 false false 0 0) 1 = true ∧
    (running (.drnNow 2 7 false false 0 0)).issues 0 (.drnNow 2 7 false false 0 0) 1 = true ∧
    ((running (.drnNow 2 7 false false 0 0)).allPending 0).blocks { writes := (AddrReg.lines {} 128 (rowBytes 7 128)) } = false ∧
    AddrReg.rowsOk {} 128 (rowBytes 7 128) = true ∧
    (running (.lds 1 0 false 128 512)).issues 0 (.lds 1 0 false 128 512) 1 = true ∧
    ((running (.lds 1 0 false 128 512)).allPending 0).blocks (((running (.lds 1 0 false 128 512)).arr 0).mkLoad 1 0 false 128 512).touch = false ∧
    (((running (.lds 1 0 false 128 512)).arr 0).mkLoad 1 0 false 128 512).areg.rowsOk 128 (rowBytes 0 512) = true := by decide +kernel

/-- Address registers 0 to 2 past the store's last line. -/
def offStore (x : Arr) : Arr :=
  { x with aregs := (List.range 3).map fun n => (n, { origin := 24575, offset := 0, stride := 1, wrap := 0 }) }

/-- The same instructions with rows that do not all lie in the array store. -/
theorem witness_rows_off_store : ([(2, rowBytes 7 128), (1, rowBytes 0 512), (2, rowBytes 8 64)].all fun r =>
      !(((offStore {}).areg r.1).rowsOk 128 r.2)) = true ∧
    (about (.drnNow 2 7 false false 0 0) (offStore {})).issues 0 (.drnNow 2 7 false false 0 0) 1 = true ∧
    (about (.lds 1 0 false 128 512) (offStore {})).issues 0 (.lds 1 0 false 128 512) 1 = true ∧
    (about (.twinTake 2 128 64 8) (offStore {})).issues 0 (.twinTake 2 128 64 8) 1 = true ∧
    (about (.strm 1 0 128 false 0) (offStore strmArr)).issues 0 (.strm 1 0 128 false 0) 1 = true ∧
    ((about (.strm 1 0 128 false 0) (offStore strmArr)).arr 0).passOk
      (((about (.strm 1 0 128 false 0) (offStore strmArr)).arr 0).mkPass drain 1 0 128 false 0 0) = false ∧
    ((offStore {}).areg 0).rowsOk 1 272 = false ∧ ((offStore {}).areg 0).rowsOk 1 (1024 / 8) = false ∧
    ((offStore {}).areg 0).rowsOk 1 (pruBytes 1 * pruIn .pivot * 128) = false ∧ ((offStore {}).areg 0).rowsOk 256 2048 = false := by
  decide +kernel

theorem witness_strm : (about (.strm 1 0 1 false 0) strmArr).issues 0 (.strm 1 0 1 false 0) 1 = true ∧
    ((about (.strm 1 0 1 false 0) strmArr).otherPending 0).blocks (((about (.strm 1 0 1 false 0) strmArr).arr 0).passTouch
      (((about (.strm 1 0 1 false 0) strmArr).arr 0).mkPass drain 1 0 1 false 0 0)) = false ∧
    ((about (.strm 1 0 1 false 0) strmArr).arr 0).passOk (((about (.strm 1 0 1 false 0) strmArr).arr 0).mkPass drain 1 0 1 false 0 0) = true ∧
    (running (.strm 1 0 128 true 2)).issues 0 (.strm 1 0 128 true 2) 1 = true ∧ ((running (.strm 1 0 128 true 2)).arr 0).drn = none := by
  decide +kernel

theorem witness_gram : (about (.gram 0 1 false 256 true 64 3) gramArr).issues 0 (.gram 0 1 false 256 true 64 3) 1 = true ∧
    ((about (.gram 0 1 false 256 true 64 3) gramArr).otherPending 0).blocks (((about (.gram 0 1 false 256 true 64 3) gramArr).arr 0).passTouch
      (((about (.gram 0 1 false 256 true 64 3) gramArr).arr 0).mkGram 0 1 false 256 true 64 3 0)) = false ∧
    (((about (.gram 0 1 false 256 true 64 3) gramArr).arr 0).mkGram 0 1 false 256 true 64 3 0).src.rowsOk 256 (rowBytes 5 128) = true ∧
    (((about (.gram 0 1 false 256 true 64 3) gramArr).arr 0).mkGram 0 1 false 256 true 64 3 0).src2.rowsOk 256 (rowBytes 5 128) = true := by
  decide +kernel

theorem witness_twin : (running (.twinOffer 0 128 64 8)).issues 0 (.twinOffer 0 128 64 8) 1 = true ∧
    ((running (.twinOffer 0 128 64 8)).allPending 0).blocks (((running (.twinOffer 0 128 64 8)).arr 0).mkTwin true 0 128 64 8).touch = false ∧
    (((running (.twinOffer 0 128 64 8)).arr 0).mkTwin true 0 128 64 8).reg.rowsOk 128 (rowBytes 8 64) = true ∧
    (running (.twinTake 0 1 1024 0)).issues 0 (.twinTake 0 1 1024 0) 1 = true ∧
    ((running (.twinTake 0 1 1024 0)).allPending 0).blocks (((running (.twinTake 0 1 1024 0)).arr 0).mkTwin false 0 1 1024 0).touch = false ∧
    (((running (.twinTake 0 1 1024 0)).arr 0).mkTwin false 0 1 1024 0).reg.rowsOk 1 (rowBytes 0 1024) = true := by decide +kernel

def stepArr : Arr := { step := 9 }
/-- An array of a step whose second predecessor is unsealed. -/
def unsealedBefore : State := { about (.histMerge 0 true) stepArr with lastSealed := [(1, 6)] }

theorem witness_hist : (running (.histWrite 0 true)).issues 0 (.histWrite 0 true) 1 = true ∧
    ((running (.histWrite 0 true)).allPending 0).blocks { writes := AddrReg.lines {} 1 272 } = false ∧ AddrReg.rowsOk {} 1 272 = true ∧
    (about (.histMerge 0 true) stepArr).issues 0 (.histMerge 0 true) 1 = true ∧ (about (.histMerge 0 true) stepArr).arrCtx 0 = 1 ∧
    (about (.histMerge 0 true) stepArr).histWaits 1 9 = false ∧ ((about (.histMerge 0 true) stepArr).ctxD 1).kind = .train ∧
    (about (.histMerge 0 true) stepArr).isSealed 1 9 = false ∧
    (about (.histMerge 0 true) stepArr).histPlace 1 0 0 9 = some (13, 1296) ∧
    unsealedBefore.issues 0 (.histMerge 0 true) 1 = true ∧ unsealedBefore.histWaits 1 9 = true ∧
    ({ about (.histMerge 0 true) stepArr with lastSealed := [(1, 9)] } : State).isSealed 1 9 = true ∧
    ({ about (.histMerge 0 true) stepArr with lastSealed := [(1, 9)] } : State).histWaits 1 9 = false := by decide +kernel

theorem witness_bchk : (running (.bchkWrite 0 1023 255)).issues 0 (.bchkWrite 0 1023 255) 1 = true ∧
    ((running (.bchkWrite 0 1023 255)).allPending 0).blocks (bitLines {} (((running (.bchkWrite 0 1023 255)).arr 0).topBit 1023 255)) = false ∧
    AddrReg.rowsOk {} 1 (((running (.bchkWrite 0 1023 255)).arr 0).topBit 1023 255 / 8 + 1) = true ∧
    (running (.bchkLoad 0 1023 255)).issues 0 (.bchkLoad 0 1023 255) 1 = true ∧
    ((running (.bchkLoad 0 1023 255)).allPending 0).blocks
      { reads := (bitLines {} (latchSpan 1023 255)).reads } = false ∧ AddrReg.rowsOk {} 1 (1023 / 8 + 1) = true := by
  decide +kernel

/-- Each PRU operation in turn. -/
theorem witness_pru : ([PruOp.sqrt, .recip, .rsqrt, .pivot].all fun op =>
    let s := running (.pru op 1 0 1 128 true)
    let r := (s.arr 0).mkPru 0 (s.arrCtx 0) op 1 0 1 128
    s.issues 0 (.pru op 1 0 1 128 true) 1 && decide ((s.arr 0).pruOut < 4) && !(s.allPending 0).blocks r.touch &&
      r.src.rowsOk 1 (pruBytes 1 * pruIn op * 128) && r.dst.rowsOk 1 (pruBytes 1 * pruOutN op * 128)) = true := by decide +kernel

theorem witness_control : (running (.loop 3 4096 4095)).issues 0 (.loop 3 4096 4095) 1 = true ∧
    (running (.toks 255 255)).issues 0 (.toks 255 255) 1 = true ∧ (running (.tokw 255 255 true)).issues 0 (.tokw 255 255 true) 1 = true ∧
    (running (.mark true 7)).issues 0 (.mark true 7) 2 = true ∧ (running (.rng 0 0 256 1024)).issues 0 (.rng 0 0 256 1024) 1 = true ∧
    ((running (.rng 0 0 256 1024)).allPending 0).blocks { writes := AddrReg.lines {} 256 2048 } = false ∧
    AddrReg.rowsOk {} 256 2048 = true ∧ (running (.samp 255)).issues 0 (.samp 255) 1 = true ∧
    ((running (.samp 255)).issued 0 1).sampling 0 = false := by decide +kernel

/-- The same with pair 0 lent to context 2 and asked back. -/
def lent (t : Tile) : State := { running t with pairs := [(0, { running := 2, lent := true, returnAt := some 1000 })] }

theorem witness_halt : (running (.haltEnd false 9)).issues 0 (.haltEnd false 9) 1 = true ∧
    haltReady (running (.haltEnd false 9)) ((running (.haltEnd false 9)).arr 0) = true ∧
    (running (.haltEnd true 9)).issues 0 (.haltEnd true 9) 1 = true ∧ (running (.haltNext 4095 false 9)).issues 0 (.haltNext 4095 false 9) 1 = true ∧
    (running (.haltNext 4095 true 9)).issues 0 (.haltNext 4095 true 9) 1 = true ∧
    (running (.haltNextYield 0 false 9)).issues 0 (.haltNextYield 0 false 9) 1 = true ∧
    (running (.haltNextYield 0 true 9)).issues 0 (.haltNextYield 0 true 9) 1 = true ∧
    ((running (.haltNextYield 0 true 9)).pair 0).lent = false ∧ (lent (.haltNextYield 0 true 9)).issues 0 (.haltNextYield 0 true 9) 1 = true ∧
    ((lent (.haltNextYield 0 true 9)).pair 0).lent = true ∧ ((lent (.haltNextYield 0 true 9)).pair 0).returnAt.isSome = true ∧
    ((((running (.haltNextYield 0 true 9)).issued 0 1).segmentRecord 0 2).dropCells 0).dueRefresh 0 true = none ∧
    (about (.haltEnd false 9) { loads := [{}] }).issues 0 (.haltEnd false 9) 1 = true ∧
    haltReady (about (.haltEnd false 9) { loads := [{}] }) ((about (.haltEnd false 9) { loads := [{}] }).arr 0) = false := by
  decide +kernel

/-- A refresh of block 0 that a second seal finds at its products waits for pair 0. -/
def lateRefresh (t : Tile) : State :=
  { running t with ctxs := [(1, { train with plans := [(0, { body := { body with stats := [statDecl] } })] }), (2, solve)],
                   curv := { seals := 2, current := [(0, { stage := 1, left := 4, sealCount := 1 })] } }

theorem witness_late_refresh : (lateRefresh (.haltNextYield 0 true 9)).issues 0 (.haltNextYield 0 true 9) 1 = true ∧
    haltReady (lateRefresh (.haltNextYield 0 true 9)) ((lateRefresh (.haltNextYield 0 true 9)).arr 0) = true ∧
    ((lateRefresh (.haltNextYield 0 true 9)).pair 0).lent = false ∧
    (((((lateRefresh (.haltNextYield 0 true 9)).issued 0 1).segmentRecord 0 2).dropCells 0).dueRefresh 0 true).isSome = true := by
  decide +kernel

/-! ### Witnesses: steps of the arrays, their engines and the queues -/

def offer : Twin := { offer := true, nrows := 1, nelem := 64, fmt := 8 }
def take : Twin := { offer := false, nrows := 1, nelem := 64, fmt := 8 }
def meeting (even odd : List Twin) : State := { ready with arrays := [(0, { mode := .running, twins := even }), (1, { mode := .running, twins := odd })] }

theorem witness_rendezvous : ((meeting [offer] [take]).arr 0).offering.isSome = true ∧ ((meeting [offer] [take]).arr 1).taking.isSome = true ∧
    ((meeting [take] [offer]).arr 0).offering = none ∧ ((meeting [take] [offer]).arr 1).offering.isSome = true ∧
    ((meeting [take] [offer]).arr 0).taking.isSome = true ∧
    older ((meeting [offer] []).arr 0).taking ((meeting [offer] []).arr 0).offering = some (.twin offer) := by decide +kernel

/-- An offer, and a TOKW, at the end of the time they may wait. -/
def longOffer : Arr := { mode := .running, twins := [offer], waited := [(0, 16777216)] }
def waiting : State := { ready with arrays := [(0, { mode := .waiting, wait := some (.token 4 1 false), waited := [(0, 16777216)] })] }

/-- A cycle of waiting counts, and one of suspension does not (R68, R278). -/
theorem test_waiting_time : ({ longOffer with waited := [(0, 5)] } : Arr).waitCycle false = { longOffer with waited := [(0, 6)] } ∧
    ({ longOffer with waited := [(0, 5)] } : Arr).waitCycle true = { longOffer with waited := [(0, 5)] } := by decide +kernel

/-- A signal to token 4 of context 1 of a fill, with the token at a value. -/
def signalled (v : Nat) : State :=
  { ready with signals := [(1, { tok := 4, n := 1, array := 0, fill := true })], ctxs := [(1, { train with tileTokens := [(4, v)] })] }

theorem witness_tokens : older longOffer.taking longOffer.offering = some (.twin offer) ∧
    waitLimit ≤ tgetD longOffer.waited (ChanOp.waitKey (.twin offer)) 0 ∧ (waiting.arr 0).wait = some (.token 4 1 false) ∧
    waitLimit ≤ tgetD (waiting.arr 0).waited (2 * (waiting.arr 0).ord) 0 ∧
    (signalled 65534).readySignal 1 = some { tok := 4, n := 1, array := 0, fill := true } ∧ (signalled 65534).token 1 4 + 1 ≤ 65535 ∧
    (signalled 65535).readySignal 1 = some { tok := 4, n := 1, array := 0, fill := true } ∧ 65535 < (signalled 65535).token 1 4 + 1 := by
  decide +kernel

def fill (wait sig : Bool) : FillItem :=
  { ctx := 1, seq := 7,
    entry := { dir := 0, waitTok := 4, sigTok := 5, waitEn := wait, sigEn := sig, line := 0, rows := 1, rowBytes := 64, stride := 64,
               region := 1, offset := 0, mstride := 0, repeats := 1 } }
def onArray (x : Arr) : State := { ready with arrays := [(0, x)] }
def gramPass : Pass := { gram := true, nvec := 1 }
def flowPass : Pass := { nvec := 1, drain := drain }

theorem witness_work_ends : ((onArray { loads := [{ buf := 1, nrows := 1, nelem := 64 }] }).arr 0).loads.find? (fun l => l.buf == 1) =
      some { buf := 1, nrows := 1, nelem := 64 } ∧
    ((onArray { passes := [gramPass] }).arr 0).passes = [gramPass] ∧ gramPass.gram = true ∧ flowPass.gram = false ∧
    ((onArray { passes := [flowPass], bufs := [(0, {})] }).arr 0).passReady flowPass = true ∧
    (tget ((onArray { passes := [flowPass], bufs := [(0, {})] }).arr 0).bufs 0).isSome = true ∧
    ({ ready with prus := [(0, [{ ctx := 2 }, { ctx := 1, started := true }])] } : State).pruNext 0 = some { ctx := 1, started := true } := by
  decide +kernel

/-- A queue whose fill may start, whose fill waits for its token, and whose run may end. -/
theorem witness_fills : ((onArray { fillIn := { entries := [fill false true] } }).arr 0).fillQ true = { entries := [fill false true] } ∧
    ((onArray { fillOut := { entries := [fill true true] } }).arr 0).fillQ false = { entries := [fill true true] } ∧
    (onArray {}).arrCtx 0 = 1 ∧ (onArray {}).waiters = [] ∧
    ((onArray { fillIn := { entries := [fill true true], active := true } }).arr 0).fillQ true =
      { entries := [fill true true], active := true } ∧
    (onArray {}).held = [] ∧ (onArray {}).asking = [] ∧
    (onArray { fillIn := { entries := [fill true true], active := true } }).crossbarPick 0 = some 0 := by decide +kernel

def request : MemReq := { ctx := 1, weir := 0, bytes := 512 }
def blockItem : Item := { work := .decay {}, ctx := 1, todo := [0] }

theorem witness_queues : firstMin (fun m : MemReq => ready.prio m.ctx) ([request].filter ready.hasPlace) = some request ∧
    ({ ready with held := [request] } : State).held.find? (fun m => m.ctx == 1 && m.weir == 0) = some request ∧
    (ready.weirRate 1 0 = 0 ∨ 0 ≤ ready.bucket 1 0) ∧
    ({ ready with granaries := [(11, { items := [blockItem] })] } : State).granaryPick 11 = some blockItem ∧
    ((onArray { sampled := [(1, 2, 3)] }).arr 0).sampled = [(1, 2, 3)] := by decide +kernel

/-! ### Witnesses: runs, folds, statistics, refreshes -/

def run : Run := { ctx := 1, seq := 7, mb := some 3, nsamp := 4, step := 9, pins := some [] }
def inRun (r : Run) : State := { ready with runs := [r] }
def plan : Plan := { body := body }

theorem witness_stages : (inRun { run with maps := [(0, [])], grams := [(1, 0)] }).run? 1 7 = some { run with maps := [(0, [])], grams := [(1, 0)] } ∧
    ready.planOf 1 0 = some plan ∧ plan.body.stage? 0 = some stage ∧
    (inRun { run with maps := [(0, [])], grams := [(1, 0)] }).stageReady { run with maps := [(0, [])], grams := [(1, 0)] } body stage = true ∧
    (inRun { run with maps := [(0, [])], grams := [(1, 0)] }).stageSkipped { run with maps := [(0, [])], grams := [(1, 0)] } body stage = true ∧
    (inRun { run with maps := [(0, [0])], grams := [(1, 0)] }).stageReady { run with maps := [(0, [0])], grams := [(1, 0)] } body stage = true ∧
    (inRun { run with maps := [(0, [0])], grams := [(1, 0)] }).gatherOnly { run with maps := [(0, [0])], grams := [(1, 0)] } body stage = true ∧
    (inRun { run with maps := [(0, [0])], grams := [(1, 0)] }).stageSkipped { run with maps := [(0, [0])], grams := [(1, 0)] } body stage = false ∧
    (inRun run).gatherOnly run body stage = false ∧ ((inRun run).ensurePinned run body).isSome = true ∧
    (inRun { run with started := [0] }).stageEnded { run with started := [0] } plan stage = true ∧
    (inRun { run with started := [0] }).run? 1 7 = some { run with started := [0] } := by decide +kernel

/-- A stage that lacks only the gathered working copy of object 1, divided in L mode. -/
def lStage : StageDecl := { stage with weights := [1], views := [], grams := [] }
def lMode : State := { inRun run with objects := [(1, { obj with decl := { objDecl with shard := 2 } })] }

theorem witness_gathers : lMode.stageReady run { body with stages := [lStage] } lStage = false ∧
    lMode.gatherOnly run { body with stages := [lStage] } lStage = true := by decide +kernel

theorem witness_row_map : ((inRun run).ensurePinned run body).isSome = true ∧ (tget run.maps 0).isSome = false ∧
    (body.views.find? fun v => v.num == 0).isSome = true ∧ (inRun { run with pins := none }).mayPin { run with pins := none } body = true ∧
    (body.stages.any fun t => t.grams.contains (1, 0)) = true ∧ (inRun run).gramReady run (1, 0) = true ∧
    (inRun run).gatherView run body 1 0 = none ∧ (inRun { run with pins := none }).mayPin { run with pins := none } body = true ∧
    ({ inRun run with gran := some { ctx := 1, window := true } } : State).mayPin { run with pins := none } body = false := by decide +kernel

/-- Statistic (1, 0) is shared over cut 0 of a group of two. -/
def shared : State := { grouped (inRun run) with stats := [(2, { decl := { statDecl with shared := some 0 } })] }

theorem witness_shared : (shared.gatherView run body 1 0).isSome = true := by decide +kernel

def staged : Staged := { ctx := 1, seq := 7, step := 9 }
def folding : State := { ready with objects := [(1, { obj with staged := [staged] })] }

theorem witness_fold : tget folding.objects 1 = some { obj with staged := [staged] } ∧ folding.granaries = [] ∧
    ({ obj with staged := [staged] } : Obj).firstStaged = some staged ∧ folding.foldsWaiting 1 = false ∧
    folding.foldTest { obj with staged := [staged] } staged = .fold ∧ objDecl.gradBlocks ≠ 0 ∧
    ({ objDecl with rows := 0 } : ObjectDecl).gradBlocks = 0 ∧
    stagedBefore { staged with step := 10 } staged = false ∧
    ({ folding with lastSealed := [(1, 9)] } : State).isSealed 1 9 = true := by decide +kernel

def flagged : Run := { run with s1 := true, started := [0], finished := [0], flags := [(0, 9, 5)] }
/-- A run of a context with a carried tensor of slot 3, at a step that is due for a rescale. -/
def rescaling : State :=
  { ready with runs := [run], regs := [({ reg := .numScaleCfg }, 0x90000)],
               ctxs := [(1, { train with regions := [(1, { (region 1 8192 false) with decl := { (region 1 8192 false).decl with
                 carried := some { wide := false, rows := 1, nb := 1, exponent := 0, bitmap := 1 }, slots := 4 } })] })] }

theorem witness_replay : (inRun flagged).run? 1 7 = some flagged ∧ (flagged.flaggedLayers body).contains 0 = true ∧
    (([0] : List Nat).all fun n => flagged.finished.contains n) = true ∧
    (rescaling.runs.find? fun r => r.ctx == 1 && r.mb == some 3 && rescaling.rescaleDue r) = some run ∧ run.pins.isSome = true := by
  decide +kernel

/-- A refresh of block 0 past its last stage. -/
def snapshot : Refresh := { block := 0, step := 9, stage := 6 }

theorem witness_refresh : tget ({ ready with blocks := [(0, { block with busy := true })] } : State).blocks 0 = some { block with busy := true } ∧
    ready.decayLeft 0 = false ∧ ready.curv.sealing = none ∧ (ready.ctxD (ready.objCtx 1)).mode ≠ .tornDown ∧
    (ready.firstPlan (ready.objCtx 1)).isSome = true ∧
    ({ ready with ctxs := [(1, { train with plans := [] })] } : State).firstPlan (ready.objCtx 1) = none ∧
    tgetD ({ ready with curv := { queue := [(2, [snapshot])] } } : State).curv.queue 2 [] = [snapshot] ∧
    ({ ready with curv := { queue := [(2, [snapshot])] } } : State).resultSlot 2 = some 0 ∧
    tget ({ ready with curv := { current := [(2, snapshot)] } } : State).curv.current 2 = some snapshot ∧
    tget ready.blocks snapshot.block = some block ∧ snapshot.code = 0 := by decide +kernel

/-! ### Witnesses: updates, commits, partitions, pairs, problems -/

def updating (p : GranPhase) : State :=
  { decided with ctxs := [(1, { train with plans := [(0, { body := { body with objects := [objDecl], stats := [statDecl] } })] })],
                 gran := some { ctx := 1, step := 9, entries := [{ entry with recipe := 2 }], active := some (7, 5, 0, 0x3F800000, p) } }

theorem witness_precondition : (updating .precondition).gran.isSome = true ∧
    (((updating .precondition).gran.map fun g => (updating .precondition).precondLeft g) = some [1]) ∧
    (updating .precondition).foldsWaiting 1 = false ∧ (updating .precondition).curv.sealing = none ∧
    (updating .precondition).group.flights = [] ∧ (updating .precondition).group.queue = [] ∧
    (updating .norm).normsWaiting = false := by decide +kernel

/-- The norm pass of a group update, its partials not yet exchanged. -/
def groupNorm : State := grouped { updating .norm with gran := (updating .norm).gran.map fun g => { g with group := true } }

theorem witness_group_norm : (groupNorm.gran.map fun g => (g.group, g.norm)) = some (true, none) ∧ groupNorm.normsWaiting = false ∧
    groupNorm.inCut (groupNorm.rf .colCfg 15 4) = true ∧ groupNorm.exchanging 0 5 0 0 = false := by decide +kernel

def committing (t : Txn) : State := { ready with txns := [t] }
/-- A transaction of the group, cut 0, whose votes are awaited. -/
def voting : Txn := { ctx := 1, tag := 5, group := true, key := 0xAB, phase := .prepared, ready := true, commitSeq := some 7 }

theorem witness_commit : (committing { txn with phase := .committing }).txn? 1 5 = some { txn with phase := .committing } ∧
    (committing { txn with phase := .committing }).membersDone { txn with phase := .committing } = true ∧
    (committing { txn with phase := .voted, ready := true, atFrame := true }).txn? 1 5 = some { txn with phase := .voted, ready := true, atFrame := true } ∧
    (committing { txn with phase := .committing }).slotsFree { txn with phase := .committing } = true ∧
    0 ≤ ready.cad.frame.toNat ∧ (committing voting).txn? 1 5 = some voting ∧ voting.voteBy ≤ (committing voting).now := by decide +kernel

theorem witness_vote_abort : ((grouped (committing voting)).abortTxn 1 5 dGroupVote none).txn? 1 5 = none := by decide +kernel

theorem witness_vote : (grouped (committing voting)).collOn = true ∧
    (grouped (committing voting)).portOpen (grouped (committing voting)).peerPort = true ∧ 1 ≠ (grouped (committing voting)).ownRank ∧ (grouped (committing voting)).rankValid 1 = true ∧
    (grouped (committing voting)).txns.find? (fun t => t.isOpen && t.group && t.key == 0xAB && !t.pastVote &&
      ((grouped (committing voting)).voters t).contains 1) = some voting ∧
    ((grouped (committing voting)).txns.any fun t => t.group && t.key == 0xCD) = false := by decide +kernel

/-- The change of context 1 to pair 1, whose step commit has come, with pair 0 lent. -/
def change : PartChange := { pairs := [1], slices := [0], due := true }
def changing : State := { ready with ctxs := [(1, { train with changes := [change] })], pairs := [(0, { running := 2, lent := true })] }

theorem witness_change : changing.ctx? 1 = some { train with changes := [change] } ∧
    changing.atChangePoint 1 { train with changes := [change] } change = true := by decide +kernel

/-- Context 1 has met the conditions of blocking for HOLD µs. -/
def quiet : State := { ready with now := 105009, ctxs := [(1, { train with idleSince := some 9 })] }

theorem witness_blocked : quiet.ctx? 1 = some { train with idleSince := some 9 } ∧ quiet.mayBlock 1 { train with idleSince := some 9 } = true ∧
    9 + 1050 * quiet.rf .ctxPolicy 8 8 ≤ quiet.now := by decide +kernel

/-- Context 2 is swapped out and could run again. -/
def swapped : State := { ready with ctxs := [(0, { kind := .management, mode := .resident }), (1, train), (2, { solve with mode := .swapped, tailMoved := true })] }

theorem witness_swap : (swapped.ctxs.filter fun (e : Nat × Ctx) => swapped.runnable e.1 e.2).map (·.1) = [2] ∧
    swapped.runnable 2 (swapped.ctxD 2) = true ∧ swapped.fitsIn (swapped.ctxD 2) none = true ∧ swapped.residents.length < 8 ∧
    swapped.rf .ctxPolicy 0 1 = 0 := by decide +kernel

/-- Context 1 is blocked on all its pairs and slices, which context 2, swapped out, needs. -/
def crowded : State :=
  { ready with ctxs := [(0, { kind := .management, mode := .resident, blocked := true }), (1, { train with blocked := true }),
                        (2, { solve with mode := .swapped, tailMoved := true, pairs := [0], slices := [0] })] }

theorem witness_victim : (crowded.ctxs.filter fun (e : Nat × Ctx) => crowded.runnable e.1 e.2).map (·.1) = [2] ∧
    crowded.fitsIn (crowded.ctxD 2) none = false ∧ crowded.rf .ctxPolicy 1 1 = 0 ∧
    (crowded.residents.all fun n => (crowded.ctxD n).blocked && crowded.mayBlock n (crowded.ctxD n)) = true ∧
    crowded.victim (crowded.eligible (crowded.ctxD 2)) = some 1 := by decide +kernel

/-- Pair 0 is lent and its owner's run has a segment parked for it. -/
def lending : State := { ready with now := 65545, pairs := [(0, { running := 2, lent := true, returnAt := some 9 })], runs := [{ run with parked := [(0, 0, 0, none)] }] }

theorem witness_pairs : lending.segmentReady (lending.pairOwner 0) 0 = true ∧ (lending.pair 0).lent = true ∧ (lending.pair 0).returnAt.isSome = true ∧
    (ready.arr 94).mode = .halted ∧ (ready.arr 95).mode = .halted ∧ (ready.pair 47).fallow = false ∧ ready.pairWorkless 47 = true ∧
    ready.pairOwner 47 = 0 ∧ ready.power.state = 1 ∧ ready.prus = [] ∧ ready.pairOwner 0 ≠ 0 ∧ ready.fallowAuto = true ∧
    ready.prio (ready.pairOwner 0) ≠ 0 ∧ ready.pairWorkless 0 = true := by decide +kernel

/-- Pair 0 has had no work for DELAY µs, has stood still as long, and is fallow with a PART_SET that wakes it. -/
def resting (x : TwinPair) : State := { ready with now := 1050000, pairs := [(0, x)] }

theorem witness_rest : (lending.pair 0).returnAt = some 9 ∧ 9 + 65536 ≤ lending.now ∧
    ((resting { noWork := some 0 }).pair 0).noWork = some 0 ∧ 0 + 1050 * (resting {}).rf .pwrFallowCfg 1 16 ≤ (resting {}).now ∧
    ((resting { still := some 0 }).pair 0).still = some 0 ∧ 0 + 32 ≤ (resting {}).now ∧
    ((resting { fallow := true, wake := true }).pair 0).fallow = true ∧ ((resting { fallow := true, wake := true }).pair 0).wake = true ∧
    (resting { fallow := true, wake := true }).pairOwner 0 ≠ 0 ∧ (resting { fallow := true }).workReady 0 = false ∧
    (resting {}).power.state ≠ 2 := by decide +kernel

def batch : Batch := { ctx := 2, seq := 7, first := 0, count := 1, deadline := some (0, 0), left := [0] }
def batching (b : Batch) (p : Problem) : State := { ready with batches := [b], problems := [(probKey 2 0, p)] }
def slvRun : SlvRun := { phase := .eval, left := 2 }

theorem witness_batch : (batching batch problem).batchOf 2 7 = some batch ∧ (batching batch problem).batchReady batch = true ∧
    (batching batch problem).deadlinePast batch = true ∧ batch.released = false ∧
    (batching { batch with released := true } problem).pairForProblem 2 1 = true ∧
    (batching { batch with released := true } problem).firstFree 2 1 = true ∧
    ((batching { batch with released := true } problem).ctxD 2).mode = .resident ∧
    (batching { batch with released := true } problem).nextProblem 2 = some ({ batch with released := true }, 0) ∧
    (batching { batch with released := true } problem).problem? 2 0 = some problem := by decide +kernel

def solverBusy : State := { batching { batch with released := true } { problem with run := some slvRun } with pairs := [(1, { problem := some (2, 0) })] }

theorem witness_fragment : solverBusy.problemPair 2 0 = some 1 ∧ solverBusy.problem? 2 0 = some { problem with run := some slvRun } ∧
    solverBusy.batches.find? (fun b => b.ctx == 2 && b.released && b.left.contains 0) = some { batch with released := true } ∧
    ({ problem with run := some { slvRun with left := 1 } } : Problem).outcome { slvRun with left := 1 } false = none ∧
    (solverBusy.pair 1).lent = false ∧ (solverBusy.ctxD 2).onHold = false := by decide +kernel

theorem witness_deadline : (solverBusy.batchOf 2 7) = some { batch with released := true } ∧ solverBusy.deadlinePast { batch with released := true } = true ∧
    (batching { batch with released := true } { problem with run := some slvRun }).problemPair 2 0 = none ∧
    ([0].filter fun n => ((batching { batch with released := true } { problem with run := some slvRun }).problemPair 2 n).isNone) = [0] ∧
    (({ problem with run := some slvRun } : Problem).outcome slvRun true).isSome = true := by decide +kernel

/-! ### Witnesses: ports, cadence, debug units -/

def polled : State := { table with ctxs := [(1, { train with ring := { bound := true, sqLog2 := 6, cqLog2 := 6 }, interval := 64000, polls := 1024, moved := 513 })] }

theorem witness_ports : ready.canTrain .tenant = true ∧ springed.canTrain .tenant = false ∧ polled.polling .steward = true ∧ polled.ctxOnPort 1 .steward = true ∧
    (polled.ctxD 1).ring.bound = true ∧ (polled.doorbellAddr .steward 1).isSome = true ∧ polled.rf .hifPollCfg 0 1 = 0 ∧
    (polled.ctxD 1).opens = [] ∧ (polled.ctxD 1).held = [] ∧ (polled.ctxD 1).activeUntil ≤ polled.now := by decide +kernel

def cad (x : Cad) : State := { ready with now := 2 * 10 ^ 8, cad := { x with running := true } }
/-- With an anchor armed that waits for an edge (RESYNC). -/
def resync : State := { cad {} with regs := [({ reg := .cadAnchor }, 0x5000000000000)] }

theorem witness_edges : resync.anchorArmed = true ∧ resync.rf .cadAnchor 50 1 = 1 ∧ resync.cad.boundary + oneMs ≤ 8 * resync.now ∧
    (cad {}).anchorArmed = false ∧ (cad {}).cad.boundary + oneMs ≤ 8 * (cad {}).now ∧ (cad {}).cad.mode = .acquiring ∧
    8 * (2 * 10 ^ 8) < (cad { boundary := 16 * 10 ^ 8 }).cad.boundary + oneMs ∧
    0 + 8 * ((cad { mode := .locked, lastEdge := some 0 }).cad.period + (cad { mode := .locked, lastEdge := some 0 }).cadWindow) ≤
      8 * (cad { mode := .locked, lastEdge := some 0 }).now + 7 ∧
    0 + 8 * (cad { mode := .holdover, hold := 1 }).cad.period * 1 ≤ 8 * (cad {}).now + 7 ∧
    (cad { source := true }).cad.boundary + 8 * (cad { source := true }).nominal ≤ 8 * (cad { source := true }).now + 7 ∧
    ({ cad {} with regs := [({ reg := .cadCfg }, 1)] } : State).rf .cadCfg 0 1 = 1 ∧ (cad {}).cad.source = false ∧
    (cad {}).cad.boundary + 8 * (cad {}).nominal ≤ 8 * (cad {}).now + 7 ∧
    ({ cad { ppsEdge := some 0 } with now := 1575000000 } : State).cad.ppsEdge = some 0 := by decide +kernel

def frameWait : Open := { desc := desc [0x38, 7, 0, 5], wait := .frame 5 0 }

theorem witness_frame_wait : (({ ready with ctxs := [(1, { train with opens := [frameWait] })] } : State).ctxD 1).mode = .resident ∧
    (({ ready with ctxs := [(1, { train with opens := [frameWait] })] } : State).ctxD 1).opens = [frameWait] := by decide +kernel

/-- An edge at the predicted moment, and one a window later. -/
theorem witness_locked_edge : let s := cad { mode := .locked, lastEdge := some 0 }
    0 + 8 * s.cad.period ≤ 8 * s.cad.period + 8 * s.cadWindow ∧ (8 * s.cad.period) / 8 ≤ (0 + 8 * s.cad.period + 8 * s.cadWindow) / 8 ∧
    (8 * s.cad.period + 8 * s.cadWindow) / 8 ≤ (0 + 8 * s.cad.period + 8 * s.cadWindow) / 8 ∧
    s.anchorApplies false = false ∧ s.cad.source = (s.rf .cadCfg 0 1 == 1) := by decide +kernel

/-- A run that owes the read of point 2, and one whose stage 0 has points 2 and 3 armed on it and on stage 1. -/
def watched : State := inRun { run with finished := [0], owed := [(2, {})] }
def arming : State := { inRun run with ctxs := [(1, { train with watches := [(2, {}), (3, { stage := 1 })] })] }
def windowOpen (now : Nat) : State := { ready with now := now, bwLength := 1, regs := [({ reg := .pmcBwCfg }, 1)] }

/-- A stage's drains trigger the points armed on it, and a stage that writes what they name waits for the reads (R374). -/
theorem test_watch_owed : ((arming.oweReads 1 7 0).run? 1 7).map (·.owed) = some [(2, {})] ∧
    ((arming.oweReads 1 7 0).ctxD 1).watches = [(2, { count := 1 }), (3, { stage := 1 })] ∧
    (inRun { run with owed := [(2, { loc := 0x101 })] }).watchHolds 1 { stage with writes := [1] } = true ∧
    (inRun { run with owed := [(2, { loc := 0x101 })] }).watchHolds 1 { stage with writes := [2] } = false := by decide +kernel

theorem witness_debug : watched.run? 1 7 = some { run with finished := [0], owed := [(2, {})] } ∧
    ({ run with finished := [0], owed := [(2, {})] } : Run).owed.find? (fun e => e.1 == 2) = some (2, {}) ∧
    ({ ready with steward := { ready.steward with post := some 0 } } : State).portSt .steward = { ready.steward with post := some 0 } ∧
    (windowOpen 1050).rf .pmcBwCfg 0 1 = 1 ∧ (windowOpen 1050).bwSince + 1050 * (windowOpen 1050).bwLength ≤ (windowOpen 1050).now ∧
    (windowOpen 1049).now < (windowOpen 1049).bwSince + 1050 * (windowOpen 1049).bwLength := by decide +kernel

def frozen : State := { ready with steward := { ready.steward with triggered := true, post := some 1, sluiceQueue := [List.replicate 8 0] } }

theorem witness_freeze : ((frozen.sluiceDrain .steward 257).portSt .steward).frozen = true ∧ (frozen.portSt .steward).triggered = true := by
  decide +kernel

/-- POST counts from the TRIGGER record, not from records queued before it (R379). -/
theorem test_post_count : let s : State := { ready with
      regs := [({ reg := .dbgSluiceCfg }, 0x2001), ({ reg := .dbgTrig }, 1)], steward := { ready.steward with sluiceQueue := [List.replicate 8 0] } }
    let t := s.trigger .steward 1
    ((t.sluiceDrain .steward 2).portSt .steward).post = some 2 ∧ ((t.sluiceDrain .steward 2).portSt .steward).frozen = false ∧
    (((t.sluiceDrain .steward 2).trigger .steward 1).portSt .steward).post = some 2 := by decide +kernel

/-- Counter 0 of sector 5 runs, and counter 1 is chained to it. -/
def counting : State :=
  { ready with regs := [({ reg := .pmcEvselSector, idx := 80 }, 0x1000100), ({ reg := .pmcCtrSector, idx := 80 }, 0xFFFFFFFFFFFF),
                        ({ reg := .pmcEvselSector, idx := 81 }, 0x3000000)] }

theorem witness_counters : ∃ b, ctrBank 1 = some b ∧ 5 < b.units ∧ 1 < b.per ∧ counting.ctrRuns 1 b 5 0 = true ∧ counting.ctrChained b 5 0 = false ∧
    2 ^ 48 ≤ counting.rawReg b.ctr (b.per * 5 + 0) .steward + 1 ∧ counting.ctrChained b 5 1 = true ∧ counting.ctrRuns 1 b 5 1 = true ∧
    counting.rawReg b.ctr (b.per * 5 + 1) .steward < 2 ^ 48 := ⟨_, rfl, by decide +kernel⟩

theorem witness_chain_even : bitsOf 0x2000200 25 1 = 1 ∧ 0x200 ≤ bitsOf 0x2000200 0 10 ∧ bitsOf 0x2000200 10 2 ≠ 3 := by decide

/-! ### Witnesses: memory system, errors, BAR2, power -/

theorem witness_sensors : ready.populated 11 = true ∧ (ready.site 11).hot = false ∧ ready.refreshRow 11 0 40 < 3 ∧ ready.refreshRow 11 0 120 = 3 ∧
    5 ≤ ready.boot.stage ∧ (ready.ctxs.any fun e => e.2.thermalHold) = false ∧
    ready.rf .memRefreshPolicy 0 1 = 0 ∧ (ready.site 11).offset < ready.rf .memRefreshPolicy 25 2 ∧ ready.granted1500 11 = false ∧
    16 < (({ ready with sites := [(11, { minute := 17 })] } : State).site 11).minute := by decide +kernel

theorem witness_global_window : ready.rf .rasGlobalCfg 0 1 = 0 ∧
    ready.rf .rasGlobalCfg 1 7 ≤ ((List.replicate 128 0).filter fun t => decide (ready.now ≤ t + ready.rf .rasGlobalCfg 8 8 * 3600 * secondCycles)).length ∧
    ready.power.state = 1 ∧ springed.power.state = 2 ∧ ready.isReady = true ∧ placeExists (.page 11 32767 none) = true := by decide +kernel

theorem witness_bar2 : ready.barOpen .steward = true ∧ ready.power.state ≠ 3 ∧ ready.bar2Place .steward 4096 = (0, 0, 4096) ∧
    ready.pageExists 0 0 = true ∧ ready.bar2Permits .steward 0 0 = true ∧ (ready.site 0).selfRefresh = false ∧
    ready.bar2Permits .tenant 0 0 = false ∧ ready.bar2Lost .steward 4096 64 = none ∧
    ({ ready with sites := [(0, { present := true, runOut := 1 })] } : State).bar2Lost .steward 4096 64 = some (0, 0) := by decide +kernel

theorem witness_heat : ({ ready with now := 10500000, power := { state := 1, hotSince := some 0 } } : State).power.hotSince = some 0 ∧
    ({ ready with now := 1050000000, power := { state := 2, coolSince := some 0, cause := 1 } } : State).power.coolSince = some 0 ∧
    ({ ready with power := { state := 2, cause := 1 } } : State).power.cause.getLsbD 0 = true ∧
    ({ ready with power := { state := 2, cause := 2, vcoreFault := true } } : State).power.cause.getLsbD 1 = true ∧
    ready.power.vcoreOff = false ∧ ready.pwrok = true := by decide +kernel

/-! ### Witnesses: resets, start-up, registers -/

def stageIs (n : Nat) : State := { ready with boot := { stage := n }, power := {}, sites := [], ctxs := [], objects := [], stats := [], blocks := [] }
/-- Held in reset. -/
def inReset : State := { ready with rstHigh := false, steward := {} }

theorem witness_resets : ready.running = true ∧ ready.boot.stage ≠ 15 ∧ ready.boot.everReady = true ∧ inReset.pwrok = true ∧ inReset.running = false ∧
    ready.tenant.perstHigh = true ∧ State.reset.pwrok = false ∧ ({ ready with tenant := {} } : State).tenant.perstHigh = false ∧
    ready.tenant.readyDue = none ∧ PortState.readyDue { readyDue := some 2 } = some 2 ∧
    PortState.readyDue { readyDue := some 0 } = some 0 := by decide +kernel

/-- An image of 8,192 bytes in the load window. -/
def image : State := { stageIs 2 with boot := { stage := 2, window := memPut [] 0 (leBytes 4 0x4657424D ++ leBytes 4 0x10000 ++ leBytes 4 8192) } }

theorem witness_start_up : (stageIs 0).running = true ∧ (stageIs 2).imageOk = false ∧ (stageIs 4).boot.warm = false ∧ (stageIs 4).regs = [] ∧
    (stageIs 4).sites = [] ∧ image.imageOk = true ∧ image.boot.stage = 2 ∧ (stageIs 6).power.vcoreFault = false ∧ (stageIs 6).power.vsramFault = false := by decide +kernel

/-- A device that waits for its image, and one whose image stands in the window. -/
theorem witness_go : (stageIs 1).barOpen .steward = true ∧ (stageIs 1).power.state ≠ 3 ∧ (stageIs 1).steward.held = none ∧ (stageIs 3).boot.stage = 3 := by
  decide +kernel

theorem witness_registers : ready.serves .steward = true ∧ ready.shareFits 1 = true ∧ ready.cad.anchored = false ∧ ready.group.flights = [] ∧ ready.group.queue = [] ∧
    ready.group.waiting = [] ∧ ready.voting = false ∧ ready.rf .hifDoorbellBase 0 1 = 0 ∧ ready.rf .hifEvtRing 5 1 = 0 ∧
    ({ ready with regs := [({ reg := .dbgTrig }, 5)] } : State).rf .dbgTrig 2 4 ≠ 0 ∧ ready.canDump .steward = true := by decide +kernel

theorem witness_reserved : (maskOf (fieldsAt .hifPortCfg 0) fun _ => true).testBit 63 = false ∧ ready.target .steward 32 = .nothing ∧ ready.target .steward 0xFFC = .nothing := by
  decide +kernel

theorem witness_steward_fields : ((fieldsAt .pwrLimit 0).any fun f => f.steward && decide (0 < f.width)) = true ∧
    ready.tenantMay .hifEvtRing 0 0x26 = true := by decide +kernel

/-! ### Witnesses: attestation, peers, rings, debug queues, solver -/

theorem witness_attest : ready.barOpen .steward = true ∧ ready.attestStatus .steward [] ≠ atReport ∧
    ready.attestStatus .steward (List.replicate 36 0) = atReport := by decide +kernel

theorem witness_peers : (grouped ready).portOpen (grouped ready).peerPort = true ∧ ready.portOpen ready.peerPort = true ∧ (grouped ready).rf .colCfg 0 1 = 1 ∧ (grouped ready).peerRank 1 = some 1 ∧ (grouped ready).peerRank 2 = none ∧
    ready.rf .colCfg 0 1 = 0 := by decide +kernel

def flight : Coll := { ctx := 1, seq := 7, desc := coll 0 64, cut := [0, 1] }
def inFlight : State := { grouped ready with group := { flights := [flight], waitFrom := [(1, 0)] } }

theorem witness_flights : inFlight.collOn = true ∧ tget inFlight.group.waitFrom 1 = some 0 ∧
    0 + 1050000 * inFlight.rf .colCfg 19 13 ≤ inFlight.now ∧ inFlight.group.flights.filter (fun f => inFlight.waitsOn f 1) = [flight] ∧
    tgetD inFlight.group.outstanding 1 0 < windowSize ∧ inFlight.txns.filter (fun t => t.votesWait inFlight 1) = [] ∧
    windowSize ≤ tgetD ({ outstanding := [(1, windowSize)], unsent := [(1, 1)] } : Group).outstanding 1 0 ∧
    inFlight.group.flights.find? (fun f => f.takes { rank := 1, key := 1, sub := 0, fmt := 7, root := 0, count := 64, bytes := [] } &&
      ({ inFlight with group := inFlight.group.heard 1 } : State).waitsOn f 1) = some flight := by decide +kernel

/-- A ring that expects SEQ 8, and one whose last descriptor failed. -/
def expecting (x : Ctx) : State := { ready with ctxs := [(1, x)] }

theorem witness_rejected : ready.takesNow 1 (desc [0x01, 7, 1]) = true ∧
    ((ready.seqTaken 1 (desc [0x01, 7, 1])).verdict 1 (desc [0x01, 7, 1])).isSome = true ∧ descOf .nop 1 (desc [0x01, 7, 1]) = true ∧
    (expecting { train with ring := { expect := some 8 } }).taking 1 = true ∧
    ((expecting { train with ring := { expect := some 8 } }).ctxD 1).seqOk (desc [0x01, 7]) = false ∧
    ((expecting { train with lastStatus := some 16 }).ctxD 1).chainBroken (desc [0x1001, 7]) = true ∧
    ((expecting { train with lastStatus := some 16 }).ctxD 1).mustWait (desc [0x1001, 7]) false = false ∧
    (expecting { train with lastStatus := some 16 }).taking 1 = true ∧ train.closed = false ∧ train.ringFull = false ∧
    inTxn.txn? 1 (member regGroup).tag = some txn ∧ isTxnMember (member regGroup) = true ∧ txn.isOpen = true ∧ txn.commitSeq = none := by
  decide +kernel

theorem witness_completion : (polled.ctxD 1).ring.bound = true ∧ polled.portOpen .steward = true ∧ Memory.wf (polled.hostMem .steward) = true ∧
    2 ^ 6 < (65 + 2 ^ 32 - (polled.ctxD 1).ring.fetch) % 2 ^ 32 := by decide +kernel

theorem witness_sluice : (List.replicate 255 ([] : List Word)).length < 256 ∧ 256 ≤ (List.replicate 256 ([] : List Word)).length ∧
    (ready.portSt .steward).frozen = false ∧ (ready.portSt .steward).lostSince = 0 := by decide +kernel

theorem witness_cap : ({ cap := 1 } : SlvRun).marked = false ∧ ({ cap := 1 } : SlvRun).cap ≤ ({ cap := 1 } : SlvRun).iter + 1 ∧
    ({ cap := 2 } : SlvRun).iter + 1 < ({ cap := 2 } : SlvRun).cap := by decide

theorem witness_idle : ready.running = true ∧ ready.isReady = true ∧ ready.power.state ≠ 3 ∧ ready.pending = [] ∧ State.reset.pwrok = false := by
  decide +kernel

theorem witness_tile : tileOk (.lds 15 1 true 128 512) = true := by decide

theorem witness_bounds : ready.bounded := by unfold State.bounded PortState.bounded; decide +kernel

/-! ### Instruction words written out from the encoding (R84–R86) -/

def tileOf (ws : List Nat) : Option (Tile × Nat) := decodeTile (ws.map (BitVec.ofNat 32))

theorem test_decode_cfg :
    tileOf [0b000001_000_1000_0101_1_100_10_1_0_0000000] = some (.cfgMode 8 5 true 4 2 true false, 1) ∧
    tileOf [0b000001_001_1111_0000_101111111111111, 0xFFFF8000] = some (.cfgAddr 15 24575 (-32768) 65535, 2) ∧
    tileOf [0b000001_010_11_000000000000000000000, 1, 2, 3, 0xFFFFFFFF] = some (.cfgPos 3 0x200000001 3 (-1), 5) ∧
    tileOf [0b000001_011_00001_00010_00011_00100_000] = some (.cfgFxq 1 2 3 4, 1) ∧
    tileOf [0b000001_100_00000000000000000000000, 0x00FFFFFF] = some (.cfgStream 0xFFFFFF, 2) := by decide +kernel

theorem test_decode_passes :
    tileOf [0b000010_0011_1_1_1111111_0111111111_000] = some (.lds 3 1 true 128 512, 1) ∧
    tileOf [0b000011_0101_1_11111111_1_01_0000000000] = some (.strm 5 1 256 true 1, 1) ∧
    tileOf [0b000100_01_1001_00000000000000000000] = some (.maccStore 9, 1) ∧
    tileOf [0b000101_0_0010_1001_01_1_00_0000111_00000] = some (.drn 2 9 true true 0 7, 1) ∧
    tileOf [0b000110_0001_0010_0_00111111_1_111111_10] = some (.gram 1 2 false 64 true 64 2, 1) ∧
    tileOf [0b000111_1_0010_1111111_1111111111_1000] = some (.twinTake 2 128 1024 8, 1) ∧
    tileOf [0b001000_0000_01_11111111_1_00000000000] = some (.histMerge 255 true, 1) ∧
    tileOf [0b001001_0001_1111111111_11111111_1_000] = some (.bchkLoad 1 1023 255, 1) ∧
    tileOf [0b001010_11_10_0001_0010_1111111_1_000000] = some (.pru .pivot 2 1 2 128 true, 1) := by decide +kernel

theorem test_decode_control :
    tileOf [0b010000_11_000000000000_000000000101] = some (.loop 3 4096 5, 1) ∧
    tileOf [0b010001_00000100_00001100_1_000000000] = some (.tokw 4 12 true, 1) ∧
    tileOf [0b010010_00000100_00001100_0000000000] = some (.toks 4 12, 1) ∧
    tileOf [0b010011_0001_01_00000111_1111111111_00] = some (.rng 1 1 8 1024, 1) ∧
    tileOf [0b011000_1_0000000000000000000000000, 7] = some (.mark true 7, 2) ∧
    tileOf [0b011001_00000100_000000000000000000] = some (.samp 4, 1) ∧
    tileOf [0b111111_10_000000000011_1_00000101_000] = some (.haltNextYield 3 true 5, 1) := by decide +kernel

/-- Opcode 0, an unlisted opcode, a reserved SUB, a set reserved bit, a reserved format, a corner turn of other than 128
vectors and a count of 0 are refused. -/
theorem test_decode_refuses : tileOf [0] = none ∧ tileOf [0b001011_00000000000000000000000000] = none ∧
    tileOf [0b000001_101_00000000000000000000000] = none ∧ tileOf [0b000010_0011_1_1_1111111_0111111111_001] = none ∧
    tileOf [0b000001_000_1010_0101_1_100_10_1_0_0000000] = none ∧ tileOf [0b000011_0101_1_11111111_1_10_0000000000] = none ∧
    tileOf [0b010001_00000100_00000000_1_000000000] = none := by decide +kernel

/-! ### Ill-formed terms -/

theorem test_wf_refuses : Instr.wf (.nop 256 (desc [1])) = false ∧ Instr.wf (.nop 1 (desc [2])) = false ∧
    Instr.wf (.nop 255 (desc [1])) = true ∧ Instr.wf (.maccZero 96) = false ∧ Instr.wf (.maccZero 95) = true ∧
    Instr.wf (.idle 48) = false ∧ Instr.wf (.pruRequest 6) = false ∧ Instr.wf (.granaryChunk 12) = false ∧
    Instr.wf (.weirPass 1 4) = false ∧ Instr.wf (.ieee1500Access 12 (.read 0)) = false ∧ Instr.wf (.toks 0 1 0) = false ∧
    Instr.wf (.cfgAddr 0 1 24576 0 0) = false ∧ Instr.wf (.counterOverflow 3 0 0 1) = false := by decide +kernel

/-! ### Single steps -/

/-- The state a command leads to, or the state before it. -/
def after (i : Instr) (s : State) : State :=
  match exec i s with
  | .next t => t
  | _ => s

/-- Status, detail and RESULT of completion n of the steward ring at host address 0x30000 (R310). -/
def completion (s : State) (n : Nat) : Nat × Nat × Nat :=
  let w := leNat (s.hostRead .steward (0x30000 + 16 * n + 4) 4)
  (w % 256, w / 256 % 32768, leNat (s.hostRead .steward (0x30000 + 16 * n + 12) 4))

def ringed : State := { ready with ctxs := [(1, { train with ring := { bound := true, cqBase := 0x30000, sqLog2 := 6, cqLog2 := 6 } }), (2, solve)] }

/-- SIGNAL adds COUNT; a sum that needs more than 32 bits is LIMIT with TOKEN_OVERFLOW (R306). -/
theorem test_signal : tgetD ((after (.signal 1 (desc [0x39, 7, 3, 1, 5])) ringed).ctxD 1).tokens 3 0 = 5 ∧
    completion (after (.signal 1 (desc [0x39, 8, 3, 1, 0xFFFFFFFB])) (after (.signal 1 (desc [0x39, 7, 3, 1, 5])) ringed)) 1 =
      (0x22, 0x010A, 0) := by decide +kernel

theorem test_reserved_field : completion (after (.nop 1 (desc [0x01, 7, 1])) ringed) 0 = (0x21, 0x0102, 0) := by decide +kernel

theorem test_copy : (after (.copy 1 copyUp) { ringed with hostA := [(0x1000, 0xAB)] }).hbm = [(hbmAddr 0 101 0, 0xAB)] := by
  decide +kernel

/-- LOOP with COUNT 2 jumps once, then falls through (R96). -/
theorem test_loop : ((after (.loop 0 0 2 0) (running (.loop 0 2 0))).arr 0).pc = 0 ∧
    ((after (.loop 0 0 2 0) (after (.loop 0 0 2 0) (running (.loop 0 2 0)))).arr 0).pc = 1 := by decide +kernel

/-- A position register that passes 2^48 wraps (R83). -/
theorem test_position : (PosReg.advance { base := 0xFFFFFFFFFFFF, adv := 2 }).base = 1 ∧
    (PosReg.advance { base := 0, adv := -1 }).base = 0xFFFFFFFFFFFF := by decide

theorem test_gate : (after (.thermalPowerLoop 100 0) ready).power.gate = 1 ∧ (after (.thermalPowerLoop 99 0) ready).power.gate = 0 := by
  decide +kernel

theorem test_register_write : (after (.registerRead .steward 0xB0000C 4) (after (.registerWrite .steward 0xB0000C 4 0x12345678) ready)).steward.readData =
    [0x78, 0x56, 0x34, 0x12] := by decide +kernel

theorem test_smb_unknown : (after (.smbOtherCommand 7) ready).smbusNack = true := by decide +kernel

theorem test_step_takes_front : step { ready with pending := [.smbPower, .smbStageState] } =
    exec .smbPower { ready with pending := [.smbStageState] } := rfl

end Sys2Proof.Tests
end

section
/-! SUPPORT. The outcome of every command: a next state where the units it names exist, a fault where they do not (O2). -/

namespace Sys2Proof.Machine

/-- What a command comes to: a next state where the units it names exist, a fault where they do not; never a refusal. -/
inductive Answers : Bool → Host.Outcome State Fault Refusal → Prop
  | next (t : State) : Answers true (.next t)
  | fault (f : Fault) : Answers false (.fault f)

section
variable {b : Bool} {x y : Host.Outcome State Fault Refusal}

theorem Answers.next_or_fault (h : Answers b x) : (b = true → ∃ t, x = .next t) ∧ (b = false → ∃ f, x = .fault f) := by
  cases h with
  | next t => exact ⟨fun _ => ⟨t, rfl⟩, nofun⟩
  | fault f => exact ⟨nofun, fun _ => ⟨f, rfl⟩⟩

theorem Answers.ite {p : Prop} [Decidable p] (hx : Answers b x) (hy : Answers b y) : Answers b (if p then x else y) := by
  split
  · exact hx
  · exact hy

/-- A check of what a command names stands before what it does. -/
theorem Answers.checked {p : Prop} [Decidable p] {f : Fault} (hb : b = true ↔ ¬p) (hx : Answers true x) :
    Answers b (if p then .fault f else x) := by
  split
  case isTrue hp =>
    have hf : b = false := by simpa [hp] using hb
    exact hf ▸ .fault f
  case isFalse hp => exact hb.2 hp ▸ hx

/-- A unit with a number exists below their count (R1, R11, R314). -/
theorem Answers.unit {n count : Nat} {f : Fault} (hx : Answers true x) :
    Answers (decide (n < count)) (if count ≤ n then .fault f else x) :=
  .checked (by simp) hx

end

/-! ### Rows that share one form -/

theorem descRow_answers (r : DescRow) (c : Nat) (d : Desc) (s : State) : Answers (descOf r c d) (descRow r c d s) := by
  unfold descOf descRow
  by_cases hr : d.row = some r
  · simpa [hr] using Answers.unit (.next (s.submit c d))
  · have hb : (d.row == some r) = false := by simp [hr]
    simpa [hr, hb] using Answers.ite (.fault .noSuchUnit) (.fault .wrongRow)

theorem tileRow_answers (a : Nat) (t : Tile) (ready : State → Arr → Bool) (go : State → Arr → State) (s : State) :
    Answers (decide (a < 96)) (tileRow a t ready go s) := by
  refine .unit ?_
  dsimp only
  split
  · exact .ite (.ite (.next _) (.next _)) (.next _)
  · exact .next _

theorem twinRow_answers (offer : Bool) (a areg nrows nelem fmt : Nat) (t : Tile) (s : State) :
    Answers (decide (a < 96)) (twinRow offer a areg nrows nelem fmt t s) :=
  tileRow_answers ..

theorem pruRow_answers (op : PruOp) (a fmt src dst n : Nat) (sync : Bool) (s : State) :
    Answers (decide (a < 96)) (pruRow op a fmt src dst n sync s) :=
  tileRow_answers ..

/-! ### Checks of their own -/

theorem execWeirPass_answers (c weir : Nat) (s : State) :
    Answers (decide (c < 256) && decide (weir < 4)) (execWeirPass c weir s) := by
  refine .checked (by simp) ?_
  split
  · exact .next _
  · exact .ite (.next _) (.next _)

theorem execCtxWeirCfg_answers (p : Port) (c weir : Nat) (v : Word) (s : State) :
    Answers (decide (c < 256) && decide (weir < 4)) (execCtxWeirCfg p c weir v s) :=
  .checked (by simp) (.next _)

theorem execDoorbellPoll_answers (p : Port) (entry : Nat) (s : State) :
    Answers (decide (entry ≤ 256)) (execDoorbellPoll p entry s) :=
  .checked (by simp) (.ite (.next _) (.ite (.next _) (.ite (.next _) (.next _))))

theorem execUncorrectableError_answers (place : ErrorPlace) (s : State) :
    Answers (placeExists place) (execUncorrectableError place s) :=
  .checked (by simp) (.ite (.next _) (.next _))

theorem execCorrection_answers (place : CorrectPlace) (s : State) : Answers (correctExists place) (execCorrection place s) := by
  cases place with
  | stack n => exact .unit (.next _)
  | path st =>
    cases st with
    | none => exact .next _
    | some n => exact .unit (.next _)
  | sram => exact .next _

theorem execCounterOverflow_answers (bank unit idx value : Nat) (s : State) :
    Answers (counterExists bank unit idx) (execCounterOverflow bank unit idx value s) := by
  unfold counterExists execCounterOverflow
  cases ctrBank bank with
  | none => exact .fault _
  | some k => exact .checked (by simp) (.ite (.next _) (.next _))

/-! ### Every command -/

/-- Every command is answered: its row checks the units that `Instr.unitsExist` asks for and ends in a next state on every
branch behind that check. -/
theorem exec_answers (i : Instr) (s : State) : Answers i.unitsExist (exec i s) := by
  cases i with
  -- descriptors
  | nop | copy | gather | scatter | planLoad | planRun | statCfgSet | statCfgReset | rootRefresh | precondCfg | granStepFull
  | granStepNorm | granStepApply | granStepDiscard | granProg | txnBegin | txnCommit | txnAbort | allreduce | reducescatter
  | allgather | broadcast | permute | slvStructLoad | slvStructFree | slvDelta | slvBatch | waitFrame | waitToken | waitSeq
  | signal | mark | watchOff | watchStatistics | watchDigest | harvest | regGroup | ctxDefine | partSet | ctxTeardown | ctxFree
  | springEnter | springExit => exact descRow_answers ..
  -- tile instructions
  | cfgMode | cfgAddr | cfgPos | cfgFxq | cfgStream | lds | strm | maccZero | maccStore | maccKeep | drn | drnNow | gram
  | histWrite | histMerge | bchkWrite | bchkLoad | loop | tokw | toks | rng | markInstruction | samp | haltEnd | haltNext
  | haltNextYield =>
    dsimp only [exec]
    exact tileRow_answers ..
  | twinOffer | twinTake => exact twinRow_answers ..
  | pruSqrt | pruRecip | pruRsqrt | pruPivot => exact pruRow_answers ..
  -- events with a check of their own
  | weirPass => exact execWeirPass_answers ..
  | ctxWeirCfg => exact execCtxWeirCfg_answers ..
  | doorbellPoll => exact execDoorbellPoll_answers ..
  | uncorrectableError => exact execUncorrectableError_answers ..
  | correction => exact execCorrection_answers ..
  | counterOverflow => exact execCounterOverflow_answers ..
  -- events of one numbered unit
  | pairReturnRequest | borrowerOverrun | idle | fallowWake => exact .unit (.ite (.next _) (.next _))
  | fallowEntry => exact .unit (.ite (.next _) (.ite (.next _) (.next _)))
  | stackTemperature => exact .unit (.ite (.next _) (.ite (.next _) (.next _)))
  | refreshOffsetAdjust => exact .unit (.ite (.next _) (.ite (.next _) (.ite (.next _) (.next _))))
  | twinRendezvous | twinTimeout | tokenIncrement | tokwTimeout | ldsComplete | passComplete | fillRun | fillRunDone | pruRequest
  | granaryChunk | problemStart | sample | ieee1500Access =>
    refine .unit ?_
    repeat' split
    all_goals exact .next _
  -- commands that name no unit: at once, or on a condition
  | eventQueueDrain | linkDown | ideLinkStream | ppsTimeout | sluiceFreeze | thermalPowerLoop | thermalEmergency | thermalClear
  | railFault | pmbAlertN | pwrokFall | go | firmwareLoadWrite | cadAnchor | hifEvtRingEnable | hifDoorbellEnable
  | sluiceEnable | dump | force | pmcClear | pmcFreeze | rasLogClear | txnShadowCfg | crvTheta | crvRootCfg | numScaleCfg
  | registerWrite | swapPoll | doeAbort | smbHottestJunction | smbPower | smbStageState | smbAlertConditions | smbSpringCause
  | smbHottestStack => exact .next _
  | rasGlobalWindow | colCfg | sluiceTrigger | bwWindow | registerRead | warmReset | warmResetRelease | portReset
  | portResetRelease | rom | init | pwrokRise | thermtrip | linkUp | internalBoundary | ppsIn | weirWindow | collectiveTimeout
  | railClear | waitFrameReached => exact .ite (.next _) (.next _)
  | bar2Write | identity | attestation => exact .ite (.next _) (.ite (.next _) (.next _))
  | verifying => exact .ite (.next _) (.ite (.next _) (.ite (.next _) (.next _)))
  -- and those that look up what they name, which leave the state as it is where it is missing (log entry 68)
  | transactionPlace | stageStart | stageComplete | rowMap | fold | gramStage | layerReplay | rescale | blockRelease
  | refreshStart | refreshFinish | preconditioning | normCheck | commitPrepare | groupVote | voteTimeout | commitPoint
  | partitionChange | batchRelease | solverFragment | deadline | contextBlocked | pollIntervalAdjust | activeExpiry | cadenceIn
  | holdoverBoundary | watchRead | training | bar2Read | peerWrite | smbOtherCommand =>
    dsimp only [exec, execTransactionPlace, execStageStart, execStageComplete, execRowMap, execFold, execGramStage,
      execLayerReplay, execRescale, execBlockRelease, execRefreshStart, execRefreshFinish, execPreconditioning, execNormCheck,
      execCommitPrepare, execGroupVote, execVoteTimeout, execCommitPoint, execPartitionChange, execBatchRelease,
      execSolverFragment, execDeadline, execContextBlocked, execPollIntervalAdjust, execActiveExpiry, execCadenceIn,
      execHoldoverBoundary, execWatchRead, execTraining, execBar2Read, execPeerWrite, execSmbOtherCommand]
    repeat' split
    all_goals exact .next _

/-- Settles O2: each row's check of its units is the one `Instr.unitsExist` states, and nothing behind it stops. -/
theorem commandsStopOnlyForAbsentUnits : Obligations.CommandsStopOnlyForAbsentUnits :=
  fun i s => (exec_answers i s).next_or_fault

end Sys2Proof.Machine
end

section
/-! SUPPORT. The bits of a register's fields, and what a port's reads and writes do with the others (R6, R7; O43, O44). -/

namespace Sys2Proof.Machine

/-! ### The bits of fields -/

theorem RField.testBit_mask (f : RField) (i : Nat) :
    f.mask.testBit i = (decide (f.lo ≤ i) && decide (i < f.lo + f.width)) := by
  rw [RField.mask, Nat.testBit_mul_two_pow, Nat.testBit_two_pow_sub_one]
  by_cases h : f.lo ≤ i
  · simp [h, Nat.sub_lt_iff_lt_add' h]
  · simp [h]

theorem testBit_foldl_mask (fs : List RField) (m i : Nat) :
    (fs.foldl (fun m f => m ||| f.mask) m).testBit i = (m.testBit i || fs.any fun f => f.mask.testBit i) := by
  induction fs generalizing m with
  | nil => simp
  | cons f fs ih => simp [ih, Bool.or_assoc]

/-- A bit is of the fields that meet a condition when it lies in one of them. -/
theorem testBit_maskOf (fs : List RField) (p : RField → Bool) (i : Nat) :
    (maskOf fs p).testBit i = fs.any fun f => p f && f.mask.testBit i := by
  simp [maskOf, testBit_foldl_mask]

/-- A weaker condition is met by at least the same bits. -/
theorem testBit_maskOf_mono {fs : List RField} {p q : RField → Bool} (hpq : ∀ f, p f = true → q f = true) {i : Nat}
    (h : (maskOf fs p).testBit i = true) : (maskOf fs q).testBit i = true := by
  simp only [testBit_maskOf, List.any_eq_true, Bool.and_eq_true] at h ⊢
  obtain ⟨f, hf, hp, hi⟩ := h
  exact ⟨f, hf, hpq f hp, hi⟩

/-- The bits of a register that belong to a field; the others are reserved (R6). -/
abbrev fieldBits (r : Reg) (idx : Nat) : Nat := maskOf (fieldsAt r idx) fun _ => true

theorem testBit_maskOf_reserved {r : Reg} {idx i : Nat} (h : (fieldBits r idx).testBit i = false) (p : RField → Bool) :
    (maskOf (fieldsAt r idx) p).testBit i = false := by
  by_contra hp
  rw [testBit_maskOf_mono (fun _ _ => rfl) (eq_true_of_ne_false hp)] at h
  contradiction

/-- A mask of fields looks at no reserved bit. -/
theorem and_fieldBits_and_maskOf (v : Nat) (r : Reg) (idx : Nat) (p : RField → Bool) :
    v &&& fieldBits r idx &&& maskOf (fieldsAt r idx) p = v &&& maskOf (fieldsAt r idx) p := by
  refine Nat.eq_of_testBit_eq fun i => ?_
  cases h : (fieldBits r idx).testBit i with
  | true => simp [h]
  | false => simp [h, testBit_maskOf_reserved h p]

/-- Nor does the value of bits that all lie in fields. -/
theorem bitsOf_and_fieldBits {r : Reg} {idx lo n : Nat} (h : ∀ j < n, (fieldBits r idx).testBit (lo + j) = true) (v : Nat) :
    bitsOf (v &&& fieldBits r idx) lo n = bitsOf v lo n := by
  refine Nat.eq_of_testBit_eq fun j => ?_
  simp only [bitsOf, Nat.testBit_mod_two_pow, Nat.testBit_div_two_pow, Nat.testBit_and]
  by_cases hj : j < n
  · simp [Nat.add_comm j lo, h j hj]
  · simp [hj]

/-- A register of one word has the fields of its table at every index; COL_CUT_TABLE has another at index 0. -/
theorem fieldsAt_eq_regFields {r : Reg} (hc : r ≠ .colCutTable) (hw : regWords r = 0) (idx : Nat) :
    fieldsAt r idx = regFields r := by
  simp [fieldsAt, hc, hw]

theorem bitsOf_and_fieldBits_of_regFields {r : Reg} {lo n : Nat} (hc : r ≠ .colCutTable) (hw : regWords r = 0)
    (h : ∀ j < n, (maskOf (regFields r) fun _ => true).testBit (lo + j) = true) (idx v : Nat) :
    bitsOf (v &&& fieldBits r idx) lo n = bitsOf v lo n :=
  bitsOf_and_fieldBits (by simpa only [fieldBits, fieldsAt_eq_regFields hc hw] using h) v

/-! ### Reserved bits of a write (R6) -/

theorem chainOff_and_fieldBits (r : Reg) (idx v : Nat) : chainOff r idx (v &&& fieldBits r idx) = chainOff r idx v := by
  cases r with
  | pmcEvselArray | pmcEvselSector | pmcEvselGlobal =>
    rw [chainOff, chainOff, bitsOf_and_fieldBits_of_regFields (by decide) rfl (by decide)]
  | _ => rfl

theorem dumpBit_and_fieldBits (r : Reg) (idx v : Nat) :
    (r == .dbgSluiceCfg && bitsOf (v &&& fieldBits r idx) 6 1 == 1) = (r == .dbgSluiceCfg && bitsOf v 6 1 == 1) := by
  cases r with
  | dbgSluiceCfg => rw [bitsOf_and_fieldBits_of_regFields (by decide) rfl (by decide)]
  | _ => rfl

/-- What a write does beyond setting fields reads no reserved bit of the written value. -/
theorem State.writeEffect_and_fieldBits (s : State) (p : Port) (r : Reg) (idx old new v named : Nat) :
    s.writeEffect p r idx old new (v &&& fieldBits r idx) named = s.writeEffect p r idx old new v named := by
  have bits {lo n : Nat} (hc : r ≠ .colCutTable) (hw : regWords r = 0)
      (h : ∀ j < n, (maskOf (regFields r) fun _ => true).testBit (lo + j) = true) :=
    bitsOf_and_fieldBits_of_regFields (lo := lo) (n := n) hc hw h idx v
  cases r with
  | colStatus => unfold State.writeEffect; simp only [w1cMask, and_fieldBits_and_maskOf]
  | cadJitter => simp only [State.writeEffect, bits (lo := 16) (n := 16) (by decide) rfl (by decide)]
  | arrStatus => simp only [State.writeEffect, bits (lo := 16) (n := 7) (by decide) rfl (by decide)]
  | dbgTrig => simp only [State.writeEffect, bits (lo := 1) (n := 1) (by decide) rfl (by decide)]
  | dbgSluiceCfg => simp only [State.writeEffect, bits (lo := 0) (n := 1) (by decide) rfl (by decide)]
  | rasCfgErr => simp only [State.writeEffect, bits (lo := 0) (n := 1) (by decide) rfl (by decide)]
  | pwrBoot => simp only [State.writeEffect, bits (lo := 8) (n := 1) (by decide) rfl (by decide)]
  | rasLogCtl =>
    simp only [State.writeEffect, bits (lo := 5) (n := 1) (by decide) rfl (by decide),
      bits (lo := 6) (n := 1) (by decide) rfl (by decide)]
  | pmcCtl =>
    have clear (b : Nat) (hb : b < 3) : bitsOf (v &&& fieldBits .pmcCtl idx) (3 + b) 1 = bitsOf v (3 + b) 1 :=
      bits (by decide) rfl (by revert b; decide)
    simp only [State.writeEffect]
    exact List.foldl_ext _ _ _ fun t b hb => by simp only [clear b (List.mem_range.1 hb)]
  | _ => rfl

/-- A write is applied without its reserved bits (R6). -/
theorem State.applyReg_and_fieldBits (s : State) (p : Port) (r : Reg) (idx named v off : Nat) :
    s.applyReg p r idx named (v &&& fieldBits r idx) off = s.applyReg p r idx named v off := by
  have hw : v &&& fieldBits r idx &&& named = v &&& named &&& fieldBits r idx := Nat.and_right_comm ..
  have hset (w : Nat) : w &&& fieldBits r idx &&& (rwMask r idx &&& named) = w &&& (rwMask r idx &&& named) := by
    rw [← Nat.and_assoc, rwMask, and_fieldBits_and_maskOf, Nat.and_assoc]
  have hclear (w : Nat) : w &&& fieldBits r idx &&& w1cMask r idx = w &&& w1cMask r idx := and_fieldBits_and_maskOf ..
  simp only [State.applyReg, hw, hset, hclear, chainOff_and_fieldBits, dumpBit_and_fieldBits, State.writeEffect_and_fieldBits]

/-! ### Reserved bits and unlisted offsets in a read (R6) -/

theorem State.testBit_regValue_reserved (s : State) (p : Port) {r : Reg} {idx i : Nat} (h : (fieldBits r idx).testBit i = false) :
    (s.regValue r idx p).testBit i = false := by
  simp [State.regValue, testBit_maskOf_reserved h]

theorem State.readWord_of_nothing {s : State} {p : Port} {off : Nat} (h : s.target p off = .nothing) : s.readWord p off = 0 := by
  simp [State.readWord, h]

/-- Settles O43: every mask that a register's value or a write of it passes through is made of fields. -/
theorem reservedBitsReadZeroAndAreIgnored : Obligations.ReservedBitsReadZeroAndAreIgnored :=
  ⟨fun s _ _ _ p h => s.testBit_regValue_reserved p h, fun _ _ _ h => State.readWord_of_nothing h,
    fun s p r idx named v off => (s.applyReg_and_fieldBits p r idx named v off).symm⟩

/-! ### Steward fields at the tenant port (R7) -/

/-- The registers without a steward field that R365 and R451 open to the tenant port by a rule of their own. -/
def tenantRuled : List Reg := [.ctxSliceMap, .pmcOvfSector, .pmcEvselArray, .pmcCtrArray]

/-- A register with a steward field, at any index, is none of them. -/
theorem not_mem_tenantRuled {r : Reg} {idx : Nat} {f : RField} (hf : f ∈ fieldsAt r idx) (hs : f.steward = true) :
    r ∉ tenantRuled := by
  intro hr
  have hall : ∀ r ∈ tenantRuled, r ≠ .colCutTable ∧ regWords r = 0 ∧ ∀ f ∈ regFields r, f.steward = false := by decide
  obtain ⟨hc, hw, hplain⟩ := hall r hr
  rw [hplain f (fieldsAt_eq_regFields hc hw idx ▸ hf)] at hs
  contradiction

/-- A bit of the steward mask lies in a steward field. -/
theorem exists_steward_of_testBit {r : Reg} {idx i : Nat} (h : (maskOf (fieldsAt r idx) fun f => f.steward).testBit i = true) :
    ∃ f ∈ fieldsAt r idx, f.steward = true := by
  simp only [testBit_maskOf, List.any_eq_true, Bool.and_eq_true] at h
  obtain ⟨f, hf, hs, -⟩ := h
  exact ⟨f, hf, hs⟩

/-- Outside the sectors' overflow words, which are open bit by bit, the tenant port reads no more than the fields without
steward authority. -/
theorem State.testBit_tenantMask (s : State) {r : Reg} (hr : r ≠ .pmcOvfSector) {idx i : Nat}
    (h : (maskOf (fieldsAt r idx) fun f => !f.steward).testBit i = false) : (s.tenantMask r idx).testBit i = false := by
  have gate (b : Bool) : (if b then maskOf (fieldsAt r idx) (fun f => !f.steward) else 0).testBit i = false := by
    cases b with
    | true => exact h
    | false => exact Nat.zero_testBit i
  cases r with
  | pmcOvfSector => exact absurd rfl hr
  | ctxState | ctxWeirEff | ctxPartMap | arrStatus | pmcEvselArray | pmcCtrArray | pmcOvfArray | pmcMarkArray | pmcEvselSector
  | pmcCtrSector | dbgSampleBuf => exact gate _
  | _ => exact h

/-- From the tenant port a bit of a field with steward authority reads zero. -/
theorem State.testBit_regSeen_tenant (s : State) {r : Reg} {idx i : Nat}
    (hs : (maskOf (fieldsAt r idx) fun f => f.steward).testBit i = true)
    (hp : (maskOf (fieldsAt r idx) fun f => !f.steward).testBit i = false) : (s.regSeen r idx .tenant).testBit i = false := by
  obtain ⟨f, hf, hfs⟩ := exists_steward_of_testBit hs
  have hr := not_mem_tenantRuled hf hfs
  have hslice : r ≠ .ctxSliceMap := fun h => hr (by simp [h, tenantRuled])
  have hovf : r ≠ .pmcOvfSector := fun h => hr (by simp [h, tenantRuled])
  simp [State.regSeen, hslice, s.testBit_tenantMask hovf hp]

/-- The mask of a register's steward fields is not 0 where one has a bit. -/
theorem stewardMask_ne_zero {r : Reg} {idx : Nat} {f : RField} (hf : f ∈ fieldsAt r idx) (hs : f.steward = true) (hw : 0 < f.width) :
    (maskOf (fieldsAt r idx) fun f => f.steward) ≠ 0 := by
  intro h0
  have hbit : (maskOf (fieldsAt r idx) fun f => f.steward).testBit f.lo = true := by
    rw [testBit_maskOf, List.any_eq_true]
    exact ⟨f, hf, by simp [hs, RField.testBit_mask, hw]⟩
  simp [h0] at hbit

/-- The tenant port may not write a register with a steward field. -/
theorem State.tenantMay_of_steward (s : State) {r : Reg} {idx : Nat} (v : Nat) {f : RField} (hf : f ∈ fieldsAt r idx)
    (hs : f.steward = true) (hw : 0 < f.width) : s.tenantMay r idx v = false := by
  have hmask := stewardMask_ne_zero hf hs hw
  have hr := not_mem_tenantRuled hf hs
  cases r with
  | pmcEvselArray | pmcCtrArray | ctxSliceMap => exact absurd (by decide) hr
  | pmcEvselSector | pmcCtrSector | pmcOvfSector => rfl
  | _ => simp [State.tenantMay, hmask]

/-- A write that the tenant port may not make is recorded and does nothing else. -/
theorem State.portWrite_tenant_closed {s : State} {r : Reg} {idx v : Nat} (h : s.tenantMay r idx v = false) (named off : Nat) :
    s.portWrite .tenant r idx named v off = s.cfgError .tenant off := by
  simp [State.portWrite, h]

/-- A write that it may make is carried out as one of the steward port's is (`State.portWrite_steward`). -/
theorem State.portWrite_tenant_open {s : State} {r : Reg} {idx v : Nat} (h : s.tenantMay r idx v = true) (named off : Nat) :
    s.portWrite .tenant r idx named v off = s.putReg .tenant r idx named v off := by
  simp [State.portWrite, h]

/-- Settles O44: the masks of what the tenant port reads leave the steward fields out, and it may write no register with one. -/
theorem stewardFieldsAreClosedToTheTenant : Obligations.StewardFieldsAreClosedToTheTenant := by
  refine ⟨fun s _ _ _ hs hp => s.testBit_regSeen_tenant hs hp, fun s r idx named v off h => ?_,
    fun _ _ _ named _ off h => State.portWrite_tenant_open h named off⟩
  simp only [List.any_eq_true, Bool.and_eq_true, decide_eq_true_eq] at h
  obtain ⟨f, hf, hs, hw⟩ := h
  exact State.portWrite_tenant_closed (s.tenantMay_of_steward v hf hs hw) named off

end Sys2Proof.Machine
end

section
/-! SUPPORT. The steps that end the work of an array, a PRU or a fill queue: what a pulse leaves alone, what changes one array
alone, and what each step comes to once its condition holds (R19, R58, R73, R74, R99; O20). -/

namespace Sys2Proof.Machine

/-! ### Changes of one array -/

/-- A pulse adds to the counters' pulses and touches nothing else. -/
theorem State.pulse_eq (s : State) (e u v c : Nat) (m : Word) :
    s.pulse e u v c m = { s with pulses := (s.pulse e u v c m).pulses } := by
  unfold State.pulse
  split <;> rfl

@[simp] theorem State.arr_pulse (s : State) (e u v c : Nat) (m : Word) (b : Nat) : (s.pulse e u v c m).arr b = s.arr b := by
  simp [State.arr]

@[simp] theorem State.arr_pulseArr (s : State) (a e v b : Nat) : (s.pulseArr a e v).arr b = s.arr b := s.arr_pulse ..

theorem State.onlyArray_setArr (s : State) (a : Nat) (x : Arr) : s.onlyArray (s.setArr a x) a :=
  ⟨fun _ hb => s.arr_setArr_ne x hb.symm, rfl⟩

/-- A pulse after a change of one array is still within it. -/
theorem State.onlyArray.pulseArr {s t : State} {a : Nat} (h : s.onlyArray t a) (b e v : Nat) : s.onlyArray (t.pulseArr b e v) a := by
  obtain ⟨harr, hrest⟩ := h
  refine ⟨fun c hc => (t.arr_pulseArr ..).trans (harr c hc), ?_⟩
  rw [State.pulseArr, State.pulse_eq]
  exact hrest

/-- What changes one array of a state whose open values moved on changes, apart from them, only that array of the state before. -/
theorem State.onlyArray.of_free {s t : State} {a n : Nat} (h : ({ s with free := n } : State).onlyArray t a) :
    s.onlyArray { t with free := s.free } a := by
  obtain ⟨harr, hrest⟩ := h
  exact ⟨harr, congrArg (fun u : State => { u with free := s.free }) hrest⟩

/-! ### Loads (R58) -/

theorem execLdsComplete_of_find {s : State} {a buf : Nat} {l : Load} (ha : a < 96)
    (hl : (s.arr a).loads.find? (fun l => l.buf == buf) = some l) :
    execLdsComplete a buf s = .next (s.modArr a fun x =>
      { x with loads := x.loads.filter (· != l),
               bufs := tset x.bufs buf { orient := l.orient, cols := loadColumns x.store l, k := packing l.mode.fs l.mode.fm } }) := by
  simp only [execLdsComplete, if_neg (Nat.not_le.2 ha), hl]

/-! ### Passes (R59, R66, R90) -/

/-- A Gram pass waits for no buffer and no channel. -/
theorem Arr.passReady_of_gram (x : Arr) {p : Pass} (hg : p.gram = true) : x.passReady p = true := by
  simp [Arr.passReady, hg]

theorem execPassComplete_of_ready {s : State} {a : Nat} {p : Pass} {ps : List Pass} (ha : a < 96) (hp : (s.arr a).passes = p :: ps)
    (hr : (s.arr a).passReady p = true) : execPassComplete a s = .next (s.completePass a p) := by
  simp only [execPassComplete, if_neg (Nat.not_le.2 ha), hp, if_pos hr]

theorem State.completePass_of_gram {s : State} {a : Nat} {p : Pass} {ps : List Pass} (hp : (s.arr a).passes = p :: ps)
    (hg : p.gram = true) :
    s.completePass a p = (s.setArr a { s.arr a with
      passes := ps,
      gramAcc := runGram (s.arr a).store { seed := (s.arr a).seed, stream := p.stream, step := (s.arr a).step } p (s.arr a).gramAcc
      }).pulseArr a 6 p.nvec := by
  simp only [State.completePass, if_pos hg, hp, List.drop_one, List.tail_cons]

/-- What a flow pass leaves in its array. -/
theorem State.arr_completePass_of_flow {s : State} {a : Nat} {p : Pass} {b : Buffer} {o : PassOut} (hg : p.gram = false)
    (hb : b = (tget (s.arr a).bufs p.buf).getD (freeBuffer s.free p.mode))
    (ho : o = runPass (s.arr a).store (s.arr a).hist { seed := (s.arr a).seed, stream := p.stream, step := (s.arr a).step } p b) :
    (s.completePass a p).arr a = { s.arr a with
      passes := (s.arr a).passes.drop 1, gramAcc := [], store := o.store, hist := o.hist, sticky := (s.arr a).sticky ||| o.sticky,
      fxMark := (s.arr a).fxMark || o.sticky &&& stickyFxSat != 0,
      lastBits := if isBlock p.drain.fmt then o.bits else (s.arr a).lastBits } := by
  subst ho hb
  simp [State.completePass, hg]

/-- A flow pass changes its array alone, and draws on the open values. -/
theorem State.onlyArray_completePass_of_flow (s : State) (a : Nat) {p : Pass} (hg : p.gram = false) :
    s.onlyArray { s.completePass a p with free := s.free } a := by
  simp only [State.completePass, hg, Bool.false_eq_true, if_false]
  exact (((State.onlyArray_setArr _ a _).pulseArr ..).pulseArr ..).of_free

/-! ### Requests to a PRU (R19, R74) -/

theorem execPruRequest_of_next {s : State} {sector : Nat} {r : PruReq} (hs : sector < 6) (hr : s.pruNext sector = some r) :
    execPruRequest sector s = .next ((({ s with prus := tset s.prus sector ((tgetD s.prus sector []).erase r) } : State).modArr r.array
      fun x => { x with store := (runPru (s.arr r.array).store r).1, sticky := x.sticky ||| (runPru (s.arr r.array).store r).2,
                        fxMark := x.fxMark || (runPru (s.arr r.array).store r).2 &&& stickyFxSat != 0, pruOut := x.pruOut - 1,
                        sync := x.sync && decide (1 < x.pruOut) }).pulse 0x101 sector 1 0 0) := by
  simp only [execPruRequest, if_neg (Nat.not_le.2 hs), hr]

/-! ### Runs of a fill queue (R73, R99) -/

/-- The head of a queue of the context at work may start when no run is in progress. -/
theorem State.fillHead_of_idle {s : State} {a : Nat} {inb : Bool} {i : FillItem} {is : List FillItem}
    (hq : ((s.arr a).fillQ inb).entries = i :: is) (hi : ((s.arr a).fillQ inb).active = false) (hc : s.arrCtx a = i.ctx) :
    s.fillHead a inb = some i := by
  simp [State.fillHead, hq, hi, hc]

theorem execFillRun_of_free {s : State} {a : Nat} {inb : Bool} {i : FillItem} (ha : a < 96) (hh : s.fillHead a inb = some i)
    (hw : i.entry.waitEn = false) : execFillRun a inb s = .next (s.fillStart a inb i) := by
  simp [execFillRun, Nat.not_le.2 ha, hh, hw]

theorem execFillRun_of_wait {s : State} {a : Nat} {inb : Bool} {i : FillItem} (ha : a < 96) (hh : s.fillHead a inb = some i)
    (hw : i.entry.waitEn = true) (hn : (s.waiters.any fun w => w.array == a && w.fill == some inb) = false) :
    execFillRun a inb s =
      .next { s with waiters := s.waiters ++ [{ array := a, fill := some inb, tok := i.entry.waitTok, since := s.now }] } := by
  simp only [execFillRun, if_neg (Nat.not_le.2 ha), hh, hw, hn, Bool.not_true, Bool.false_eq_true, if_false]

/-- A run in progress none of whose transactions is at a weir or asks for a place may end. -/
theorem State.fillReady_of_placed {s : State} {a : Nat} {inb : Bool} {i : FillItem} {is : List FillItem}
    (hq : ((s.arr a).fillQ inb).entries = i :: is) (hi : ((s.arr a).fillQ inb).active = true)
    (hh : (s.held.any fun m => m.array == a && m.inbound == inb) = false)
    (hk : (s.asking.any fun m => m.array == a && m.inbound == inb) = false) : s.fillReady a inb = some i := by
  simp only [State.fillReady, hq, hi, hh, hk, Bool.not_true, Bool.or_false, Bool.false_eq_true, if_false]

/-- The state after a run's bytes are moved, its places given back and its queue stepped. -/
def State.fillEnded (s : State) (a : Nat) (inb : Bool) (i : FillItem) : State :=
  let q := (s.arr a).fillQ inb
  let k := (({ s with granted := tset s.granted (a / 16) a } : State).fillTraffic a inb i q.run).fillMove a i q.run
  ({ k with outstanding := k.outstanding.filter fun m => !(m.array == a && m.inbound == inb) } : State).modArr a
    fun x => x.setFillQ inb q.step

/-- The signal token of a run's entry is sent, where it has one. -/
def State.fillSignal (s : State) (a : Nat) (i : FillItem) : State :=
  if i.entry.sigEn then
    { s with signals := s.signals ++ [(i.ctx, { tok := i.entry.sigTok, n := 1, array := a, fill := true })] }
  else s

theorem execFillRunDone_of_granted {s : State} {a : Nat} {inb : Bool} {i : FillItem} (ha : a < 96) (hr : s.fillReady a inb = some i)
    (hg : s.crossbarPick (a / 16) = some a) :
    execFillRunDone a inb s =
      .next (((s.fillEnded a inb i).fillSignal a i).pulseArr a (if inb then 0xD else 0xE) (i.entry.rows * i.entry.rowBytes)) := by
  simp only [execFillRunDone, if_neg (Nat.not_le.2 ha), hr, hg, ne_eq, not_true_eq_false, if_false]
  rfl

/-- Settles O20: each step's condition selects one branch of it, and that branch is the effect stated. -/
theorem arrayAndFillWorkEnds : Obligations.ArrayAndFillWorkEnds := by
  refine ⟨fun s a buf l ha hl => execLdsComplete_of_find ha hl, fun s a p ps ha hp hg => ?gram,
    fun s a p ps b o ha hp hg hr hb ho => ?flow, fun s sector r hs hr => execPruRequest_of_next hs hr,
    fun s a inb i is ha hq hi hc => ?start, fun s k m a inb i is ha hq hi hh hk hg hK hM => ?done⟩
  case gram =>
    rw [← State.completePass_of_gram hp hg]
    exact execPassComplete_of_ready ha hp (Arr.passReady_of_gram _ hg)
  case flow =>
    have harr := State.arr_completePass_of_flow hg hb ho
    refine ⟨s.completePass a p, execPassComplete_of_ready ha hp hr, ?_, ?_, ?_, ?_, ?_, s.onlyArray_completePass_of_flow a hg⟩
      <;> simp [harr, hp]
  case start =>
    have hhead := State.fillHead_of_idle hq hi hc
    exact ⟨execFillRun_of_free ha hhead, execFillRun_of_wait ha hhead⟩
  case done =>
    subst hK hM
    exact execFillRunDone_of_granted ha (State.fillReady_of_placed hq hi hh hk) hg

end Sys2Proof.Machine
end

section
/-! SUPPORT. Issue: what a tile instruction comes to once it is its array's next one, and what issue leaves alone (R80, R82). -/

namespace Sys2Proof.Machine

variable {s : State} {a n : Nat} {t : Tile} {ready : State → Arr → Bool} {go : State → Arr → State}

theorem State.issues_iff : s.issues a t n = true ↔
    a < 96 ∧ (s.arr a).next = some (t, n) ∧ ((s.arr a).sync && decide (0 < (s.arr a).pruOut)) = false := by
  simp only [State.issues, Bool.and_eq_true, decide_eq_true_eq, beq_iff_eq, Bool.not_eq_true', and_assoc]

/-- An instruction that its engine accepts issues, and does what its row says. -/
theorem tileRow_of_ready (h : s.issues a t n = true) (hr : ready s (s.arr a) = true) :
    tileRow a t ready go s = .next (go (s.issued a n) (s.arr a)) := by
  obtain ⟨ha, hn, hs⟩ := State.issues_iff.1 h
  simp [tileRow, Nat.not_le.2 ha, hn, hs, hr]

/-- An instruction that its engine does not accept stalls. -/
theorem tileRow_of_not_ready (h : s.issues a t n = true) (hr : ready s (s.arr a) = false) :
    tileRow a t ready go s = .next (s.stalled a) := by
  obtain ⟨ha, hn, hs⟩ := State.issues_iff.1 h
  simp [tileRow, Nat.not_le.2 ha, hn, hs, hr]

/-- A row that checks its rows of the array store first (R82): where they lie in it the instruction takes effect, and where
they do not its context faults. -/
theorem next_of_check {x : Host.Outcome State Fault Refusal} {ok : Bool} {f e : State} (h : x = .next (if !ok then f else e)) :
    (ok = true → x = .next e) ∧ (ok = false → x = .next f) := by
  subst h
  cases ok with
  | true => exact ⟨fun _ => rfl, nofun⟩
  | false => exact ⟨nofun, fun _ => rfl⟩

/-! ### What issue leaves alone -/

/-- Issue touches an array and the counters' pulses. -/
theorem State.issued_eq (s : State) (a n : Nat) :
    s.issued a n = { s with arrays := (s.issued a n).arrays, pulses := (s.issued a n).pulses } := by
  rw [State.issued, State.pulseArr, State.pulse_eq]
  rfl

@[simp] theorem State.arrCtx_issued (s : State) (a n b : Nat) : (s.issued a n).arrCtx b = s.arrCtx b := by
  rw [State.issued_eq]
  rfl

@[simp] theorem State.ctxD_issued (s : State) (a n c : Nat) : (s.issued a n).ctxD c = s.ctxD c := by
  rw [State.issued_eq]
  rfl

@[simp] theorem State.isSealed_issued (s : State) (a n c step : Nat) : (s.issued a n).isSealed c step = s.isSealed c step := by
  rw [State.issued_eq]
  rfl

@[simp] theorem State.histPlace_issued (s : State) (a n c slot stage step : Nat) :
    (s.issued a n).histPlace c slot stage step = s.histPlace c slot stage step := by
  rw [State.issued_eq]
  rfl

@[simp] theorem State.histRead_issued (s : State) (a n c reg off : Nat) : (s.issued a n).histRead c reg off = s.histRead c reg off := by
  rw [State.issued_eq]
  rfl

@[simp] theorem State.loads_arr_issued (s : State) (a n : Nat) : ((s.issued a n).arr a).loads = (s.arr a).loads := by
  simp [State.issued]

@[simp] theorem State.slot_arr_issued (s : State) (a n : Nat) : ((s.issued a n).arr a).slot = (s.arr a).slot := by
  simp [State.issued]

@[simp] theorem State.stage_arr_issued (s : State) (a n : Nat) : ((s.issued a n).arr a).stage = (s.arr a).stage := by
  simp [State.issued]

@[simp] theorem State.step_arr_issued (s : State) (a n : Nat) : ((s.issued a n).arr a).step = (s.arr a).step := by
  simp [State.issued]

end Sys2Proof.Machine
end

section
/-! SUPPORT. Drains, loads and passes as their instructions set and start them (R58, R86–R92; O15). -/

namespace Sys2Proof.Machine

/-- The status latch takes no part in what rows a pass moves. -/
theorem Arr.passOk_latched (x : Arr) (p : Pass) (c : Bool) (l : List Bool) :
    x.passOk (if c then { p with latch := l } else p) = x.passOk p := by
  cases c <;> rfl

/-- Without a drain a STRM has no pass to queue, and issues to fault. -/
theorem execStrm_of_no_drain {s : State} {a n areg buf nvec take : Nat} {offer : Bool}
    (h : s.issues a (.strm areg buf nvec offer take) n = true) (hd : (s.arr a).drn = none) :
    execStrm a areg buf nvec offer take s = .next ((s.issued a n).arrFault a (s.arr a).pc) := by
  rw [execStrm, tileRow_of_ready h (by simp only [hd])]
  simp only [hd]

/-- With a drain a STRM that finds a place queues its pass, with the status latch where the pass drains blocks. -/
theorem execStrm_of_drain {s : State} {a n areg buf nvec take : Nat} {offer : Bool} {d : Drain} {p : Pass}
    (h : s.issues a (.strm areg buf nvec offer take) n = true) (hd : (s.arr a).drn = some d)
    (hp : p = (s.arr a).mkPass d areg buf nvec offer take (s.arr a).pc) (hq : (s.arr a).passes.length < 4)
    (hb : (s.otherPending a).blocks ((s.arr a).passTouch p) = false) :
    execStrm a areg buf nvec offer take s =
      .next (if !(s.arr a).passOk p then (s.issued a n).arrFault a (s.arr a).pc
        else (s.issued a n).modArr a fun y =>
          let y := y.advanceAll nvec ((if take = 0 then [areg] else []) ++ (s.arr a).macc.areg ++ [d.areg])
          let y := if d.stoch then y.setPreg d.preg ((s.arr a).preg d.preg).advance else y
          { y with passes := y.passes ++ [if isBlock d.fmt then { p with latch := (s.arr a).latchFor p } else p],
                   latch := if isBlock d.fmt then [] else y.latch }) := by
  subst hp
  rw [execStrm, tileRow_of_ready h (by simp only [hd, hq, hb, decide_true, Bool.not_false, Bool.and_self])]
  simp only [hd, Arr.passOk_latched]

/-- Settles O15: each instruction's engine accepts it under the conditions stated, and of its row there is left the check that
the rows lie in the array store. -/
theorem passesLoadAndDrain : Obligations.PassesLoadAndDrain := by
  refine ⟨fun s a n areg fmt preg sh stoch carried h => ?drn,
    fun s a n areg fmt preg sh stoch carried o h hp hb ho => ?drnNow,
    fun s a n areg buf nrows nelem orient l h hl hload hpass hb => ?lds,
    fun s a n areg buf nvec take offer d p h hd hp hq hb => next_of_check (execStrm_of_drain h hd hp hq hb),
    fun s a n areg buf nvec take offer h hd => execStrm_of_no_drain h hd,
    fun s a n ra rb nstep fdiv preg same masken p h hp hq hb => ?gram⟩
  case drn =>
    dsimp only [exec]
    exact tileRow_of_ready h rfl
  case drnNow =>
    subst ho
    dsimp only [exec]
    refine next_of_check (tileRow_of_ready h ?_)
    simp only [idlePasses, hp, hb, List.isEmpty_nil, Bool.not_false, Bool.and_self]
  case lds =>
    subst hl
    dsimp only [exec]
    rw [← State.loads_arr_issued s a n]
    refine next_of_check (tileRow_of_ready h ?_)
    simp only [hload, hpass, hb, Bool.not_false, Bool.and_self]
  case gram =>
    subst hp
    dsimp only [exec]
    rw [execGram, tileRow_of_ready h (by simp only [hq, hb, decide_true, Bool.not_false, Bool.and_self])]
    refine ⟨fun hsrc hsrc2 => congrArg _ (if_neg ?_), fun hoff => congrArg _ (if_pos (by simpa using hoff))⟩
    rcases hsrc2 with hsame | hsrc2
    · subst hsame
      simp [hsrc]
    · simp [hsrc, hsrc2]

end Sys2Proof.Machine
end

section
/-! SUPPORT. The tile channel's waiting place, the local histogram and the check bits as TWIN, HIST and BCHK use them
(R67, R93, R94, R226; O16). -/

namespace Sys2Proof.Machine

/-- A standalone offer or take that finds its direction's place free and its rows free of pending accesses. -/
theorem twinRow_of_ready {s : State} {offer : Bool} {a n areg nrows nelem fmt : Nat} {t : Tile} {w : Twin}
    (h : s.issues a t n = true) (hw : w = (s.arr a).mkTwin offer areg nrows nelem fmt)
    (hv : ((s.arr a).twins.any fun v => v.offer == offer) = false) (hb : (s.allPending a).blocks w.touch = false) :
    (w.reg.rowsOk nrows (rowBytes fmt nelem) = true →
      twinRow offer a areg nrows nelem fmt t s = .next ((s.issued a n).modArr a fun y =>
        { y.setAreg areg (w.reg.advance nrows) with twins := y.twins ++ [w] })) ∧
    (w.reg.rowsOk nrows (rowBytes fmt nelem) = false →
      twinRow offer a areg nrows nelem fmt t s = .next ((s.issued a n).arrFault a (s.arr a).pc)) := by
  subst hw
  refine next_of_check (tileRow_of_ready h ?_)
  simp only [hv, hb, Bool.not_false, Bool.and_self]

/-! ### The stage histogram (R94, R226) -/

section
variable {s : State} {a c slot stage step reg off : Nat}

/-- A TRAIN context has no bank of its own to write. -/
theorem State.histOwn_of_train (hk : (s.ctxD (s.arrCtx a)).kind = .train) (l : List Nat) : s.histOwn a l = s := by
  simp only [State.histOwn, hk, if_true]

theorem State.histOwn_of_no_place (hp : s.histPlace (s.arrCtx a) (s.arr a).slot (s.arr a).stage (s.arr a).step = none)
    (l : List Nat) : s.histOwn a l = s := by
  simp only [State.histOwn, hp, ite_self]

theorem State.histOwn_of_place (hk : (s.ctxD (s.arrCtx a)).kind ≠ .train)
    (hp : s.histPlace (s.arrCtx a) (s.arr a).slot (s.arr a).stage (s.arr a).step = some (reg, off)) (l : List Nat) :
    s.histOwn a l = s.histPut (s.arrCtx a) reg off l := by
  simp only [State.histOwn, if_neg hk, hp]

theorem State.histMerge_of_discarded (h : (s.ctxD c).kind ≠ .train ∨ s.isSealed c step = true) (l : List Nat) :
    s.histMerge c slot stage step l = s := by
  simp only [State.histMerge, if_pos h]

theorem State.histMerge_of_place (hk : (s.ctxD c).kind = .train) (hs : s.isSealed c step = false)
    (hp : s.histPlace c slot stage step = some (reg, off)) (l : List Nat) :
    s.histMerge c slot stage step l = s.histPut c reg off (histMergeLists (s.histRead c reg off) l) := by
  simp [State.histMerge, hk, hs, hp]

end

/-- Settles O16: each instruction's engine accepts it under the conditions stated, and what issue itself changes takes no part
in where a histogram lies. -/
theorem twinHistogramAndCheckInstructions : Obligations.TwinHistogramAndCheckInstructions := by
  refine ⟨fun s a n areg nrows nelem fmt w h hw hv hb => twinRow_of_ready h hw hv hb,
    fun s a n areg nrows nelem fmt w h hw hv hb => twinRow_of_ready h hw hv hb,
    fun s k a n areg clr r h hp hr hb hk => ?histWrite,
    fun s a n stg clr h hp => ⟨fun hw => ?wait, fun hw => ⟨fun hd => ?discard, fun reg off hkind hs hplace => ?merge⟩⟩,
    fun s k a n areg bitoff bstride r h hr hp hb hk => ?bchkWrite,
    fun s a n areg bitoff bstride r h hr hp hb => ?bchkLoad⟩
  case histWrite =>
    have hown : (s.issued a n).histOwn a (s.arr a).hist = k := by
      rw [hk]
      split
      next hkind => exact State.histOwn_of_train (by simpa using hkind) _
      next hplace _ => exact State.histOwn_of_no_place (by simpa using hplace) _
      next hplace hkind =>
        rw [State.histOwn_of_place (by simpa using hkind) (by simpa using hplace), State.arrCtx_issued]
    subst hr
    rw [← hown]
    dsimp only [exec]
    refine next_of_check (tileRow_of_ready h ?_)
    simp only [idlePasses, hp, hb, List.isEmpty_nil, Bool.not_false, Bool.and_self]
  case wait =>
    dsimp only [exec]
    refine tileRow_of_not_ready h ?_
    simp only [hw, Bool.not_true, Bool.and_false]
  case discard =>
    dsimp only [exec]
    rw [execHistMerge, tileRow_of_ready h (by simp only [idlePasses, hp, hw, List.isEmpty_nil, Bool.not_false, Bool.and_self])]
    rw [State.histMerge_of_discarded (by simpa using hd)]
  case merge =>
    dsimp only [exec]
    rw [execHistMerge, tileRow_of_ready h (by simp only [idlePasses, hp, hw, List.isEmpty_nil, Bool.not_false, Bool.and_self])]
    rw [State.histMerge_of_place (by simpa using hkind) (by simpa using hs) (by simpa using hplace), State.arrCtx_issued,
      State.histRead_issued]
  case bchkWrite =>
    subst hr hk
    dsimp only [exec]
    refine next_of_check (tileRow_of_ready h ?_)
    simp only [blocksDrained, hp, hb, Bool.not_false, Bool.and_self]
  case bchkLoad =>
    subst hr
    dsimp only [exec]
    refine next_of_check (tileRow_of_ready h ?_)
    simp only [blocksDrained, hp, hb, Bool.not_false, Bool.and_self]

end Sys2Proof.Machine
end

section
/-! SUPPORT. The tile channel and the token signals: what each step of theirs comes to once its condition holds
(R66–R68, R98, R100; O19). -/

namespace Sys2Proof.Machine

section
variable {s : State} {p a c : Nat}

theorem execTwinRendezvous_of_even {f t : ChanOp} (hp : p < 48) (hf : (s.arr (2 * p)).offering = some f)
    (ht : (s.arr (2 * p + 1)).taking = some t) : execTwinRendezvous p s = .next (s.meet (2 * p) (2 * p + 1) f t) := by
  simp only [execTwinRendezvous, if_neg (Nat.not_le.2 hp), hf, ht]

/-- The odd array's offer is served where the even one's has no take to meet. -/
theorem execTwinRendezvous_of_odd {f t : ChanOp} (hp : p < 48)
    (hn : (s.arr (2 * p)).offering = none ∨ (s.arr (2 * p + 1)).taking = none) (hf : (s.arr (2 * p + 1)).offering = some f)
    (ht : (s.arr (2 * p)).taking = some t) : execTwinRendezvous p s = .next (s.meet (2 * p + 1) (2 * p) f t) := by
  rcases hn with hn | hn
  · simp only [execTwinRendezvous, if_neg (Nat.not_le.2 hp), hn, hf, ht]
  · cases ho : (s.arr (2 * p)).offering with
    | none => simp only [execTwinRendezvous, if_neg (Nat.not_le.2 hp), ho, hf, ht]
    | some o => simp only [execTwinRendezvous, if_neg (Nat.not_le.2 hp), ho, hn, hf, ht]

theorem execTwinTimeout_of_waited {o : ChanOp} (ha : a < 96) (ho : older (s.arr a).taking (s.arr a).offering = some o)
    (hw : waitLimit ≤ tgetD (s.arr a).waited o.waitKey 0) : execTwinTimeout a s = .next (s.arrFault a o.addr) := by
  simp only [execTwinTimeout, if_neg (Nat.not_le.2 ha), ho, if_pos hw]

/-- A TOKW's own address is the one before the array's next instruction. -/
theorem execTokwTimeout_of_waited {tok n : Nat} {keep : Bool} (ha : a < 96) (ht : (s.arr a).wait = some (.token tok n keep))
    (hw : waitLimit ≤ tgetD (s.arr a).waited (2 * (s.arr a).ord) 0) :
    execTokwTimeout a s = .next (s.arrFault a ((s.arr a).pc - 1)) := by
  simp only [execTokwTimeout, if_neg (Nat.not_le.2 ha), ht, if_pos hw]

theorem State.addToken_of_fits {tok n : Nat} (h : s.token c tok + n ≤ 65535) (unit addr : Nat) :
    s.addToken c tok n unit addr = s.setToken c tok (s.token c tok + n) :=
  if_neg (Nat.not_lt.2 h)

theorem State.addToken_of_overflow {tok n : Nat} (h : 65535 < s.token c tok + n) (unit addr : Nat) :
    s.addToken c tok n unit addr = s.ctxFault c unit addr :=
  if_pos h

theorem execTokenIncrement_of_ready {k : State} {g : TokSignal} (hc : c < 256) (hg : s.readySignal c = some g)
    (hk : k = { s with signals := s.signals.erase (c, g) }) :
    execTokenIncrement c s = .next (k.addToken c g.tok g.n g.array (s.arr g.array).pc) := by
  subst hk
  simp only [execTokenIncrement, if_neg (Nat.not_le.2 hc), hg]

/-- Taking a signal leaves the tokens as they are. -/
theorem State.token_withSignals (s : State) (l : List (Nat × TokSignal)) (c tok : Nat) :
    ({ s with signals := l } : State).token c tok = s.token c tok := rfl

end

/-- Settles O19: each step's condition selects one branch of it; a signal's sum decides between the token and the fault. -/
theorem channelsAndTokens : Obligations.ChannelsAndTokens := by
  refine ⟨fun s p f t hp hf ht => execTwinRendezvous_of_even hp hf ht,
    fun s p f t hp hn hf ht => execTwinRendezvous_of_odd hp hn hf ht,
    fun s a o ha ho hw => execTwinTimeout_of_waited ha ho hw,
    fun s a tok n keep ha ht hw => execTokwTimeout_of_waited ha ht hw,
    fun s k c g hc hg hk hsum => ?fits, fun s k c g hc hg hk hsum => ?overflow⟩
  case fits =>
    have htok : k.token c g.tok = s.token c g.tok := by rw [hk, State.token_withSignals]
    rw [← htok] at hsum ⊢
    exact (execTokenIncrement_of_ready hc hg hk).trans (congrArg _ (State.addToken_of_fits hsum _ _))
  case overflow =>
    have htok : k.token c g.tok = s.token c g.tok := by rw [hk, State.token_withSignals]
    rw [← htok] at hsum
    exact (execTokenIncrement_of_ready hc hg hk).trans (congrArg _ (State.addToken_of_overflow hsum _ _))

end Sys2Proof.Machine
end

section
/-! SUPPORT. The words of tile instructions: which field of a sum of shifted fields a reader finds, signed fields, and the
reading back of every instruction whose fields lie in their ranges (R84–R86; O58). -/

namespace Sys2Proof.Machine

/-! ### Fields of a word, the highest first -/

theorem toNat_word {v : Nat} (h : v < 2 ^ 32) : (word v).toNat = v := Nat.mod_eq_of_lt h

/-- The field at the top of what is left of a word. -/
theorem bitsOf_top {x low lo n : Nat} (hl : low < 2 ^ lo) (hx : x < 2 ^ n) : bitsOf (x <<< lo + low) lo n = x := by
  rw [bitsOf, Nat.shiftLeft_eq, Nat.add_comm, Nat.add_mul_div_right _ _ (Nat.two_pow_pos lo), Nat.div_eq_of_lt hl, Nat.zero_add,
    Nat.mod_eq_of_lt hx]

/-- A field takes no part in the bits below it. -/
theorem bitsOf_below (x low : Nat) {p lo n : Nat} (h : lo + n ≤ p) : bitsOf (x <<< p + low) lo n = bitsOf low lo n := by
  obtain ⟨q, rfl⟩ := Nat.exists_eq_add_of_le h
  have hsplit : x <<< (lo + n + q) = 2 ^ lo * (2 ^ n * (x * 2 ^ q)) := by
    rw [Nat.shiftLeft_eq, Nat.pow_add, Nat.pow_add]
    ring
  rw [bitsOf, bitsOf, hsplit, Nat.mul_add_div (Nat.two_pow_pos lo), Nat.mul_add_mod]

/-- Above all fields the bits are zero. -/
theorem bitsOf_above {v lo : Nat} (h : v < 2 ^ lo) (n : Nat) : bitsOf v lo n = 0 := by
  rw [bitsOf, Nat.div_eq_of_lt h, Nat.zero_mod]

theorem bitsOf_zero {v n : Nat} (h : v < 2 ^ n) : bitsOf v 0 n = v := by
  rw [bitsOf, Nat.pow_zero, Nat.div_one, Nat.mod_eq_of_lt h]

theorem bitsOf_shift_top {x lo n : Nat} (hx : x < 2 ^ n) : bitsOf (x <<< lo) lo n = x :=
  bitsOf_top (Nat.two_pow_pos lo) hx

theorem bitsOf_shift_below (x : Nat) {p lo n : Nat} (h : lo + n ≤ p) : bitsOf (x <<< p) lo n = 0 :=
  (bitsOf_below x 0 h).trans (bitsOf_above (Nat.two_pow_pos lo) n)

/-- The opcode is the field above all others. -/
theorem opcode_of_fields {op low : Nat} (h : low < 2 ^ 26) : (op <<< 26 + low) / 0x4000000 = op := by
  rw [Nat.shiftLeft_eq]
  omega

theorem opcode_alone (op : Nat) : op <<< 26 / 0x4000000 = op := by
  rw [Nat.shiftLeft_eq]
  omega

theorem boolBit_le_one (b : Bool) : boolBit b ≤ 1 := by cases b <;> decide

theorem boolBit_beq_one (b : Bool) : (boolBit b == 1) = b := by cases b <;> rfl

/-! ### Signed fields -/

theorem signField_lt (n : Nat) (v : Int) : signField n v < 2 ^ n := by
  have hpos : (0 : Int) < 2 ^ n := by positivity
  have hlt := Int.emod_lt_of_pos v hpos
  have hcast : ((2 ^ n : Nat) : Int) = 2 ^ n := by push_cast; rfl
  rw [signField]
  omega

/-- A signed field reads as its value where that lies in the field's range. -/
theorem signedOf_signField {n : Nat} {v : Int} (hlo : -2 ^ n ≤ v) (hhi : v < 2 ^ n) : signedOf (n + 1) (signField (n + 1) v) = v := by
  have hcast : ((2 ^ n : Nat) : Int) = 2 ^ n := by push_cast; rfl
  have hwide : (2 : Int) ^ (n + 1) = 2 * 2 ^ n := by ring
  rw [signedOf, signField, Nat.add_sub_cancel, hwide]
  rcases lt_or_ge v 0 with hv | hv
  · have hmod : v % (2 * 2 ^ n) = v + 2 * 2 ^ n := by rw [← Int.add_emod_right, Int.emod_eq_of_lt (by omega) (by omega)]
    rw [hmod, if_neg (by omega)]
    omega
  · have hmod : v % (2 * 2 ^ n) = v := Int.emod_eq_of_lt hv (by omega)
    rw [hmod, if_pos (by omega)]
    omega

/-! ### Reading an instruction back -/

/-- The one-bit flags of an instruction. -/
def tileFlags : Tile → List Bool
  | .cfgMode _ _ strict _ _ sgnS sgnM => [strict, sgnS, sgnM]
  | .lds _ _ orient _ _ => [orient]
  | .strm _ _ _ offer _ => [offer]
  | .drn _ _ stoch carried _ _ => [stoch, carried]
  | .drnNow _ _ stoch carried _ _ => [stoch, carried]
  | .gram _ _ same _ masken _ _ => [same, masken]
  | .histWrite _ clr => [clr]
  | .histMerge _ clr => [clr]
  | .pru _ _ _ _ _ sync => [sync]
  | .tokw _ _ keep => [keep]
  | .mark trc _ => [trc]
  | .haltEnd waitt _ => [waitt]
  | .haltNext _ waitt _ => [waitt]
  | .haltNextYield _ waitt _ => [waitt]
  | _ => []

theorem readTile_cfgAddr {areg origin wrap : Nat} {stride : Int} (rest : List Word)
    (h : tileOk (.cfgAddr areg origin stride wrap) = true) :
    readTile (encodeTile (.cfgAddr areg origin stride wrap) ++ rest) = some (.cfgAddr areg origin stride wrap, 2, true) := by
  simp only [tileOk, Bool.and_eq_true, decide_eq_true_eq] at h
  obtain ⟨⟨⟨⟨hareg, horigin⟩, hlo⟩, hhi⟩, hwrap⟩ := h
  have hfield := signField_lt 16 stride
  have hstride : signedOf 16 (signField 16 stride) = stride := signedOf_signField hlo hhi
  simp (disch := omega) only [encodeTile, readTile, List.cons_append, List.getD_cons_zero, List.getD_cons_succ, Nat.add_assoc,
    toNat_word, opcode_of_fields]
  simp (disch := omega) [-Nat.reduceShiftLeft, Nat.add_comm (signField 16 stride), bitsOf_top, bitsOf_below, bitsOf_above,
    bitsOf_zero, hstride]

theorem readTile_cfgPos {preg base rowlen : Nat} {adv : Int} (rest : List Word)
    (h : tileOk (.cfgPos preg base rowlen adv) = true) :
    readTile (encodeTile (.cfgPos preg base rowlen adv) ++ rest) = some (.cfgPos preg base rowlen adv, 5, true) := by
  simp only [tileOk, Bool.and_eq_true, decide_eq_true_eq] at h
  obtain ⟨⟨⟨⟨hpreg, hbase⟩, hrow⟩, hlo⟩, hhi⟩ := h
  have hfield := signField_lt 32 adv
  have hadv : signedOf 32 (signField 32 adv) = adv := signedOf_signField hlo hhi
  have hlow : (word base).toNat = base % 0x100000000 := rfl
  have hsplit : base % 0x100000000 + 0x100000000 * (base / 0x100000000) = base := Nat.mod_add_div ..
  simp (disch := omega) only [encodeTile, readTile, List.cons_append, List.getD_cons_zero, List.getD_cons_succ, Nat.add_assoc,
    hlow, toNat_word, opcode_of_fields]
  simp (disch := omega) [-Nat.reduceShiftLeft, bitsOf_top, bitsOf_below, bitsOf_above, bitsOf_shift_top, bitsOf_shift_below,
    bitsOf_zero, hadv, hsplit]

theorem readTile_loop {lctr count target : Nat} (rest : List Word) (h : tileOk (.loop lctr count target) = true) :
    readTile (encodeTile (.loop lctr count target) ++ rest) = some (.loop lctr count target, 1, true) := by
  simp only [tileOk, Bool.and_eq_true, decide_eq_true_eq] at h
  obtain ⟨⟨⟨hlctr, hpos⟩, hcount⟩, htarget⟩ := h
  have hread : (if count % 4096 = 0 then 4096 else count % 4096) = count := by split <;> omega
  simp (disch := omega) only [encodeTile, readTile, List.cons_append, List.getD_cons_zero, Nat.add_assoc, toNat_word,
    opcode_of_fields]
  simp (disch := omega) [-Nat.reduceShiftLeft, bitsOf_top, bitsOf_below, bitsOf_zero, hread]

/-- The reader takes from the words of an instruction the fields they were made of. -/
theorem readTile_encodeTile (t : Tile) (rest : List Word) (h : tileOk t = true) :
    readTile (encodeTile t ++ rest) = some (t, (encodeTile t).length, true) := by
  have hflags : ∀ b ∈ tileFlags t, boolBit b ≤ 1 := fun b _ => boolBit_le_one b
  cases t
  case cfgAddr => exact readTile_cfgAddr rest h
  case cfgPos => exact readTile_cfgPos rest h
  case loop => exact readTile_loop rest h
  case' pru op _ _ _ _ _ => cases op
  all_goals
    simp only [tileOk, fmtOk, Bool.and_eq_true, decide_eq_true_eq] at h
    simp only [tileFlags, List.forall_mem_cons] at hflags
    simp (disch := omega) only [encodeTile, readTile, List.cons_append, List.getD_cons_zero, List.getD_cons_succ, Nat.add_assoc,
      toNat_word, opcode_of_fields, opcode_alone]
    simp (disch := omega) [-Nat.reduceShiftLeft, bitsOf_top, bitsOf_below, bitsOf_above, bitsOf_shift_top, bitsOf_shift_below,
      bitsOf_zero, bitAt, boolBit_beq_one, Nat.sub_add_cancel]
  -- the reader rejects the reserved values of RMODE, which 0 and 1 are not
  case drn | drnNow => omega

/-- Settles O58: what the reader takes from an instruction's words is the instruction, with no reserved bit set, and the words are
all there. -/
theorem tileWordsDecodeToTheirInstruction : Obligations.TileWordsDecodeToTheirInstruction := by
  intro t rest h
  simp [decodeTile, readTile_encodeTile t rest h, h]

end Sys2Proof.Machine
end

section
/-! SUPPORT. Position registers (R83; O55). -/

namespace Sys2Proof.Machine

theorem PosReg.advance_base_lt (p : PosReg) : p.advance.base < 2 ^ 48 := by
  have hlt := Int.emod_lt_of_pos (p.base + p.adv) (b := 0x1000000000000) (by decide)
  simp only [PosReg.advance]
  omega

/-- BASE after the operation is BASE + ADV, taken modulo 2⁴⁸. -/
theorem PosReg.advance_base (p : PosReg) : (p.advance.base : Int) = (p.base + p.adv) % 2 ^ 48 :=
  Int.toNat_of_nonneg (Int.emod_nonneg _ (by decide))

/-- Settles O55: BASE is kept reduced modulo 2⁴⁸, so reducing it once more leaves it. -/
theorem positionRegistersCount : Obligations.PositionRegistersCount := by
  intro p v e _
  refine ⟨rfl, p.advance_base_lt, ?_, rfl, rfl⟩
  rw [p.advance_base, Int.emod_emod]

end Sys2Proof.Machine
end

section
/-! SUPPORT. What issue leaves in its array, and what CFG, MACC, PRU and the control instructions come to (R80–R85, R89, R95–R98,
R101; O13, O14, O17). -/

namespace Sys2Proof.Machine

/-! ### Issue -/

theorem ite_append_self {α : Type} (p : Prop) [Decidable p] (l m : List α) :
    (if p then l ++ m else l) = l ++ if p then m else [] := by
  split
  · rfl
  · rw [List.append_nil]

/-- The array after issue: only the count of issues and the waiting samples depend on the sampler. -/
theorem State.exists_arr_issued (s : State) (a n : Nat) : ∃ k sm, (s.issued a n).arr a =
    { s.arr a with pc := ((s.arr a).pc + n) % 4096, ord := (s.arr a).ord + 1, issued := k, idle := false, stallFrom := none,
                   sampled := (s.arr a).sampled ++ sm } := by
  simp only [State.issued, State.arr_pulseArr, State.arr_setArr, ite_append_self]
  exact ⟨_, _, rfl⟩

theorem State.onlyArray_issued (s : State) (a n : Nat) : s.onlyArray (s.issued a n) a :=
  (s.onlyArray_setArr a _).pulseArr ..

/-- Settles O13: issue sets one array and adds a pulse. -/
theorem issueAdvancesTheArray : Obligations.IssueAdvancesTheArray :=
  fun s a n => ⟨s.exists_arr_issued a n, s.onlyArray_issued a n⟩

/-! ### CFG and MACC -/

/-- Issue has set its array, so setting that again to what it is changes nothing. -/
theorem State.modArr_issued_id (s : State) (a n : Nat) : ((s.issued a n).modArr a fun y => y) = s.issued a n := by
  have hset : (s.issued a n).arrays = tset s.arrays a ((s.issued a n).arr a) := by
    simp only [State.issued, State.arr_pulseArr, State.arr_setArr]
    exact State.pulse_arrays ..
  rw [State.modArr, State.setArr, hset, tset_tset, ← hset]

/-- In the flow configurations MACC is a setting. -/
theorem maccReady_of_flow {s : State} {x : Arr} (hg : isGramMode x.cfg = false) : maccReady s x = true := by
  simp only [maccReady, hg, Bool.not_false, Bool.true_or]

theorem maccReady_of_no_pass {s : State} {x : Arr} (hp : x.passes = []) : maccReady s x = true := by
  simp only [maccReady, idlePasses, hp, List.isEmpty_nil, Bool.or_true]

/-- Settles O14: a CFG is always accepted; MACC is by its configuration, in the Gram one with no pass ahead. -/
theorem configurationInstructionsSet : Obligations.ConfigurationInstructionsSet := by
  refine ⟨fun s a n fs fm rnd acc strict sgnS sgnM h => ?mode, fun s a n areg origin wrap stride h => ?addr,
    fun s a n preg base rowlen adv h => ?pos, fun s a n qa qb qpIn qpOut h => ?fxq, fun s a n stream h => ?stream,
    fun s a n h hg => ?zeroFlow, fun s a n h hg hp => ?zeroGram, fun s a n areg h hg => ?storeFlow,
    fun s a n areg h hg hp hb hr => ?storeGram, fun s a n h hg => ?keepFlow, fun s a n h hg hp => ?keepGram⟩
  all_goals dsimp only [exec]
  case mode | addr | pos | fxq | stream => exact tileRow_of_ready h rfl
  case zeroFlow =>
    rw [execMaccZero, tileRow_of_ready h (maccReady_of_flow hg)]
    simp only [hg, Bool.false_eq_true, if_false]
  case zeroGram =>
    rw [execMaccZero, tileRow_of_ready h (maccReady_of_no_pass hp)]
    simp only [hg, if_true]
  case storeFlow =>
    rw [execMaccStore, tileRow_of_ready h (by simp only [maccReady_of_flow hg, hg, Bool.false_and, Bool.not_false, Bool.and_self])]
    simp only [hg, Bool.false_eq_true, if_false]
  case storeGram =>
    rw [execMaccStore, tileRow_of_ready h (by simp only [maccReady_of_no_pass hp, hb, Bool.and_false, Bool.not_false, Bool.and_self])]
    simp only [hg, hr, if_true, Bool.not_true, Bool.false_eq_true, if_false]
  case keepFlow =>
    rw [execMaccKeep, tileRow_of_ready h (maccReady_of_flow hg)]
    simp only [hg, Bool.false_eq_true, if_false]
  case keepGram =>
    rw [execMaccKeep, tileRow_of_ready h (maccReady_of_no_pass hp)]
    simp only [hg, if_true, State.modArr_issued_id]

/-! ### PRU, LOOP, tokens, markers, draws and samples -/

@[simp] theorem State.prus_issued (s : State) (a n : Nat) : (s.issued a n).prus = s.prus := by rw [State.issued_eq]

@[simp] theorem State.signals_issued (s : State) (a n : Nat) : (s.issued a n).signals = s.signals := by rw [State.issued_eq]

@[simp] theorem State.now_issued (s : State) (a n : Nat) : (s.issued a n).now = s.now := by rw [State.issued_eq]

@[simp] theorem State.sampling_issued (s : State) (a n b : Nat) : (s.issued a n).sampling b = s.sampling b := by
  rw [State.issued_eq]
  rfl

/-- A PRU instruction with a place for its request and no pending access in its way checks its rows, then queues the request. -/
theorem pruRow_of_ready {s : State} {op : PruOp} {a n fmt src dst m : Nat} {sync : Bool} {r : PruReq}
    (h : s.issues a (.pru op fmt src dst m sync) n = true) (hr : r = (s.arr a).mkPru a (s.arrCtx a) op fmt src dst m)
    (hout : (s.arr a).pruOut < 4) (hb : (s.allPending a).blocks r.touch = false) :
    pruRow op a fmt src dst m sync s = .next (
      if !r.src.rowsOk 1 (pruBytes fmt * pruIn op * m) || !r.dst.rowsOk 1 (pruBytes fmt * pruOutN op * m) then
        (s.issued a n).arrFault a (s.arr a).pc
      else ({ s.issued a n with prus := tset s.prus (a / 16) (tgetD s.prus (a / 16) [] ++ [r]) } : State).modArr a fun y =>
        { y.advanceAll 1 [src, dst] with pruOut := y.pruOut + 1, sync := sync }) := by
  subst hr
  rw [pruRow, tileRow_of_ready h (by simp only [hout, hb, decide_true, Bool.not_false, Bool.and_self])]
  simp only [State.arrCtx_issued, State.prus_issued]

/-- Settles O17: each instruction's engine accepts it under the conditions stated, and what issue itself changes takes no part in
what its row reads. -/
theorem pruAndControlInstructions : Obligations.PruAndControlInstructions := by
  refine ⟨fun s k t a n fmt src dst m sync op r h hr hout hb hk ht => ?pru, fun s a n lctr count target h => ?loop,
    fun s a n tok k h => ?toks, fun s k a n tok m keep h hk => ?tokw, fun s a n trc id h => ?mark,
    fun s a n areg preg nrow nelem h hb => ?rng, fun s a n tag x h hx => ⟨fun hs => ?idle, fun hs => ?armed⟩⟩
  case pru =>
    have hrow : pruRow op a fmt src dst m sync s = .next t := by
      rw [pruRow_of_ready h hr hout hb, ← hk]
      rcases ht with ⟨hsrc, hdst, rfl⟩ | ⟨hoff, rfl⟩
      · simp only [hsrc, hdst, Bool.not_true, Bool.or_self, Bool.false_eq_true, if_false]
      · exact congrArg _ (if_pos (by simpa using hoff))
    refine ⟨?_, ?_, ?_, ?_⟩
    all_goals
      rintro rfl
      exact hrow
  all_goals dsimp only [exec]
  case loop =>
    rw [execLoop, tileRow_of_ready h rfl]
    cases hv : tget (s.arr a).loops lctr <;> rfl
  case toks =>
    rw [execToks, tileRow_of_ready h rfl]
    simp only [State.signals_issued, State.arrCtx_issued]
  case tokw =>
    subst hk
    rw [execTokw, tileRow_of_ready h rfl]
    simp only [State.waitOn, ArrWait.need, State.modArr_waiters, State.modArr_now, State.now_issued]
  case mark =>
    rw [execMarkInstruction, tileRow_of_ready h rfl]
    simp only [State.arrCtx_issued]
  case rng =>
    refine next_of_check (tileRow_of_ready h ?_)
    simp only [hb, Bool.not_false]
  case idle =>
    rw [execSamp, tileRow_of_ready h rfl]
    simp only [State.sampling_issued, hs, Bool.false_eq_true, if_false]
  case armed =>
    subst hx
    rw [execSamp, tileRow_of_ready h rfl]
    -- the matches of the statement and those of the definition may be different matchers
    simp only [State.sampling_issued, State.now_issued, hs, if_true] <;> rfl

end Sys2Proof.Machine
end

section
/-! SUPPORT. HALT in its three actions (R104, R165, R322; O18). -/

namespace Sys2Proof.Machine

/-- The record of a segment's end and the emptied cells leave the pairs alone. -/
theorem State.pair_segmentEnded (s : State) (a n action p : Nat) :
    (((s.issued a n).segmentRecord a action).dropCells a).pair p = s.pair p := by
  obtain ⟨u, v, r, q, m, m', hrec⟩ := Reported.sluice (s.issued a n) 4 ((s.issued a n).arrCtx a) a ((s.issued a n).arr a).marker
    [BitVec.ofNat 32 (((s.issued a n).arr a).segment + 4096 * action)]
  rw [State.segmentRecord, hrec, State.issued_eq]
  rfl

/-- NEXT_YIELD of a pair that is neither asked back nor wanted by a late refresh goes on here, with its store undefined. -/
theorem execHaltNextYield_of_stays {s j k : State} {a n seg tok : Nat} {waitt : Bool} (hr : haltReady s (s.arr a) = true)
    (h : s.issues a (.haltNextYield seg waitt tok) n = true) (hj : j = ((s.issued a n).segmentRecord a 2).dropCells a)
    (hk : k = j.undefineStore a)
    (hp : (s.pair (a / 2)).lent = true ∧ (s.pair (a / 2)).returnAt = none ∨
      (s.pair (a / 2)).lent = false ∧ j.dueRefresh (a / 2) true = none) :
    execHaltNextYield a seg waitt tok s = .next (
      if waitt then k.waitOn a (.segment tok seg true)
      else if (k.ctxD (k.arrCtx a)).onHold then k.park a seg none else k.loadSegment a seg) := by
  subst hj hk
  rw [execHaltNextYield, tileRow_of_ready h hr]
  refine congrArg _ (if_neg ?_)
  rw [State.pair_segmentEnded]
  rcases hp with ⟨hl, hback⟩ | ⟨hl, hdue⟩
  · simp [hl, hback]
  · simp [hl, hdue]

/-- NEXT_YIELD of a pair that is asked back or wanted by a late refresh parks the segment. -/
theorem execHaltNextYield_of_leaves {s j : State} {a n seg tok : Nat} {waitt : Bool} (hr : haltReady s (s.arr a) = true)
    (h : s.issues a (.haltNextYield seg waitt tok) n = true) (hj : j = ((s.issued a n).segmentRecord a 2).dropCells a)
    (hp : (s.pair (a / 2)).lent = true ∧ (s.pair (a / 2)).returnAt.isSome = true ∨
      (s.pair (a / 2)).lent = false ∧ (j.dueRefresh (a / 2) true).isSome = true) :
    execHaltNextYield a seg waitt tok s = .next ((j.park a seg (if waitt then some tok else none)).boundary a) := by
  subst hj
  rw [execHaltNextYield, tileRow_of_ready h hr]
  refine congrArg _ (if_pos ?_)
  rw [State.pair_segmentEnded]
  rcases hp with ⟨hl, hback⟩ | ⟨hl, hdue⟩
  · simp [hl, hback]
  · simp [hl, hdue]

/-- Settles O18: HALT issues once nothing is outstanding and stalls before; WAITT and, for NEXT_YIELD, what the pair is wanted
for select among what it does then. -/
theorem haltEndsTheSegment : Obligations.HaltEndsTheSegment := by
  refine ⟨fun s k a n seg tok hr => ⟨fun h hk => ?endHere, fun h hk => ?endWaits, fun h hk => ?nextHere, fun h hk => ?nextWaits⟩,
    fun s j k a n seg tok hr hj hk hp =>
      ⟨fun h => execHaltNextYield_of_stays hr h hj hk hp, fun h => execHaltNextYield_of_stays hr h hj hk hp⟩,
    fun s j a n seg tok waitt hr hj hp h => execHaltNextYield_of_leaves hr h hj hp,
    fun s a n seg tok waitt hr => ⟨fun h => ?endStalls, fun h => ?nextStalls, fun h => ?yieldStalls⟩⟩
  all_goals dsimp only [exec]
  case endHere | endWaits | nextHere | nextWaits =>
    subst hk
    exact tileRow_of_ready h hr
  case endStalls | nextStalls | yieldStalls => exact tileRow_of_not_ready h hr

end Sys2Proof.Machine
end

section
/-! SUPPORT. Folds, layer replays and rescales: what each step comes to once its condition holds (R99, R116, R117, R185, R229,
R231, R232; O23). -/

namespace Sys2Proof.Machine

variable {s : State}

/-! ### FOLD -/

theorem execFold_of_fold {k : State} {obj : Nat} {o : Obj} {g : Staged} (ho : tget s.objects obj = some o)
    (hg : o.firstStaged = some g) (hb : s.foldsWaiting obj = false) (ht : s.foldTest o g = .fold)
    (hk : k = s.modObj obj fun x => { x with buf := .openFor g.step }) :
    execFold obj s =
      if o.decl.gradBlocks = 0 then .next (k.foldDone obj g)
      else .next (k.addItems { work := .fold obj g, ctx := g.ctx, seq := g.seq } (List.range o.decl.gradBlocks) (k.objStack o)) := by
  subst hk
  simp only [execFold, ho, hg, hb, ht, Bool.false_eq_true, if_false]

/-- A staged dW of a sealed step is discarded. -/
theorem State.foldTest_of_sealed {o : Obj} {g : Staged} (h : s.isSealed g.ctx g.step = true) : s.foldTest o g = .discard := by
  rw [State.foldTest, if_pos h]

theorem execFold_of_discard {obj : Nat} {o : Obj} {g : Staged} (ho : tget s.objects obj = some o) (hg : o.firstStaged = some g)
    (hb : s.foldsWaiting obj = false) (ht : s.foldTest o g = .discard) :
    execFold obj s = .next (s.discardFolds g.ctx g.seq) := by
  simp only [execFold, ho, hg, hb, ht, Bool.false_eq_true, if_false]

/-- Of two staged dWs the first is the one staged later only where its step, then SEQ, comes before. -/
theorem Obj.firstStaged_of_two {o : Obj} {g h : Staged} (ho : o.staged = [g, h]) :
    o.firstStaged = some (if stagedBefore h g then h else g) := by
  simp only [Obj.firstStaged, ho, List.foldl_cons, List.foldl_nil]
  split <;> rfl

theorem Obj.firstStaged_of_one {o : Obj} {g : Staged} (ho : o.staged = [g]) : o.firstStaged = some g := by
  simp only [Obj.firstStaged, ho, List.foldl_cons, List.foldl_nil]

/-! ### LAYER_REPLAY -/

/-- A layer that is flagged and whose array stages are finished is replayed. -/
theorem execLayerReplay_of_flagged {c layer : Nat} {seq : Word} {r : Run} {pl : Plan} (hr : s.run? c seq = some r)
    (hp : s.planOf c r.slot = some pl) (hf : (r.flaggedLayers pl.body).contains layer = true) {nums : List Nat}
    (hn : nums = (pl.body.stages.filter fun t => t.layer == layer && t.kind == .array).map (·.num))
    (hd : (nums.all fun n => r.finished.contains n) = true) {j k : State}
    (hj : j = ({ s with free := s.free + 1 } : State).modRun c seq (fun q =>
      { q with replayed := q.replayed ++ [layer], started := q.started.filter fun t => !nums.contains t,
               finished := q.finished.filter fun t => !nums.contains t, parts := q.parts.filter fun p => !nums.contains p.1 }))
    (hk : k = pl.body.replays.foldl (fun s p => s.appendFills r p)
      ({ j with num := { j.num with replays := min (j.num.replays + 1) 65535 } } : State)) :
    execLayerReplay c seq layer s = .next (k.event (k.bothPorts c) 0x0301 0 c [seq, BitVec.ofNat 32 layer,
      BitVec.ofNat 32 ((r.flags.filter fun f => nums.contains f.1).map (·.2)).eraseDups.length, Config.freeWord 10 s.free]) := by
  subst hk hj hn
  rw [List.all_map] at hd
  simp only [execLayerReplay, hr, hp]
  exact if_pos (Bool.and_eq_true_iff.2 ⟨hf, hd⟩)

/-! ### RESCALE -/

theorem execRescale_of_due {c slot : Nat} {r : Run} {pl : Plan} {t : State}
    (hr : (s.runs.find? fun r => r.ctx == c && r.mb == some slot && s.rescaleDue r) = some r) (hp : s.planOf c r.slot = some pl)
    (ht : s.ensurePinned r pl.body = some t) {go : State × Nat} (hgo : go = t.rescaleSlot c slot) :
    execRescale c slot s = .next { go.1 with num := { go.1.num with
      scaled := tset go.1.num.scaled slot r.step,
      lowered := some (r.step, (match go.1.num.lowered with | some e => if e.1 = r.step then e.2 else 0 | none => 0) + go.2) } } := by
  subst hgo
  -- the match of the statement and that of the definition may be two matchers
  simp only [execRescale, hr, hp, ht] <;> rfl

/-- Settles O23: each step's condition selects one branch of it, and that branch is the effect stated; of two staged dWs the earlier
is the first. -/
theorem foldsReplaysAndRescales : Obligations.FoldsReplaysAndRescales := by
  refine ⟨fun s k obj o g ho hg hb ht hk => ⟨fun hn => ?work, fun hn => ?none⟩,
    fun s obj o g ho hg hb hs => execFold_of_discard ho hg hb (State.foldTest_of_sealed hs), fun o g h ho => ?first,
    fun s j k c layer seq r pl nums hr hp hf hn hd hj hk => execLayerReplay_of_flagged hr hp hf hn hd hj hk,
    fun s t c slot r pl go hr hp ht hgo => execRescale_of_due hr hp ht hgo⟩
  case work => exact (execFold_of_fold ho hg hb ht hk).trans (if_neg hn)
  case none => exact (execFold_of_fold ho hg hb ht hk).trans (if_pos hn)
  case first =>
    rcases ho with ⟨ho, hgh⟩ | ⟨ho, hgh⟩ | ho
    · simp [Obj.firstStaged_of_two ho, hgh]
    · simp [Obj.firstStaged_of_two ho, hgh]
    · exact Obj.firstStaged_of_one ho

end Sys2Proof.Machine
end

section
/-! SUPPORT. PLAN_LOAD and PLAN_RUN: what acceptance, completion, allocation and the writes of a plan leave of a context's kind,
pairs, plans and partition changes (R107, R124, R304; O5). -/

namespace Sys2Proof.Machine

/-- An entry of a table each of whose entries was changed. -/
theorem tget_map {α : Type} (f : Nat → α → α) (t : Table α) (n : Nat) :
    tget (t.map fun e => (e.1, f e.1 e.2)) n = (tget t n).map (f n) := by
  induction t with
  | nil => rfl
  | cons e t ih =>
    obtain ⟨k, v⟩ := e
    simp only [List.map_cons, tget, ih]
    split
    case isTrue h => rw [h, Option.map_some]
    case isFalse => rfl

/-! ### What a plan's commands read of a context -/

/-- Kind, pairs, loaded plans and partition changes of a context. -/
def Ctx.settings (x : Ctx) : Kind × List Nat × Table Plan × List PartChange := (x.kind, x.pairs, x.plans, x.changes)

/-- Two states with the same contexts, each with the same settings. -/
structure SettingsKept (s t : State) : Prop where
  same : ∀ c, (t.ctx? c).map Ctx.settings = (s.ctx? c).map Ctx.settings

namespace SettingsKept

theorem refl (s : State) : SettingsKept s s := ⟨fun _ => rfl⟩

theorem trans {s t u : State} (h : SettingsKept s t) (g : SettingsKept t u) : SettingsKept s u :=
  ⟨fun c => (g.same c).trans (h.same c)⟩

theorem of_ctxs {s t : State} (h : t.ctxs = s.ctxs) : SettingsKept s t :=
  ⟨fun c => by rw [State.ctx?, State.ctx?, h]⟩

theorem of_reported {s t : State} (h : Reported s t) : SettingsKept s t := by
  obtain ⟨a, b, r, q, m, n, rfl⟩ := h
  exact of_ctxs rfl

/-- A change of a context that leaves its settings. -/
theorem modCtx (s : State) (c : Nat) {f : Ctx → Ctx} (hf : ∀ x, (f x).settings = x.settings) : SettingsKept s (s.modCtx c f) := by
  refine ⟨fun n => ?_⟩
  rw [State.ctx?_modCtx]
  split
  · rw [Option.map_map]
    exact congrArg (Option.map · (s.ctx? n)) (funext hf)
  · rfl

theorem ite {s t u : State} {p : Prop} [Decidable p] (ht : SettingsKept s t) (hu : SettingsKept s u) :
    SettingsKept s (if p then t else u) := by
  split
  · exact ht
  · exact hu

theorem foldl {β : Type} {f : State → β → State} (h : ∀ s b, SettingsKept s (f s b)) (l : List β) (s : State) :
    SettingsKept s (l.foldl f s) := by
  induction l generalizing s with
  | nil => exact refl s
  | cons b l ih => exact (h s b).trans (ih (f s b))

/-- The settings agree for an undefined context too, which reads as the default one. -/
theorem ctxD {s t : State} (h : SettingsKept s t) (c : Nat) : (t.ctxD c).settings = (s.ctxD c).settings := by
  have hget (u : State) : (u.ctxD c).settings = ((u.ctx? c).map Ctx.settings).getD ({} : Ctx).settings := by
    rw [State.ctxD, tgetD, State.ctx?]
    cases tget u.ctxs c <;> rfl
  rw [hget, hget, h.same c]

theorem isSome {s t : State} (h : SettingsKept s t) {c : Nat} (hs : (s.ctx? c).isSome = true) : (t.ctx? c).isSome = true := by
  rw [← Option.isSome_map (f := Ctx.settings), h.same c, Option.isSome_map]
  exact hs

/-! ### Completions and acceptance -/

theorem ctxWrite (s : State) (c : Nat) (p : Port) (a : Nat) (bs : List Byte) : SettingsKept s (s.ctxWrite c p a bs) := by
  have hwrite := of_reported (.hostWrite s p a bs)
  rw [State.ctxWrite]
  split
  · exact hwrite
  · exact hwrite.trans (modCtx _ c fun _ => rfl)

theorem writeCompletion (s : State) (c : Nat) (d : Desc) (m : Word) (st det : Nat) (res : Word) :
    SettingsKept s (s.writeCompletion c d m st det res) := by
  unfold State.writeCompletion
  split
  · exact refl s
  next x _ =>
    have hwrite (u : State) (b : Bool) (a : Nat) (bs : List Byte) : SettingsKept u (if b then u.ctxWrite c x.port a bs else u) :=
      ite (ctxWrite ..) (refl u)
    have hend (u : State) (f : Ctx → Ctx) (pl : List Word) (hu : SettingsKept s u) (hf : ∀ y, (f y).settings = y.settings) :
        SettingsKept s (if stOk st then ((u.modCtx c f).updateAttn x.port).sluice 3 c 0x200 m pl
          else (((u.modCtx c f).updateAttn x.port).sluice 3 c 0x200 m pl).trigger x.port 4) :=
      have hrec := (hu.trans (modCtx u c hf)).trans (of_reported ((Reported.updateAttn _ x.port).trans (.sluice _ 3 c 0x200 m pl)))
      ite hrec (hrec.trans (of_reported (.trigger ..)))
    exact hend _ _ _ ((hwrite s _ _ _).trans (hwrite _ _ _ _)) fun _ => rfl

theorem complete (s : State) (c : Nat) (d : Desc) (st det : Nat) (res : Word) : SettingsKept s (s.complete c d st det res) :=
  (writeCompletion ..).trans (modCtx _ c fun _ => rfl)

/-- A success aborts no transaction (R217). -/
theorem finish (s : State) (c : Nat) (d : Desc) {st : Nat} (hst : st ≤ 1) (det : Nat) (res : Word) :
    SettingsKept s (s.finish c d st det res) := by
  refine (complete s c d st det res).trans ?_
  rw [State.finish, State.memberDone]
  split
  · exact refl _
  split
  · exact refl _
  next t _ => exact ite (refl _) (of_ctxs rfl)

theorem finishSeq (s : State) (c : Nat) (seq : Word) {st : Nat} (hst : st ≤ 1) (det : Nat) (res : Word) :
    SettingsKept s (s.finishSeq c seq st det res) := by
  rw [State.finishSeq]
  split
  · exact finish s c _ hst det res
  · exact refl s

/-- Acceptance leaves the settings of every context. -/
theorem accepted (s : State) (c : Nat) (d : Desc) : SettingsKept s (s.accepted c d) := by
  have hseq : SettingsKept s (s.seqTaken c d) := modCtx s c fun _ => rfl
  have hlast : SettingsKept (s.seqTaken c d) ((s.seqTaken c d).noteLast c d) := modCtx _ c fun _ => rfl
  have hopen : SettingsKept s (((s.seqTaken c d).noteLast c d).modCtx c fun x => { x with
      opens := x.opens ++ [{ desc := d, marker := (s.seqTaken c d).markerFor c d }],
      activeUntil := ((s.seqTaken c d).noteLast c d).now + 1000 * cyclesPerUs, active := true }) :=
    (hseq.trans hlast).trans (modCtx _ c fun _ => rfl)
  have hrec (m : Word) (pl : List Word) := hopen.trans (of_reported ((Reported.pulse _ 0x245 0 1 c m).trans (.sluice _ 2 c 0x200 m pl)))
  rw [State.accepted, State.accept]
  refine ite ?_ (hrec _ _)
  split
  · exact (hrec _ _).trans (of_ctxs rfl)
  · exact hrec _ _

/-! ### Pages and regions -/

theorem takePages (s : State) (st : Nat) (last : Option Nat) (n : Nat) : SettingsKept s (s.takePages st last n).1 := by
  induction n generalizing s last with
  | zero => exact refl s
  | succ n ih =>
    rw [State.takePages]
    split
    · exact refl s
    split
    · exact refl s
    next _ ch _ _ pg _ => exact trans (of_ctxs (by rfl)) (ih (s.takePage st pg) (some ch))

theorem allocRegion (s : State) (pairs : List Nat) (d : RegionDecl) : SettingsKept s (s.allocRegion pairs d).1 :=
  List.foldlRecOn (motive := fun acc : State × Nat × Table (List Nat) × Table Nat => SettingsKept s acc.1) _ _ (refl s)
    fun _ h _ _ => h.trans (takePages ..)

theorem allocAll {s m : State} {pairs : List Nat} {ds : List RegionDecl} {rs : List Region}
    (h : s.allocAll pairs ds = .ok (m, rs)) : SettingsKept s m := by
  induction ds generalizing s m rs with
  | nil =>
    cases h
    exact refl s
  | cons d ds ih =>
    simp only [State.allocAll] at h
    split at h
    · cases h
    split at h
    · cases h
    split at h
    · cases h
    next x hx =>
      cases h
      exact (allocRegion s pairs d).trans (ih hx)

theorem freeTable (s : State) (t : Table (List Nat)) : SettingsKept s (s.freeTable t) :=
  foldl (fun _ _ => foldl (fun _ _ => of_ctxs (by rfl)) _ _) _ _

theorem regionPutBy (s : State) (r : Region) (pages : Table (List Nat)) (off : Nat) (bs : List Byte) :
    SettingsKept s (s.regionPutBy r pages off bs) := by
  induction bs generalizing s off with
  | nil => exact refl s
  | cons b bs ih =>
    rw [State.regionPutBy]
    split
    next addr _ => exact trans (of_ctxs (by rfl)) (ih { s with hbm := memWrite s.hbm addr b } (off + 1))
    · exact ih s (off + 1)

theorem regionPut (s : State) (c reg off : Nat) (bs : List Byte) : SettingsKept s (s.regionPut c reg off bs) := by
  rw [State.regionPut]
  split
  · exact regionPutBy ..
  · exact refl s

theorem releaseRegions (s : State) (c : Nat) : SettingsKept s (s.releaseRegions c) :=
  (foldl (fun u (e : Nat × Region) => freeTable u e.2.pages) _ s).trans (modCtx _ c fun _ => rfl)

theorem disarm (s : State) (c slot : Nat) : SettingsKept s (s.disarm c slot) := modCtx s c fun _ => rfl

theorem settleStacks (s : State) : SettingsKept s s.settleStacks :=
  foldl (fun u _ => ite (refl u) (of_ctxs (by rfl))) _ s

theorem thermalMark (s : State) : SettingsKept s s.thermalMark := by
  refine ⟨fun c => ?_⟩
  have hget := tget_map (fun n (x : Ctx) =>
    { x with thermalHold := ((List.range 12).filter fun st => (s.site st).hot).any (s.inStack n x) }) s.ctxs c
  refine (congrArg (Option.map Ctx.settings) hget).trans ?_
  rw [Option.map_map]
  rfl

/-! ### What a plan creates -/

theorem createObject (s : State) (c : Nat) (d : ObjectDecl) : SettingsKept s (s.createObject c d) := by
  rw [State.createObject]
  split
  · exact refl s
  · exact of_ctxs (by rfl)

theorem createStat (s : State) (d : StatDecl) : SettingsKept s (s.createStat d) :=
  (of_ctxs (by rfl)).trans (foldl (fun _ _ => of_ctxs (by rfl)) _ _)

theorem initCarried (s : State) (c : Nat) (d : RegionDecl) : SettingsKept s (s.initCarried c d) := by
  rw [State.initCarried]
  split
  · exact refl s
  · exact foldl (fun u _ => (foldl (fun v _ => regionPut v _ _ _ _) _ u).trans (regionPut ..)) _ s

/-! ### Abandoned refreshes -/

theorem requestsSettle (s : State) : SettingsKept s s.requestsSettle :=
  (of_ctxs (by rfl)).trans (foldl (fun u (q : RootRequest) => finishSeq u q.ctx q.seq (st := stDone) (by decide) 0 _) _ _)

theorem stopRefresh (s : State) (g : Nat) : SettingsKept s (s.stopRefresh g) :=
  have hend (u : State) (e : Nat × TwinPair) : SettingsKept u (u.endFragment e.1) := of_ctxs (by rfl)
  trans (foldl hend _ s) (of_ctxs (by rfl))

theorem abandonRecord (s : State) (r : Refresh) : SettingsKept s (s.abandonRecord r) := by
  rw [State.abandonRecord]
  exact ite (of_reported (.devEvent ..)) ((of_ctxs (by rfl)).trans (of_reported (.devEvent ..)))

theorem abandon (s : State) (p : Refresh → Bool) : SettingsKept s (s.abandon p) :=
  (((foldl (fun u (e : Nat × Refresh) => stopRefresh u e.1) _ s).trans (of_ctxs (by rfl))).trans
    (foldl (fun _ (r : Refresh) => (of_ctxs (by rfl)).trans (abandonRecord _ r)) _ _)).trans (requestsSettle _)

theorem reloaded (s : State) (c slot : Nat) : SettingsKept s (s.reloaded c slot) := by
  rw [State.reloaded]
  split
  · exact refl s
  · exact ite (refl s) ((abandon s _).trans (of_ctxs (by rfl)))

end SettingsKept

/-! ### PLAN_LOAD -/

theorem State.isSome_ctx?_of_admits {s : State} {c : Nat} {d : Desc} {r : DescRow} (h : s.admits c d r = true) :
    (s.ctx? c).isSome = true := by
  simp only [State.admits, Bool.and_eq_true] at h
  obtain ⟨⟨-, htakes⟩, -⟩ := h
  obtain ⟨x, hx, -⟩ := State.takesNow_iff htakes
  exact Option.isSome_iff_exists.2 ⟨x, hx⟩

/-- A plan put into a context's slot is read there as long as settings are kept. -/
theorem SettingsKept.plan {s t : State} {c slot : Nat} {p : Plan} (hc : (s.ctx? c).isSome = true)
    (h : SettingsKept (s.modCtx c fun x => { x with plans := tset x.plans slot p }) t) : tget (t.ctxD c).plans slot = some p := by
  obtain ⟨x, hx⟩ := Option.isSome_iff_exists.1 hc
  have hmod : (s.modCtx c fun x => { x with plans := tset x.plans slot p }).ctxD c = { x with plans := tset x.plans slot p } := by
    apply State.ctxD_of_ctx?
    rw [State.ctx?_modCtx, if_pos rfl, hx, Option.map_some]
  have hplans := congrArg (fun k => k.2.2.1) (h.ctxD c)
  simp only [Ctx.settings, hmod] at hplans
  rw [hplans, tget_tset_self]

/-- What loading a plan whose regions can be placed does to the contexts' settings: it puts the plan into its slot, and nothing else. -/
theorem State.exists_loadPlan_of_alloc {s m : State} {c : Nat} {d : Desc} {b : PlanBody} {rs : List Region}
    (h : s.allocAll (s.ctxD c).pairs (s.newRegions c b ++ [cacheDecl (d.w64 5)]) = .ok (m, rs)) :
    ∃ (k : State) (p : Plan), SettingsKept s k ∧
      SettingsKept (k.modCtx c fun x => { x with plans := tset x.plans (d.f 2 0 3) p }) (s.loadPlan c d b) ∧
      p.body = b ∧ p.size = d.w64 5 ∧ p.measurement = planMeasure (s.planBytes c d) (d.w64 5) := by
  simp only [State.loadPlan, h]
  refine ⟨_, _, .trans (t := ?mid) ?placed ?freed, ((((SettingsKept.disarm ..).trans (.releaseRegions ..)).trans (.settleStacks _)).trans
    (.thermalMark _)).trans (.finish _ _ _ (by decide) _ _), rfl, rfl, rfl⟩
  case freed =>
    split
    · exact .freeTable ..
    · exact .refl _
  case placed =>
    have hregions := (SettingsKept.allocAll h).trans (.modCtx m c (f := fun x =>
      { x with regions := (rs.take (s.newRegions c b).length).foldl (fun t r => tset t r.decl.num r) x.regions }) fun _ => rfl)
    have hobjects (u : State) : SettingsKept u
        (if (u.ctxD c).kind = .train then b.objects.foldl (fun v o => v.createObject c o) u else u) :=
      .ite (.foldl (fun v o => .createObject v c o) _ u) (.refl u)
    have hstats (u : State) : SettingsKept u ((s.newStats c b).foldl (fun v t => v.createStat t) u) := .foldl .createStat _ u
    have hcarried (u : State) : SettingsKept u (b.regions.foldl (fun v r => v.initCarried c r) u) :=
      .foldl (fun v r => .initCarried v c r) _ u
    exact ((((hregions.trans (.regionPutBy ..)).trans (hobjects _)).trans (hstats _)).trans (hcarried _)).trans (.reloaded ..)

theorem execPlanLoad_of_alloc {s m : State} {c : Nat} {d : Desc} {b : PlanBody} {rs : List Region} (h : s.admits c d .planLoad = true)
    (hb : b = Config.planBody ((s.accepted c d).planBytes c d))
    (hm : (s.accepted c d).allocAll (s.ctxD c).pairs ((s.accepted c d).newRegions c b ++ [cacheDecl (d.w64 5)]) = .ok (m, rs)) :
    ∃ (t : State) (p : Plan), execPlanLoad c d s = .next t ∧ tget (t.ctxD c).plans (d.f 2 0 3) = some p ∧ p.body = b ∧
      p.size = d.w64 5 ∧ p.measurement = planMeasure ((s.accepted c d).planBytes c d) (d.w64 5) := by
  have hacc := SettingsKept.accepted s c d
  have hpairs : ((s.accepted c d).ctxD c).pairs = (s.ctxD c).pairs := congrArg (fun k => k.2.1) (hacc.ctxD c)
  have hctx : (s.ctx? c).isSome = true := State.isSome_ctx?_of_admits h
  rw [← hpairs] at hm
  obtain ⟨k, p, hk, hp, hbody, hsize, hmeas⟩ := State.exists_loadPlan_of_alloc hm
  refine ⟨_, p, descRow_admits h, ?_, hbody, hsize, hmeas⟩
  subst hb
  exact hp.plan ((hacc.trans hk).isSome hctx)

/-! ### PLAN_RUN -/

theorem State.pinWindow_accepted (s : State) (c : Nat) (d : Desc) : (s.accepted c d).pinWindow = s.pinWindow := by
  obtain ⟨-, -, -, -, -, -, -, -, -, -, -, -, -, -, -, hgran, -, -⟩ := accepted_same s c d
  rw [State.pinWindow, State.pinWindow, hgran]

theorem State.runs_accepted (s : State) (c : Nat) (d : Desc) : (s.accepted c d).runs = s.runs := by
  obtain ⟨-, -, -, -, -, -, hruns, -⟩ := accepted_same s c d
  exact hruns

/-- Settles O5: acceptance leaves the settings of the contexts, and after it loading a plan puts it into its slot. -/
theorem plansLoadAndRun : Obligations.PlansLoadAndRun := by
  refine ⟨fun s m c d b rs h hb hm => execPlanLoad_of_alloc h hb hm, fun s c d h hn => ?empty, fun s c d p h hn hp => ?run⟩
  all_goals
    refine (descRow_admits h).trans ?_
    dsimp only [State.startOf, State.startPlanRun]
  case empty => rw [if_pos hn, State.emptyRun, State.pinWindow_accepted]
  case run =>
    have hset := (SettingsKept.accepted s c d).ctxD c
    simp only [Ctx.settings, Prod.mk.injEq] at hset
    obtain ⟨hkind, -, hplans, hchanges⟩ := hset
    have hplan : (s.accepted c d).planOf c (d.f 2 0 3) = some p := by rw [State.planOf, hplans, ← State.planOf, hp]
    simp only [if_neg hn, hplan, hkind, hchanges, State.runs_accepted, runStep, beq_iff_eq]

end Sys2Proof.Machine
end

section
/-! SUPPORT. Pins, stages, row maps and GRAM stages: what each step comes to once its run has its pins (R109, R117, R118, R125,
R133, R135, R138, R343, R345; O22). -/

namespace Sys2Proof.Machine

variable {s t : State} {c : Nat} {seq : Word} {r q : Run} {pl : Plan}

/-! ### The pins of a run -/

theorem State.ensurePinned_of_pinned {b : PlanBody} (h : r.pins.isSome = true) : s.ensurePinned r b = some s := if_pos h

/-- A run without pins takes them where it may, and else waits. -/
theorem State.ensurePinned_of_unpinned {b : PlanBody} (h : r.pins = none) :
    s.ensurePinned r b = if s.mayPin r b then some (s.pinRun r b) else none := by
  rw [State.ensurePinned, h]
  exact if_neg Bool.false_ne_true

/-! ### STAGE_START and STAGE_COMPLETE -/

/-- The ways a stage of a run that has its pins may go: it waits for more than gathers, for its gathers alone, it is skipped, or
it begins. -/
theorem execStageStart_of_pinned {stage : Nat} {d : StageDecl} (hr : s.run? c seq = some r) (hp : s.planOf c r.slot = some pl)
    (hd : pl.body.stage? stage = some d) (ht : s.ensurePinned r pl.body = some t) (hq : t.run? c seq = some q) :
    execStageStart c seq stage s =
      if t.gatherOnly q pl.body d = false then .next s
      else if t.stageReady q pl.body d = false then .next (t.startGathers q pl.body d)
      else if t.stageSkipped q pl.body d = true then
        .next ((t.modRun c seq fun q => { q with started := q.started ++ [stage] }).stageDone q pl.body d true)
      else .next (t.beginStage q pl d) := by
  simp only [execStageStart, hr, hp, hd, ht, hq, Option.getD_some, Bool.not_eq_eq_eq_not, Bool.not_true]

theorem execStageComplete_of_ended {stage : Nat} {d : StageDecl} (hr : s.run? c seq = some r) (hp : s.planOf c r.slot = some pl)
    (hd : pl.body.stage? stage = some d) (hs : r.started.contains stage = true) (hf : r.finished.contains stage = false)
    (he : s.stageEnded r pl d = true) : execStageComplete c seq stage s = .next (s.stageDone r pl.body d false) := by
  simp only [execStageComplete, hr, hp, hd, hs, hf, he, Bool.not_false, Bool.and_self, if_true]

/-! ### ROW_MAP -/

/-- A view not yet mapped is mapped to its first selected rows; more of them than it has room for are reported. -/
theorem execRowMap_of_unmapped {view : Nat} {v : ViewDecl} {rows : List Nat} {k : State} (hr : s.run? c seq = some r)
    (hp : s.planOf c r.slot = some pl) (hv : (pl.body.views.find? fun v => v.num == view) = some v)
    (ht : s.ensurePinned r pl.body = some t) (hm : (tget r.maps view).isSome = false) (hq : t.run? c seq = some q)
    (hrows : rows = t.selectedRows q v.obj (t.fdivOf q v.obj v.side))
    (hk : k = t.modRun c seq fun q => { q with maps := tset q.maps view (rows.take v.capacity) }) :
    execRowMap c seq view s = .next (if v.capacity < rows.length then
      k.devEvent 0x0103 1 [seq, BitVec.ofNat 32 v.obj, BitVec.ofNat 32 rows.length, BitVec.ofNat 32 v.capacity] else k) := by
  subst hk hrows
  simp only [execRowMap, hr, hp, hv, ht, hm, hq, Option.getD_some, Bool.false_eq_true, if_false]

/-! ### GRAM_STAGE -/

/-- A GRAM stage whose turn it is exchanges its view's rows where it has to, and else lets its stage begin. -/
theorem execGramStage_of_turn {obj side : Nat} (hr : s.run? c seq = some r) (hp : s.planOf c r.slot = some pl)
    (hs : (pl.body.stages.any fun t => t.grams.contains (obj, side)) = true) (hg : r.grams.contains (obj, side) = false)
    (ht : s.ensurePinned r pl.body = some t) (hq : t.run? c seq = some q)
    (hturn : t.isSealed c q.step = true ∨ t.gramReady q (obj, side) = true) :
    execGramStage c seq obj side s = .next ((t.gatherView q pl.body obj side).getD
      ((if t.isSealed c q.step then t else t.modStat (statKey obj side) fun x => { x with gather := some q.step }).modRun c seq
        fun q => { q with grams := q.grams ++ [(obj, side)] })) := by
  rw [← Bool.or_eq_true] at hturn
  simp only [execGramStage, hr, hp, hs, hg, ht, hq, hturn, Option.getD_some, Bool.not_true, Bool.or_self, Bool.false_eq_true,
    if_false, if_true]
  cases t.gatherView q pl.body obj side <;> rfl

/-- Settles O22: each step's condition selects one branch of it, and that branch is the effect stated. -/
theorem stagesPinsAndMaps : Obligations.StagesPinsAndMaps := by
  refine ⟨fun s r b => ⟨State.ensurePinned_of_pinned, fun hn hm => ?pins, fun hn hm => ?waits⟩,
    fun s t c stage seq r q pl d hr hp hd ht hq => ?start,
    fun s c stage seq r pl d hr hp hd hs hf he => execStageComplete_of_ended hr hp hd hs hf he,
    fun s t c view seq r q pl v rows hr hp hv ht hm hq hrows => execRowMap_of_unmapped hr hp hv ht hm hq hrows rfl,
    fun s t c obj side seq r q pl hr hp hs hg ht hq hturn => ?gram⟩
  case pins => exact (State.ensurePinned_of_unpinned hn).trans (if_pos hm)
  case waits => exact (State.ensurePinned_of_unpinned hn).trans (if_neg (ne_true_of_eq_false hm))
  case start =>
    have hstart := execStageStart_of_pinned hr hp hd ht hq
    refine ⟨fun hready honly hskip => hstart.trans ?begins, fun hready honly hskip => hstart.trans ?skipped,
      fun hready honly => hstart.trans ?gathers, fun honly => hstart.trans (if_pos honly)⟩
    case begins => simp [hready, honly, hskip]
    case skipped => simp [hready, honly, hskip]
    case gathers => simp [hready, honly]
  case gram =>
    have hstage := execGramStage_of_turn hr hp hs hg ht hq hturn
    exact ⟨fun u hu => hstage.trans (by rw [hu, Option.getD_some]), fun hu => hstage.trans (by rw [hu, Option.getD_none])⟩

end Sys2Proof.Machine
end

section
/-! SUPPORT. STAT_CFG, PRECOND_CFG, ROOT_REFRESH and REG_GROUP: at once outside a transaction, held in it for its members (R151,
R152, R175, R177, R205, R307; O6). -/

namespace Sys2Proof.Machine

variable {s : State} {c : Nat} {d : Desc}

/-! ### Held back in a transaction (R205) -/

theorem State.deferOr_outside (h : d.inTxn = false) (go : State → State) : s.deferOr c d go = go s := by
  simp only [State.deferOr, h, Bool.false_eq_true, if_false]

theorem State.deferOr_member {t : Txn} (h : d.inTxn = true) (ht : s.txn? c d.tag = some t) (go : State → State) :
    s.deferOr c d go = s.setTxn { t with deferred := t.deferred ++ [.descriptor d] } := by
  simp only [State.deferOr, h, if_true, ht]

/-- A REG_GROUP of entries is held in its transaction. -/
theorem State.startRegGroup_member {t : Txn} (h : d.inTxn = true) (hn : d.f 3 0 9 ≠ 0) (ht : s.txn? c d.tag = some t) :
    s.startRegGroup c d = (s.setTxn { t with deferred := t.deferred ++
      [.registers (groupEntries (s.groupList c d) (d.f 3 0 9))] }).finish c d stDone 0 0 := by
  simp only [State.startRegGroup, if_neg hn, State.txnOf, h, if_true, ht]

/-! ### STAT_CFG (R151, R152) -/

theorem row_of_admits {r : DescRow} (h : s.admits c d r = true) : d.row = some r := by
  simp only [State.admits, descOf, Bool.and_eq_true, beq_iff_eq] at h
  obtain ⟨⟨⟨-, hrow⟩, -⟩, -⟩ := h
  exact hrow

/-- A row is a STAT_CFG only where the opcode is 0x10 and the function field selects it (R151). -/
theorem Desc.func_of_row_statCfg {r : DescRow} (h : d.row = some r) (hr : r ∈ [DescRow.statCfgSet, .statCfgReset]) :
    [DescRow.statCfgSet, .statCfgReset][d.f 2 18 2]? = some r := by
  have other {l : List DescRow} {n : Nat} (hl : ∀ x ∈ l, x ∉ [DescRow.statCfgSet, .statCfgReset]) : l[n]? ≠ some r :=
    fun hn => hl r (List.mem_of_getElem? hn) hr
  unfold Desc.row at h
  split at h
  case h_18 =>
    unfold Desc.subRow at h
    split at h
    case h_1 => exact h
    case h_7 =>
      split at h <;> cases h <;> simp at hr
    case h_8 => cases h
    all_goals exact absurd h (other (by decide))
  all_goals
    cases h
    simp at hr

theorem State.doStatCfg_set (h : d.row = some .statCfgSet) (s : State) :
    s.doStatCfg c d = (s.statTargets c d).foldl (fun s k => s.modStat k fun t => t.configured d) s := by
  have hf : d.f 2 18 2 = 0 := by
    have hfunc := Desc.func_of_row_statCfg h (by decide)
    match hk : d.f 2 18 2 with
    | 0 => rfl
    | 1 => simp [hk] at hfunc
    | n + 2 => simp [hk] at hfunc
  simp only [State.doStatCfg, hf, if_true]

theorem State.doStatCfg_reset (h : d.row = some .statCfgReset) (s : State) :
    s.doStatCfg c d = (s.statTargets c d).foldl (fun s k => s.modStat k fun t => { t with resetDue := true }) s := by
  have hf : d.f 2 18 2 ≠ 0 := by
    intro hz
    have hfunc := Desc.func_of_row_statCfg h (by decide)
    simp [hz] at hfunc
  simp only [State.doStatCfg, if_neg hf]

/-! ### ROOT_REFRESH (R175) -/

theorem State.curv_accepted (s : State) (c : Nat) (d : Desc) : (s.accepted c d).curv = s.curv := by
  obtain ⟨-, -, -, -, -, -, -, -, -, -, -, -, -, -, -, -, hcurv, -⟩ := accepted_same s c d
  exact hcurv

theorem State.doRootRefresh_accepted (s : State) (c : Nat) (d : Desc) :
    (s.accepted c d).doRootRefresh c d = ({ s.accepted c d with curv := { s.curv with
      requests := s.curv.requests ++ [{ ctx := c, seq := d.seq, waiting := (s.accepted c d).requestTargets c d }] } }
      : State).requestsSettle := by
  rw [State.doRootRefresh, State.curv_accepted]

/-- Settles O6: each row starts once its descriptor is admitted; its own transaction decides between its effect and holding it
back, and the row says which function of STAT_CFG it is. -/
theorem curvatureSettingsAndMembers : Obligations.CurvatureSettingsAndMembers := by
  refine ⟨fun s c d h ho => ?set, fun s c d h ho => ?reset, fun s c d h ho => ?precond, fun s c d h ho => ?refresh,
    fun s c d t h hi ht => ?setMember, fun s c d t h hi ht => ?resetMember, fun s c d t h hi ht => ?precondMember,
    fun s c d t h hi ht => ?refreshMember, fun s c d t h hi hn ht => ?groupMember⟩
  all_goals
    refine (descRow_admits h).trans (congrArg _ ?_)
    dsimp only [State.startOf]
  case set =>
    rw [State.startStatCfgSet, State.deferOr_outside ho, State.doStatCfg_set (row_of_admits h)]
  case reset =>
    rw [State.startStatCfgReset, State.deferOr_outside ho, State.doStatCfg_reset (row_of_admits h)]
  case precond => rw [State.startPrecondCfg, State.deferOr_outside ho, State.doPrecondCfg]
  case refresh => rw [State.startRootRefresh, State.deferOr_outside ho, State.doRootRefresh_accepted]
  case setMember => rw [State.startStatCfgSet, State.deferOr_member hi ht]
  case resetMember => rw [State.startStatCfgReset, State.deferOr_member hi ht]
  case precondMember => rw [State.startPrecondCfg, State.deferOr_member hi ht]
  case refreshMember => rw [State.startRootRefresh, State.deferOr_member hi ht]
  case groupMember => exact State.startRegGroup_member hi hn ht

end Sys2Proof.Machine
end

section
/-! SUPPORT. Released blocks, and the start and the finish of a refresh: what each step comes to once its condition holds (R149,
R155, R159, R161, R162, R164; O24). -/

namespace Sys2Proof.Machine

variable {s : State}

/-! ### BLOCK_RELEASE (R140, R142, R150) -/

/-- A block whose seal's work is done writes its record where its context has a plan, and is released. -/
theorem execBlockRelease_of_done {block : Nat} {b : Block} (hb : tget s.blocks block = some b) (hbusy : b.busy = true)
    (hd : s.decayLeft block = false) (hs : s.curv.sealing = none) (ht : (s.ctxD (s.objCtx b.obj)).mode ≠ .tornDown) :
    execBlockRelease block s = .next (((s.firstPlan (s.objCtx b.obj)).elim s fun pl =>
      s.putWords (s.objCtx b.obj) pl.statsRegion (32 * block) (b.record block (s.estimateOf b))).modBlock block fun b =>
        { b with busy := false }) := by
  have hm : ((s.ctxD (s.objCtx b.obj)).mode == CtxMode.tornDown) = false := by simpa using ht
  simp only [execBlockRelease, hb, hbusy, hd, hs, hm, Bool.not_true, Option.isSome_none, Bool.or_self, Bool.false_eq_true, if_false]
  cases s.firstPlan (s.objCtx b.obj) <;> rfl

/-! ### REFRESH_START (R165, R166) -/

theorem execRefreshStart_of_idle {g n : Nat} {r : Refresh} {rest : List Refresh} (hq : tgetD s.curv.queue g [] = r :: rest)
    (hn : s.resultSlot g = some n) (hc : tget s.curv.current g = none) {q : Refresh} (hr : q = s.preChecked { r with slot := n })
    {k : State} (hk : k = { s with curv := { s.curv with
      queue := tset s.curv.queue g rest, current := tset s.curv.current g q } }) :
    execRefreshStart g s = .next ((k.refreshPairs q).foldl (fun s p => s.takeWork p) k) := by
  subst hk hr
  simp only [execRefreshStart, hq, hn, hc, Option.isSome_none, Bool.false_eq_true, if_false]

/-! ### REFRESH_FINISH (R149, R159, R161, R162, R164) -/

/-- A stopped refresh leaves its group and settles its estimate; its code decides between a result and a failed block. -/
theorem execRefreshFinish_of_stopped {g cycles : Nat} {r : Refresh} {b : Block} {credit : Int} {k : State}
    (hr : tget s.curv.current g = some r) (hb : tget s.blocks r.block = some b) (hs : r.stage = 6)
    (hcycles : cycles = Config.freeNat 31 [s.free])
    (hcredit : credit = if r.charged then
      max (-((4 * s.stepBudget (s.objCtx b.obj) : Nat) : Int)) (s.curv.credit + 1024 * r.estimate - cycles) else s.curv.credit)
    (hk : k = { s with free := s.free + 1, curv := { s.curv with current := tdel s.curv.current g, credit := credit } }) :
    execRefreshFinish g s = .next (((((if r.code = 0 then { k.modBlock r.block (fun b => { b with
          refs := r.newRefs, ordinal := b.ordinal + 1, age := k.curv.seals - r.sealCount, fails := 0, failed := false,
          refStep := r.step, estimate := some (cycles / 1024) }) with curv := { k.curv with results := k.curv.results ++
          [{ block := r.block, group := g, finishedStep := k.curv.seals, slot := r.slot, both := r.both, exp16 := r.exp16 }] } }
        else k.modBlock r.block fun b => { b with
          failed := true, fails := min (b.fails + 1) 255, backoff := s.rf .crvPolicy 16 8, pending := false,
          estimate := some (cycles / 1024) } : State).rootRecord r r.code r.iters (if r.iters = 0 then 0 else r.eps) r.nu.hi
            r.lam.hi (cycles / 1024)).damping (statKey b.obj b.side) r.step r.code r.iters)).countRefresh r.block (r.code == 0)) := by
  subst hk hcredit hcycles
  simp only [execRefreshFinish, hr, hb, if_neg (not_not.2 hs), State.fresh, beq_iff_eq]
  cases r.charged <;> rfl

/-- Settles O24: each step's condition selects one branch of it, and that branch is the effect stated. -/
theorem refreshesRun : Obligations.RefreshesRun := by
  refine ⟨fun s block b hb hbusy hd hs ht => ⟨fun pl hp => ?plan, fun hp => ?noPlan⟩,
    fun s k g n r q rest hq hn hc hr hk => execRefreshStart_of_idle hq hn hc hr hk,
    fun s k g cycles r b credit hr hb hs hcycles hcredit hk => ⟨fun hc => ⟨_, ?converged, rfl⟩, fun hc => ?failed⟩⟩
  case plan => exact (execBlockRelease_of_done hb hbusy hd hs ht).trans (by rw [hp, Option.elim_some])
  case noPlan => exact (execBlockRelease_of_done hb hbusy hd hs ht).trans (by rw [hp, Option.elim_none])
  all_goals refine (execRefreshFinish_of_stopped hr hb hs hcycles hcredit hk).trans ?_
  case converged => simp only [hc, if_true, beq_self_eq_true]
  case failed =>
    have hcode : (r.code == 0) = false := by simpa using hc
    simp only [if_neg hc, hcode]

end Sys2Proof.Machine
end

section
/-! SUPPORT. FORCE: a write of it is a condition met, and one met while the records after a trigger are counted starts nothing anew
(R379; O41). -/

namespace Sys2Proof.Machine

variable {s : State} {p : Port}

/-! ### A condition met while the count runs (R379) -/

@[simp] theorem State.regs_sluiceEnqueue (s : State) (p : Port) (r : List Word) : (s.sluiceEnqueue p r).regs = s.regs := by
  rw [State.sluiceEnqueue]
  split
  · exact State.setPort_regs ..
  · exact (State.pulse_regs ..).trans (State.setPort_regs ..)

/-- While the records after a trigger are counted a condition writes a record at most: ARM stays as it is. -/
theorem State.regs_trigger_of_counting (ht : (s.portSt p).triggered = true) (hon : s.sluiceOn p = true) (bit : Nat) :
    (s.trigger p bit).regs = s.regs := by
  simp only [State.trigger, ht, hon, Bool.and_self, if_true]
  split
  · rfl
  · exact State.regs_sluiceEnqueue ..

/-! ### The write of FORCE (R379) -/

/-- A write of what a register holds, with write-only bits besides, sets it to what it was. -/
theorem masked_write_same {old x rw : Nat} (ho : old < 2 ^ 64) (hx : x &&& rw = 0) (hrw : rw < 2 ^ 64) :
    old &&& (2 ^ 64 - 1 - rw) ||| (old ||| x) &&& rw = old := by
  refine Nat.eq_of_testBit_eq fun i => ?_
  have hbit : (x.testBit i && rw.testBit i) = false := by rw [← Nat.testBit_and, hx, Nat.zero_testBit]
  have hlow : old.testBit i = true → i < 64 := fun hi => by
    by_contra hge
    rw [Nat.testBit_lt_two_pow (ho.trans_le (Nat.pow_le_pow_right (by decide) (Nat.not_lt.1 hge)))] at hi
    contradiction
  rw [Nat.sub_sub, Nat.add_comm 1, Nat.testBit_or, Nat.testBit_and, Nat.testBit_and, Nat.testBit_or,
    Nat.testBit_two_pow_sub_succ hrw]
  cases ho' : old.testBit i with
  | true => cases hr : rw.testBit i <;> simp [hlow ho']
  | false => simpa using hbit

/-- A 64-bit write of BAR0 outside the load window, at an offset of its size (R444). -/
theorem State.busWrite_eight {off : Nat} (hw : inWindow off = false) (ho : off % 8 = 0) (v : Nat) :
    s.busWrite p off 8 v = s.write64 p off (v % 2 ^ 64) := by
  have h4 : off % 4 = 0 := by omega
  simp [State.busWrite, hw, h4, State.writeWords, ho]

/-- A write of DBG_TRIG that names FORCE and else what the register holds is a condition met. -/
theorem State.applyReg_force (hc : s.rf .dbgTrig 2 4 ≠ 0) (hraw : s.rawReg .dbgTrig 0 .steward < 2 ^ 64) :
    s.applyReg .steward .dbgTrig 0 (2 ^ 64 - 1) (s.rawReg .dbgTrig 0 .steward ||| 2) 0xC00000 = s.trigger .steward 1 := by
  have hnamed : (s.rawReg .dbgTrig 0 .steward ||| 2) &&& (2 ^ 64 - 1) = s.rawReg .dbgTrig 0 .steward ||| 2 := by
    rw [Nat.and_two_pow_sub_one_eq_mod, Nat.mod_eq_of_lt (Nat.or_lt_two_pow hraw (by decide))]
  have hsame := masked_write_same (rw := rwMask .dbgTrig 0 &&& (2 ^ 64 - 1)) (x := 2) hraw (by decide) (by decide)
  have hforce : bitsOf (s.rawReg .dbgTrig 0 .steward ||| 2) 1 1 = 1 := by
    have hbit : (s.rawReg .dbgTrig 0 .steward ||| 2).testBit 1 = true := by
      rw [Nat.testBit_or, Nat.testBit_two_pow_self (n := 1), Bool.or_true]
    simpa [bitsOf, Nat.testBit_eq_decide_div_mod_eq] using hbit
  have hbad : s.stateBad .steward .dbgTrig (s.rawReg .dbgTrig 0 .steward) (s.rawReg .dbgTrig 0 .steward) = false := by
    have hnone : (bitsOf (s.rawReg .dbgTrig 0 .steward) 2 4 == 0) = false := by simpa [State.rf] using hc
    simp only [State.stateBad, hnone, Bool.and_false]
  have hcopy : copyOf .dbgTrig .steward = .steward := rfl
  simp only [State.applyReg, hcopy, hnamed, hsame, hbad]
  simp [State.fieldBad, chainOff, State.writeEffect, hforce]

/-- FORCE of a port with a condition is a condition met. -/
theorem execForce_of_condition (hs : s.serves .steward = true) (hc : s.rf .dbgTrig 2 4 ≠ 0)
    (hraw : s.rawReg .dbgTrig 0 .steward < 2 ^ 64) : execForce .steward s = .next ((s.accessing .steward).trigger .steward 1) := by
  obtain ⟨hopen, -, -, -⟩ := State.serves_iff.1 hs
  have hreg : regAt 0xC00000 = some ⟨{ reg := .dbgTrig, base := 0xC00000, bytes := 8, perPort := true }, 0, 0⟩ := by decide
  have hlt : (s.rawReg .dbgTrig 0 .steward ||| 2) % 2 ^ 64 = s.rawReg .dbgTrig 0 .steward ||| 2 :=
    Nat.mod_eq_of_lt (Nat.or_lt_two_pow hraw (by decide))
  rw [execForce, regRow, if_pos hopen, State.busWrite_eight (by decide) (by decide), hlt,
    State.write64_reg _ hreg (by decide) rfl rfl (State.serves_served hs _), State.portWrite_steward,
    State.putReg_apply _ _ _ _ _ _ rfl]
  exact congrArg _ (State.applyReg_force hc hraw)

/-- While the records after a trigger are counted, FORCE leaves the registers, ARM among them. -/
theorem execForce_of_counting (hs : s.serves .steward = true) (hc : s.rf .dbgTrig 2 4 ≠ 0)
    (hraw : s.rawReg .dbgTrig 0 .steward < 2 ^ 64) (ht : s.steward.triggered = true) (hon : s.sluiceOn .steward = true) :
    ∃ t, execForce .steward s = .next t ∧ t.regs = s.regs :=
  ⟨_, execForce_of_condition hs hc hraw, State.regs_trigger_of_counting (s := s.accessing .steward) (p := .steward) ht hon 1⟩

/-! ### A port armed again while it counts -/

/-- A device past READY whose steward port's sluice records: a trigger has come, five records after it are still to be counted,
and the host has set ARM again, with the failing completion as its condition. -/
def rearmed : State :=
  { pwrok := true, rstHigh := true, boot := { stage := 7 }, power := { state := 1 },
    steward := { linkUp := true, perstHigh := true, triggered := true, post := some 5 },
    regs := [({ reg := .dbgSluiceCfg }, 1), ({ reg := .dbgTrig }, 0x11)] }

theorem rearmed_serves : rearmed.serves .steward = true := by decide

/-- Refutes O41: its clause on FORCE leaves out a trigger before. In `rearmed` the records after one are counted, so a FORCE starts
nothing anew and ARM stays set (R379; log entry 105), though each hypothesis of the clause holds. -/
theorem not_registerCommandsTakeEffect : ¬ Obligations.RegisterCommandsTakeEffect := by
  intro h
  have hcond : rearmed.rf .dbgTrig 2 4 ≠ 0 := by decide
  have hraw : rearmed.rawReg .dbgTrig 0 .steward < 2 ^ 64 := by decide
  obtain ⟨-, -, -, -, -, -, -, -, -, -, -, -, -, hforce, -⟩ := h rearmed rearmed_serves
  obtain ⟨t, ht, -, hcleared, -⟩ := hforce (by decide) hcond hraw
  obtain ⟨u, hu, hregs⟩ := execForce_of_counting rearmed_serves hcond hraw (by decide) (by decide)
  obtain rfl : t = u := Host.Outcome.next.inj (ht.symm.trans hu)
  rw [State.rfp, State.rawReg_congr hregs] at hcleared
  have harmed : bitsOf (rearmed.rawReg .dbgTrig 0 .steward) 0 1 = 1 := by decide
  omega

end Sys2Proof.Machine
end

section
/-! SUPPORT. PRECONDITIONING and NORM_CHECK: what each step comes to once its condition holds, the decision on the norm among them
(R169, R193, R194; O25). -/

namespace Sys2Proof.Machine

variable {s : State} {g : GranStep} {q word n : Word} {tag op : Nat}

/-! ### PRECONDITIONING (R169) -/

/-- The next object of the routing order, with neither a fold nor the seal to wait for, is preconditioned. -/
theorem execPreconditioning_of_next {obj : Nat} {o : Obj} (hg : s.gran = some g)
    (ha : g.active = some (q, tag, op, word, .precondition)) (ho : tget s.objects obj = some o)
    (hnext : (s.precondLeft g).head? = some obj) (hfold : s.foldsWaiting obj = false) (hseal : s.curv.sealing = none)
    (hexch : ((s.group.flights ++ s.group.queue).any fun f => f.desc.opcode == 0 && (f.code == 9 || f.code == 6)) = false) :
    execPreconditioning obj s = .next (s.precondition o g.step).granAdvance := by
  simp only [execPreconditioning, hg, ha, ho]
  exact if_pos (by simp only [hnext, hfold, hseal, hexch, BEq.rfl, Option.isSome_none, Bool.or_self, Bool.not_false, Bool.and_self])

/-! ### The decision on the norm (R194) -/

/-- A finite norm within the bound ends a NORM and lets any other update go on to its apply; every other norm skips the step. -/
theorem State.granDecide_of_gran {bound : Word} (hg : s.gran = some g)
    (hbound : bound = if word = 0 then BitVec.ofNat 32 (s.rawReg .grnNormBound 0 .steward) else word) :
    s.granDecide g op word n =
      if f32Finite n && f32Le n bound then
        let k : State := { s with gran := some { g with norm := some n, passed := true } }
        if op = 1 then k.granEnd stDone 0 n else (k.setGranPhase .apply).applyBegin
      else s.granSkip g n bound := by
  subst hbound
  simp only [State.granDecide, hg, Option.map_some]

/-! ### NORM_CHECK (R193) -/

/-- A norm the exchange has given is decided on as it is. -/
theorem execNormCheck_of_known (hg : s.gran = some g) (ha : g.active = some (q, tag, op, word, .norm))
    (hleft : s.normsWaiting = false) (hn : g.norm = some n) : execNormCheck s = .next (s.granDecide g op word n) := by
  simp only [execNormCheck, hg, ha, hleft, hn, Bool.false_eq_true, if_false]

/-- Alone, or outside its cut, a device decides on the root of its own sum. -/
theorem execNormCheck_of_own (hg : s.gran = some g) (ha : g.active = some (q, tag, op, word, .norm))
    (hleft : s.normsWaiting = false) (hn : g.norm = none) (hown : g.group = false ∨ s.inCut (s.rf .colCfg 15 4) = false) :
    execNormCheck s = .next (s.granDecide g op word (f32Sqrt (combine (s.stackList.map fun k => (s.granary k).acc)).hi)) := by
  have hshare : (g.group && s.inCut (s.rf .colCfg 15 4)) = false := Bool.and_eq_false_iff.2 hown
  simp only [execNormCheck, hg, ha, hleft, hn, hshare, Bool.false_eq_true, if_false]

/-- In a group update a member of the cut first exchanges its sum. -/
theorem execNormCheck_of_member (hg : s.gran = some g) (ha : g.active = some (q, tag, op, word, .norm))
    (hleft : s.normsWaiting = false) (hn : g.norm = none) (hgroup : g.group = true) (hcut : s.inCut (s.rf .colCfg 15 4) = true)
    (hexch : s.exchanging 0 5 0 0 = false) :
    execNormCheck s = .next (s.exchange g.ctx 0 5 (BitVec.ofNat 32 g.step) 0 0 (s.rf .colCfg 15 4)
      (pairBytes (combine (s.stackList.map fun k => (s.granary k).acc)))) := by
  simp only [execNormCheck, hg, ha, hleft, hn, hgroup, hcut, hexch, Bool.and_self, Bool.false_eq_true, if_false, if_true]

/-- Settles O25: PRECONDITIONING takes the next object; NORM_CHECK decides on the norm it knows or on its own sum, and a member of
the cut exchanges that sum first. -/
theorem preconditioningAndNormCheckGoOn : Obligations.PreconditioningAndNormCheckGoOn := by
  refine ⟨fun s g obj o q tag op w hg ha ho hnext hfold hseal hexch =>
      execPreconditioning_of_next hg ha ho hnext hfold hseal hexch,
    fun s g q tag op w n bound hg ha hleft hn hbound => ?decides,
    fun s g q tag op w hg ha hleft hn hgroup hcut hexch => execNormCheck_of_member hg ha hleft hn hgroup hcut hexch⟩
  case decides =>
    have hcheck : execNormCheck s = .next (s.granDecide g op w n) := by
      rcases hn with hknown | ⟨hnone, hown, rfl⟩
      · exact execNormCheck_of_known hg ha hleft hknown
      · exact execNormCheck_of_own hg ha hleft hnone hown
    exact hcheck.trans (congrArg _ (State.granDecide_of_gran hg hbound))

end Sys2Proof.Machine
end

section
/-! SUPPORT. GRAN_STEP and GRAN_PROG: what each row comes to once its descriptor is accepted (R192, R195 to R199; O7). -/

namespace Sys2Proof.Machine

variable {s : State} {c : Nat} {d : Desc}

/-! ### GRAN_STEP (R196, R199) -/

/-- An update with entries seals its step, unless it is sealed, and goes on from its first phase. -/
theorem State.startUpdate_of_entries {k : State} (hn : granCount d ≠ 0)
    (hk : k = if (s.markGran c d).isSealed c (granStepNo d) then s.markGran c d else (s.markGran c d).sealStep c (granStepNo d)) :
    s.startUpdate c d = ({ k with gran := some (s.granRecord c d (s.granEntries c d)) } : State).granAdvance := by
  subst hk
  exact if_neg hn

theorem State.startGranStepApply_of_entries (hn : granCount d ≠ 0) :
    s.startGranStepApply c d = ({ s.markGran c d with gran := (s.markGran c d).gran.map fun (g : GranStep) => { g with
      entries := g.entries.map fun (e : GranEntry) => ((s.granEntries c d).find? fun x => x.obj == e.obj).getD e,
      listed := (s.granEntries c d).map (·.obj), lastSlice := d.f 3 10 1 == 1,
      active := some (d.seq, d.tag, 2, d.w8, .apply) } } : State).applyBegin :=
  if_neg hn

theorem State.startGranStepDiscard_of_entries {es : List GranEntry} (hn : granCount d ≠ 0)
    (hes : es = (s.granEntries c d).filter fun e => s.entrySealed c (granStepNo d) e) :
    s.startGranStepDiscard c d = ((es.foldl (fun s e => s.releaseBuf e.obj) s).ctxEvent 0x0201 0 c
      [BitVec.ofNat 32 (granStepNo d), BitVec.ofNat 32 (granStepNo d / 2 ^ 32), BitVec.ofNat 32 es.length]).finish c d stDone 0 0 := by
  subst hes
  exact if_neg hn

/-- On an empty list the four functions of GRAN_STEP do the same (R199). -/
theorem State.startOf_granStep_of_empty {r : DescRow} (hn : granCount d = 0)
    (hr : r ∈ [DescRow.granStepFull, .granStepNorm, .granStepApply, .granStepDiscard]) :
    s.startOf c d r = (s.markGran c d).finish c d stDoneEmpty 0 0 := by
  simp only [List.mem_cons, List.not_mem_nil, or_false] at hr
  rcases hr with rfl | rfl | rfl | rfl <;> exact if_pos hn

theorem descRow_granStep_of_empty {r : DescRow} (h : s.admits c d r = true) (hn : granCount d = 0)
    (hr : r ∈ [DescRow.granStepFull, .granStepNorm, .granStepApply, .granStepDiscard]) :
    descRow r c d s = .next (((s.accepted c d).markGran c d).finish c d stDoneEmpty 0 0) :=
  (descRow_admits h).trans (congrArg _ (State.startOf_granStep_of_empty hn hr))

/-! ### GRAN_PROG (R192) -/

theorem State.ctxD_modCtx (hc : (s.ctx? c).isSome = true) (f : Ctx → Ctx) : (s.modCtx c f).ctxD c = f (s.ctxD c) := by
  obtain ⟨x, hx⟩ := Option.isSome_iff_exists.1 hc
  have hmod : (s.modCtx c f).ctx? c = some (f x) := by rw [State.ctx?_modCtx, if_pos rfl, hx, Option.map_some]
  rw [State.ctxD_of_ctx? hmod, State.ctxD_of_ctx? hx]

theorem State.modCtx_modCtx (s : State) (c : Nat) (f g : Ctx → Ctx) : (s.modCtx c f).modCtx c g = s.modCtx c fun x => g (f x) := by
  simp only [State.modCtx, tmod_tmod]

/-- Which recipe slots are in use depends on the GRAN_STEP in progress alone. -/
theorem State.slotInUse_of_gran_eq {t : State} (h : t.gran = s.gran) (slot : Nat) : t.slotInUse c slot = s.slotInUse c slot := by
  rw [State.slotInUse, State.slotInUse, h]

theorem State.slotInUse_accepted (slot : Nat) : (s.accepted c d).slotInUse c slot = s.slotInUse c slot := by
  obtain ⟨-, -, -, -, -, -, -, -, -, -, -, -, -, -, -, hgran, -⟩ := accepted_same s c d
  exact State.slotInUse_of_gran_eq hgran slot

/-- The load joins those of its context; those whose slot is free go into their slots and complete. -/
theorem State.startGranProg_of_ctx {k : State} {loads free : List (Word × Nat × List Word)} (hc : (s.ctx? c).isSome = true)
    (hloads : loads = (s.ctxD c).recipeLoads ++ [(d.seq, d.f 2 0 4, s.granProgWords c d)])
    (hfree : free = loads.filter fun l => !s.slotInUse c l.2.1)
    (hk : k = s.modCtx c fun x => { x with
      recipeLoads := loads.filter fun l => s.slotInUse c l.2.1, recipes := free.foldl (fun t l => tset t l.2.1 l.2.2) x.recipes }) :
    s.startGranProg c d = free.foldl (fun s l => s.completeSeq c l.1 stDone 0 0) k := by
  have hslot (f : Ctx → Ctx) (slot : Nat) : (s.modCtx c f).slotInUse c slot = s.slotInUse c slot :=
    State.slotInUse_of_gran_eq rfl slot
  simp only [State.startGranProg, State.recipesSettle, State.ctxD_modCtx hc, State.modCtx_modCtx, hslot, Bool.not_not, hk, hfree, hloads]

/-- Settles O7: each row starts once its descriptor is admitted; the empty list is one case of all four functions, and acceptance
leaves the context defined and its slots in use as they were. -/
theorem updatesBeginAndProgramsLoad : Obligations.UpdatesBeginAndProgramsLoad := by
  refine ⟨fun s k c d hn hk => ⟨fun h => ?full, fun h => ?norm⟩, fun s k c d h hn hk => ?apply,
    fun s c d es h hn hes => ?discard, fun s c d hn => ?empty, fun s k c d loads free h hloads hfree hk => ?prog⟩
  case full | norm => exact (descRow_admits h).trans (congrArg _ (State.startUpdate_of_entries hn hk))
  case apply =>
    subst hk
    exact (descRow_admits h).trans (congrArg _ (State.startGranStepApply_of_entries hn))
  case discard => exact (descRow_admits h).trans (congrArg _ (State.startGranStepDiscard_of_entries hn hes))
  case empty =>
    exact ⟨fun h => descRow_granStep_of_empty h hn (by decide), fun h => descRow_granStep_of_empty h hn (by decide),
      fun h => descRow_granStep_of_empty h hn (by decide), fun h => descRow_granStep_of_empty h hn (by decide)⟩
  case prog =>
    have hc := (SettingsKept.accepted s c d).isSome (State.isSome_ctx?_of_admits h)
    simp only [← State.slotInUse_accepted (s := s) (c := c) (d := d)] at hfree hk
    exact (descRow_admits h).trans (congrArg _ (State.startGranProg_of_ctx hc hloads hfree hk))

end Sys2Proof.Machine
end

section
/-! SUPPORT. Places of memory transactions, weirs, granary chunks and samples: what each step comes to once something waits for it
(R182, R269, R328, R371, R372; O21). -/

namespace Sys2Proof.Machine

variable {s : State}

theorem execTransactionPlace_of_first {m : MemReq} (hm : firstMin (fun m => s.prio m.ctx) (s.asking.filter s.hasPlace) = some m) :
    execTransactionPlace s = .next { s with asking := s.asking.erase m, outstanding := s.outstanding ++ [m] } := by
  simp only [execTransactionPlace, hm]

/-- The first transaction held at a weir that is open or in credit passes it. -/
theorem execWeirPass_of_credit {c w : Nat} {m : MemReq} (hc : c < 256) (hw : w < 4)
    (hm : s.held.find? (fun m => m.ctx == c && m.weir == w) = some m) (hcredit : s.weirRate c w = 0 ∨ 0 ≤ s.bucket c w) :
    execWeirPass c w s = .next (({ s with held := s.held.erase m, asking := s.asking ++ [m] } : State).charge c w m.bytes) := by
  have hunit : ¬(256 ≤ c ∨ 4 ≤ w) := by omega
  simp only [execWeirPass, if_neg hunit, hm, if_pos hcredit]

/-- A granary with an item to work on takes its next chunk. -/
theorem execGranaryChunk_of_pick {k : State} {st : Nat} {i : Item} (hst : st < 12) (hi : s.granaryPick st = some i)
    (hk : k = ((s.chunkRequests st i (i.todo.take chunkBlocks)).foldl (fun s m => s.weirEnter m)
      (s.workUnits st i (i.todo.take chunkBlocks))).modGranary st fun g => g.took i) :
    execGranaryChunk st s = .next (if (i.todo.drop chunkBlocks).isEmpty then k.workDone i else k) := by
  simp only [execGranaryChunk, if_neg (Nat.not_le.2 hst), hi, hk]

theorem execSample_of_sampled {a latency stall addr seg : Nat} {mk : Word} {rest : List (Nat × Nat × Word)} (ha : a < 96)
    (hs : (s.arr a).sampled = (addr, seg, mk) :: rest) :
    execSample a latency stall s =
      .next ((s.modArr a fun x => { x with sampled := rest }).sampleRecord a 0 1 addr seg mk latency stall) := by
  simp only [execSample, if_neg (Nat.not_le.2 ha), hs]

/-- Settles O21: each of the four steps takes what its queue offers first. -/
theorem queuesMoveOn : Obligations.QueuesMoveOn :=
  ⟨fun _ _ hm => execTransactionPlace_of_first hm, fun _ _ _ _ hc hw hm hcredit => execWeirPass_of_credit hc hw hm hcredit,
    fun _ _ _ _ hst hi hk => execGranaryChunk_of_pick hst hi hk, fun _ _ _ _ _ _ _ _ ha hs => execSample_of_sampled ha hs⟩

end Sys2Proof.Machine
end

section
/-! SUPPORT. Descriptors turned away: what a row does with one that fails the SEQ check, its own checks or CHAIN, and what that means
for its transaction (R217, R293, R294; O48). -/

namespace Sys2Proof.Machine

variable {s : State} {c : Nat} {d : Desc} {r : DescRow}

/-! ### The row and the order of its ring (R293, R294) -/

theorem descRow_of_descOf (h : descOf r c d = true) : descRow r c d s = .next (s.submit c d) := by
  simp only [descOf, Bool.and_eq_true, decide_eq_true_eq, beq_iff_eq] at h
  obtain ⟨hc, hrow⟩ := h
  rw [descRow, if_neg (Nat.not_le.2 hc), if_pos hrow]

/-- A descriptor that fails the SEQ check waits for its context and a place in the completion ring alone. -/
theorem Ctx.mustWait_of_failed {x : Ctx} (hclosed : x.closed = false) (hfull : x.ringFull = false) : x.mustWait d true = false := by
  simp only [Ctx.mustWait, hclosed, hfull, Bool.not_true, Bool.false_and, Bool.or_self]

/-- The front descriptor is rejected with the reason for which it is turned away. -/
theorem State.takeUp_of_turnedAway {x : Ctx} {failed : Bool} {status detail : Nat}
    (h : x.turnedAway d failed = some (status, detail)) :
    s.takeUp c x d failed = (s.reject c d status detail).memberRejected c d status detail := by
  rw [State.takeUp, h, Option.some_or]

theorem Ctx.turnedAway_of_failed (x : Ctx) : x.turnedAway d true = some (stFormat, dSeqOrder) := if_pos rfl

theorem Ctx.turnedAway_of_chainBroken {x : Ctx} (hm : x.mode = .resident) (hb : x.chainBroken d = true) :
    x.turnedAway d false = some (stLimit, dChainBroken) := by
  simp [Ctx.turnedAway, hm, hb]

/-! ### What a rejection means for the transaction (R217) -/

/-- A descriptor that fails the SEQ check joins nothing. -/
theorem State.memberRejected_of_seqOrder (s : State) (c : Nat) (d : Desc) (status : Nat) :
    s.memberRejected c d status dSeqOrder = s := by
  rw [State.memberRejected]
  split
  · rfl
  · simp only [bne_self_eq_false, Bool.and_false, Bool.false_and, Bool.false_eq_true, if_false]

/-- Any status but those of a format and of a limit leaves the transaction. -/
theorem State.memberRejected_of_status {status : Nat} (hf : status ≠ stFormat) (hl : status ≠ stLimit) (detail : Nat) :
    s.memberRejected c d status detail = s := by
  rw [State.memberRejected]
  split
  · rfl
  · simp only [beq_false_of_ne hf, beq_false_of_ne hl, Bool.or_self, Bool.and_false, Bool.false_eq_true, if_false]

/-- A member rejected before the TXN_COMMIT, for a limit other than its SEQ, aborts its open transaction. -/
theorem State.memberRejected_of_member {t : Txn} {detail : Nat} (ht : s.txn? c d.tag = some t) (hm : isTxnMember d = true)
    (ho : t.isOpen = true) (hc : t.commitSeq = none) (hd : detail ≠ dSeqOrder) :
    s.memberRejected c d stLimit detail = s.abortTxn c d.tag dMemberFail none := by
  simp only [State.memberRejected, ht, hm, ho, hc, Option.isNone_none, bne_iff_ne.2 hd, BEq.rfl, Bool.or_true, Bool.and_self, if_true]

/-! ### Submission (R293, R294) -/

theorem State.submit_of_verdict {st : Nat × Nat} (h : s.takesNow c d = true) (hv : (s.seqTaken c d).verdict c d = some st) :
    s.submit c d = ((s.seqTaken c d).reject c d st.1 st.2).memberRejected c d st.1 st.2 := by
  rw [State.submit_takesNow h, hv]

/-- A wrong SEQ is told before anything else, and the one expected stays as it was. -/
theorem State.submit_of_seqOrder (ht : s.taking c = true) (hh : (s.ctxD c).held = []) (hs : (s.ctxD c).seqOk d = false)
    (hclosed : (s.ctxD c).closed = false) (hfull : (s.ctxD c).ringFull = false) :
    s.submit c d = (s.modCtx c fun x => { x with active := true }).reject c d stFormat dSeqOrder := by
  obtain ⟨x, hx⟩ := State.ctx?_of_taking ht
  rw [State.ctxD_of_ctx? hx] at hh hs hclosed hfull
  have hw : x.mustWait d (!x.seqOk d) = false := by simpa [hs] using Ctx.mustWait_of_failed hclosed hfull
  rw [State.submit_admits ht hx hh hw]
  simp only [hs, Bool.not_false, Bool.false_eq_true, if_false]
  rw [State.takeUp_of_turnedAway (Ctx.turnedAway_of_failed _), State.memberRejected_of_seqOrder]

/-- A broken chain is told before the checks of the descriptor itself. -/
theorem State.submit_of_chainBroken (ht : s.taking c = true) (hh : (s.ctxD c).held = []) (hs : (s.ctxD c).seqOk d = true)
    (hm : (s.ctxD c).mode = .resident) (hw : (s.ctxD c).mustWait d false = false) (hb : (s.ctxD c).chainBroken d = true) :
    s.submit c d = ((s.seqTaken c d).reject c d stLimit dChainBroken).memberRejected c d stLimit dChainBroken := by
  obtain ⟨x, hx⟩ := State.ctx?_of_taking ht
  rw [State.ctxD_of_ctx? hx] at hh hs hm hw hb
  rw [State.submit_admits ht hx hh (by simpa [hs] using hw)]
  simp only [hs, Bool.not_true, if_true]
  rw [State.takeUp_of_turnedAway (Ctx.turnedAway_of_chainBroken (by exact hm) (by exact hb)), State.seqTaken]

/-- Settles O48: the row submits its descriptor, which is turned away for the first reason that holds; only a format or a limit, and
never the SEQ, reaches its transaction. -/
theorem rejectedDescriptorsComplete : Obligations.RejectedDescriptorsComplete := by
  refine ⟨fun s k c d r st hd ht hv hk => ⟨?checks, fun hf hl => State.memberRejected_of_status hf hl _⟩,
    fun s c d r hd ht hh hs hclosed hfull => ?order, fun s k c d r hd ht hh hs hm hw hb hk => ?chain,
    fun k c d t ht hm ho hc => State.memberRejected_of_member ht hm ho hc (by decide)⟩
  all_goals refine (descRow_of_descOf hd).trans (congrArg _ ?_)
  case checks => rw [State.submit_of_verdict ht hv, hk]
  case order => exact State.submit_of_seqOrder ht hh hs hclosed hfull
  case chain => rw [State.submit_of_chainBroken ht hh hs hm hw hb, hk]

end Sys2Proof.Machine
end

section
/-! SUPPORT. TXN_BEGIN, TXN_COMMIT and TXN_ABORT: what passing the checks of a row says of the descriptor, what its acceptance leaves of
the transactions, and what each row does (R204, R213, R214, R217; O8). -/

namespace Sys2Proof.Machine

variable {s : State} {c : Nat} {d : Desc} {r : DescRow}

/-! ### No member of a transaction (R214) -/

theorem firstBad_cons_eq_none {b : Bool} {n : Nat} {l : List (Bool × Nat)} :
    firstBad ((b, n) :: l) = none ↔ b = false ∧ firstBad l = none := by
  cases b <;> simp [firstBad]

theorem State.fmt_of_judge {b : Bool} {k : Checks} (h : s.judge c d b k = none) : k.fmt = none := by
  unfold State.judge at h
  split at h
  · cases h
  split at h
  · cases h
  next hfmt => exact (Option.or_eq_none_iff.1 hfmt).2

/-- An admitted descriptor passes the format checks of its row. -/
theorem State.fmt_of_admits (h : s.admits c d r = true) : ((s.seqTaken c d).checksOf c d r).fmt = none := by
  have hrow := row_of_admits h
  simp only [State.admits, Bool.and_eq_true, beq_iff_eq] at h
  obtain ⟨-, hverdict⟩ := h
  rw [State.verdict] at hverdict
  split at hverdict
  · cases hverdict
  · rw [hrow] at hverdict
    exact State.fmt_of_judge hverdict

/-- The transaction descriptors are members of none. -/
theorem Desc.inTxn_of_admits (h : s.admits c d r = true) (hr : r ∈ [DescRow.txnBegin, .txnCommit, .txnAbort]) : d.inTxn = false := by
  have hfmt := State.fmt_of_admits h
  simp only [List.mem_cons, List.not_mem_nil, or_false] at hr
  rcases hr with rfl | rfl | rfl <;>
    simp only [State.checksOf, State.checkTxnBegin, State.checkTxnCommit, State.checkTxnAbort, firstBad_cons_eq_none] at hfmt <;>
    exact hfmt.1

/-! ### What acceptance leaves of the transactions -/

theorem Reported.txns {s t : State} (h : Reported s t) : t.txns = s.txns := by
  obtain ⟨a, b, r, q, m, n, rfl⟩ := h
  rfl

/-- A descriptor that is no member is accepted without a change of any transaction. -/
theorem State.txns_accepted (h : d.inTxn = false) : (s.accepted c d).txns = s.txns := by
  simp only [State.accepted, State.accept, h, Bool.false_eq_true, if_false]
  rw [(Reported.sluice ..).txns, State.pulse_txns]
  rfl

theorem State.txn?_accepted (h : d.inTxn = false) (tag : Nat) : (s.accepted c d).txn? c tag = s.txn? c tag := by
  rw [State.txn?, State.txn?, State.txns_accepted h]

theorem State.txnCount_accepted (s : State) (c : Nat) (d : Desc) : (s.accepted c d).txnCount = s.txnCount := by
  obtain ⟨v, y, ⟨u, x, ⟨a, b, r, q, m, n, rfl⟩, rfl⟩, e⟩ := accepted_frame s c d
  rw [e]

/-! ### The three rows (R204, R213, R217) -/

theorem State.startTxnCommit_of_open {t : Txn} (ht : s.txn? c d.tag = some t) (ho : t.isOpen = true) :
    s.startTxnCommit c d = s.setTxn { t with
      phase := .committing, commitSeq := some d.seq, digests := d.f 2 0 1 == 1, digestAddr := d.w64 3, digestMax := d.f 5 0 16 } := by
  rw [State.startTxnCommit, ht]
  cases hphase : t.phase with
  | aborted e => simp [Txn.isOpen, hphase] at ho
  | opened | committing | prepared | voted => simp only [hphase]

theorem State.startTxnCommit_of_aborted {t : Txn} {e : BitVec 16} (ht : s.txn? c d.tag = some t) (he : t.phase = .aborted e) :
    s.startTxnCommit c d = ({ s with txns := s.txns.filter fun x => !(x.ctx == c && x.tag == d.tag) } : State).finish c d
      stAbortedTxn e.toNat 0 := by
  simp only [State.startTxnCommit, ht, he]

/-- Settles O8: each row starts once its descriptor is admitted; none of the three is a member, so acceptance leaves the transactions
as they were. -/
theorem transactionsOpenAndClose : Obligations.TransactionsOpenAndClose := by
  refine ⟨fun s c d t h hg ht => ?alone, fun s c d t h hg ht => ?group, fun s c d t h ht ho => ?commit,
    fun s c d t e h ht he => ?aborted, fun s k c d h hk => ?abort⟩
  all_goals
    have hout := Desc.inTxn_of_admits h (by decide)
    refine (descRow_admits h).trans (congrArg _ ?_)
    dsimp only [State.startOf]
  case alone | group =>
    simp only [State.startTxnBegin, hg, State.txns_accepted hout, State.txnCount_accepted, ht, if_true, Bool.false_eq_true, if_false]
  case commit => exact State.startTxnCommit_of_open ((State.txn?_accepted hout _).trans ht) ho
  case aborted =>
    rw [State.startTxnCommit_of_aborted ((State.txn?_accepted hout _).trans ht) he, State.txns_accepted hout]
  case abort => rw [State.startTxnAbort, hk]

end Sys2Proof.Machine
end

section
/-! SUPPORT. COMMIT_PREPARE, COMMIT_POINT, VOTE_TIMEOUT and GROUP_VOTE: what each step comes to once its condition holds (R215, R216,
R218, R221; O26). -/

namespace Sys2Proof.Machine

variable {s : State} {c tag : Nat} {t : Txn}

/-! ### The commit of one transaction (R215, R216) -/

theorem execCommitPrepare_of_done (ht : s.txn? c tag = some t) (hp : t.phase = .committing) (hr : t.ready = false)
    (hm : s.membersDone t = true) :
    execCommitPrepare c tag s = .next ((s.setTxn { t with ready := true, formed := s.formDigests t }).rowsAdvance c tag) := by
  simp [execCommitPrepare, ht, hp, hr, hm]

/-- Rows 3 and 4 are for a commit that has not prepared. -/
theorem State.rowsAdvance_of_phase (ht : s.txn? c tag = some t) (hp : t.phase ≠ .committing) : s.rowsAdvance c tag = s := by
  simp only [State.rowsAdvance, ht, hp, false_and, if_false]

theorem execCommitPoint_of_passed (ht : s.txn? c tag = some t)
    (hp : t.phase = .voted ∨ t.phase = .prepared ∧ t.group = false) (hslots : s.slotsFree t = true)
    (hframe : t.atFrame = false ∨ t.frame ≤ s.cad.frame.toNat) : execCommitPoint c tag s = .next (s.commitNow t) := by
  have hphase : t.phase ≠ .committing := by rcases hp with hp | ⟨hp, -⟩ <;> simp [hp]
  have hpassed : (t.phase == .voted || (t.phase == .prepared && !t.group)) = true := by
    rcases hp with hp | ⟨hp, hg⟩
    · simp [hp]
    · simp [hp, hg]
  have hbegun : (!t.atFrame || decide (t.frame ≤ s.cad.frame.toNat)) = true := by simpa using hframe
  simp only [execCommitPoint, State.rowsAdvance_of_phase ht hphase, ht, hpassed, hslots, hbegun, Bool.and_self, if_true]

theorem execVoteTimeout_of_late (ht : s.txn? c tag = some t) (hg : t.group = true) (hp : t.phase = .prepared)
    (hlate : t.voteBy ≤ s.now) : execVoteTimeout c tag s = .next (s.abortTxn c tag dGroupVote none) := by
  simp only [execVoteTimeout, ht]
  exact if_pos ⟨hg, hp, hlate⟩

/-! ### A peer's vote (R221) -/

/-- A transaction that was found is found again as it was set. -/
theorem State.txn?_setTxn {t n : Txn} (h : s.txn? n.ctx n.tag = some t) : (s.setTxn n).txn? n.ctx n.tag = some n := by
  have hkey : ((fun x : Txn => x.ctx == n.ctx && x.tag == n.tag) ∘ fun x => if x.ctx == n.ctx && x.tag == n.tag then n else x) =
      fun x => x.ctx == n.ctx && x.tag == n.tag := by
    funext x
    simp only [Function.comp_apply]
    split
    · simp [*]
    · rfl
  have hfound : s.txns.find? (fun x => x.ctx == n.ctx && x.tag == n.tag) = some t := h
  rw [State.txn?, State.setTxn, List.find?_map, hkey, hfound, Option.map_some, if_pos (List.find?_some hfound)]

/-- The transaction that a rank's vote for a key is for: an open one of the group with that key, whose vote is not past and has the
rank among its voters. -/
def State.votedOn (s : State) (rank : Nat) (key : Word) : Option Txn :=
  s.txns.find? fun t => t.isOpen && t.group && t.key == key && !t.pastVote && (s.voters t).contains rank

/-- Hearing of a rank changes no transaction's voters. -/
theorem State.voters_heard {j : State} {rank : Nat} (hj : j = { s with group := s.group.heard rank }) (u : Txn) :
    j.voters u = s.voters u := by
  rw [hj]
  rfl

section
variable {rank : Nat} {key : Word} {commit : Bool} {j : State} (hr : rank ≠ s.ownRank) (hv : s.rankValid rank = true)
  (hon : s.collOn = true) (hopen : s.portOpen s.peerPort = true)
include hr hv hon hopen

/-- A vote of a valid rank other than the own is heard over an open link while the engine runs. -/
theorem groupVote_heard : ¬(rank = s.ownRank ∨ !s.rankValid rank ∨ !s.collOn ∨ !s.portOpen s.peerPort) := by
  simp [hr, hv, hon, hopen]

/-- A vote to commit is added, and with the last one a prepared transaction goes on to row 5. -/
theorem execGroupVote_of_commit {n : Txn} (hj : j = { s with group := s.group.heard rank }) (hf : s.votedOn rank key = some t)
    (ht : s.txn? t.ctx t.tag = some t)
    (hn : n = { t with votes := if t.votes.contains rank then t.votes else t.votes ++ [rank] }) :
    execGroupVote rank key true s = .next (
      if t.phase = .prepared ∧ (s.voters t).all n.votes.contains then
        ((j.setTxn n).setTxn { n with phase := .voted }).rowFive { n with phase := .voted }
      else j.setTxn n) := by
  have hset : (j.setTxn n).txn? t.ctx t.tag = some n := by
    subst hj hn
    exact State.txn?_setTxn (n := { t with votes := _ }) ht
  have htake : j.takeVote t rank true = j.setTxn n := by
    rw [hn]
    rfl
  have hvoters : (j.setTxn n).voters n = s.voters t := by
    rw [hj, hn]
    rfl
  have hphase : n.phase = t.phase := by rw [hn]
  rw [State.votedOn] at hf
  simp only [execGroupVote, if_neg (groupVote_heard hr hv hon hopen), ← hj, State.voters_heard hj, hf, htake, hset, hvoters, hphase]
  split <;> rfl

/-- A vote to abort aborts the transaction. -/
theorem execGroupVote_of_abort (hj : j = { s with group := s.group.heard rank }) (hf : s.votedOn rank key = some t)
    (hu : ∀ u, (j.abortTxn t.ctx t.tag dGroupVote none).txn? t.ctx t.tag = some u → u.phase ≠ .prepared) :
    execGroupVote rank key false s = .next (j.abortTxn t.ctx t.tag dGroupVote none) := by
  have htake : j.takeVote t rank false = j.abortTxn t.ctx t.tag dGroupVote none := rfl
  rw [State.votedOn] at hf
  simp only [execGroupVote, if_neg (groupVote_heard hr hv hon hopen), ← hj, State.voters_heard hj, hf, htake]
  split
  · rfl
  next u hfind => rw [if_neg fun h => hu u hfind h.1]

/-- A vote that comes before its transaction is kept. -/
theorem execGroupVote_of_early (hnone : (s.txns.any fun t => t.group && t.key == key) = false) :
    execGroupVote rank key commit s = .next { s with group :=
      { s.group.heard rank with votes := s.group.votes ++ [(rank, key, commit)] } } := by
  have hf : s.votedOn rank key = none := by
    refine List.find?_eq_none.2 fun t ht => ?_
    have hother : ¬(t.group = true ∧ t.key = key) := by simpa using List.any_eq_false.1 hnone t ht
    simp only [Bool.and_eq_true, beq_iff_eq]
    rintro ⟨⟨⟨⟨-, hgroup⟩, hkey⟩, -⟩, -⟩
    exact hother ⟨hgroup, hkey⟩
  rw [State.votedOn] at hf
  simp only [execGroupVote, if_neg (groupVote_heard hr hv hon hopen), State.voters_heard (s := s) (rank := rank) rfl, hf, hnone,
    Bool.false_eq_true, if_false]
  rfl

end

/-- Settles O26: each step is taken by its one transaction; a vote heard is added to, aborts or comes before its own. -/
theorem commitsAndVotes : Obligations.CommitsAndVotes :=
  ⟨fun _ _ _ _ ht hp hr hm => execCommitPrepare_of_done ht hp hr hm,
    fun _ _ _ _ ht hp hslots hframe => execCommitPoint_of_passed ht hp hslots hframe,
    fun _ _ _ _ ht hg hp hlate => execVoteTimeout_of_late ht hg hp hlate,
    fun _ _ _ _ hr hv hon hopen hj =>
      ⟨fun _ _ hf ht hn => execGroupVote_of_commit hr hv hon hopen hj hf ht hn,
        fun _ hf hu => execGroupVote_of_abort hr hv hon hopen hj hf hu,
        fun _ hnone => execGroupVote_of_early hr hv hon hopen hnone⟩⟩

end Sys2Proof.Machine
end

section
/-! SUPPORT. SLV_STRUCT_LOAD, SLV_STRUCT_FREE, SLV_DELTA and SLV_BATCH: what each row comes to once its descriptor is accepted (R241,
R243 to R248, R260; O10). -/

namespace Sys2Proof.Machine

variable {s : State} {c : Nat} {d : Desc}

/-! ### What the solver's descriptors read after acceptance -/

theorem State.batches_accepted (s : State) (c : Nat) (d : Desc) : (s.accepted c d).batches = s.batches := by
  obtain ⟨-, -, -, -, -, -, -, -, -, -, hbatches, -⟩ := accepted_same s c d
  exact hbatches

theorem State.problems_accepted (s : State) (c : Nat) (d : Desc) : (s.accepted c d).problems = s.problems := by
  obtain ⟨-, -, -, -, -, -, -, -, -, hproblems, -⟩ := accepted_same s c d
  exact hproblems

/-- Which problems unfinished batches hold is not changed by acceptance. -/
theorem State.batchHolds_accepted (released : Bool) (ns : List Nat) :
    (s.accepted c d).batchHolds c released ns = s.batchHolds c released ns := by
  rw [State.batchHolds, State.batchHolds, State.batches_accepted]

theorem span_isEmpty_iff {first count : Nat} : (span first count).isEmpty = true ↔ count = 0 := by
  simp only [span, List.isEmpty_iff, List.map_eq_nil_iff, List.range_eq_nil]

theorem State.deltas_isEmpty_iff : ((s.deltaBytes c d).map deltaOf).isEmpty = true ↔ deltaCount d = 0 := by
  simp only [State.deltaBytes, List.isEmpty_iff, List.map_eq_nil_iff, List.range_eq_nil]

/-! ### SLV_STRUCT (R241, R243, R244) -/

/-- On an empty range LOAD and FREE do the same. -/
theorem State.startOf_slvStruct_of_empty {r : DescRow} (hn : structCount d = 0) (hr : r ∈ [DescRow.slvStructLoad, .slvStructFree]) :
    s.startOf c d r = s.finish c d stDoneEmpty 0 0 := by
  simp only [List.mem_cons, List.not_mem_nil, or_false] at hr
  rcases hr with rfl | rfl <;> exact if_pos (span_isEmpty_iff.2 hn)

/-- A batch that holds one of the problems makes LOAD and FREE wait alike. -/
theorem State.startOf_slvStruct_of_held {r : DescRow} (hn : structCount d ≠ 0)
    (hheld : s.batchHolds c false (span (structFirst d) (structCount d)) = true)
    (hr : r ∈ [DescRow.slvStructLoad, .slvStructFree]) : s.startOf c d r = s.setWait c d .window := by
  simp only [List.mem_cons, List.not_mem_nil, or_false] at hr
  rcases hr with rfl | rfl <;> exact (if_neg (mt span_isEmpty_iff.1 hn)).trans (if_pos hheld)

theorem State.startSlvStructLoad_of_free (hn : structCount d ≠ 0)
    (hheld : s.batchHolds c false (span (structFirst d) (structCount d)) = false) :
    s.startSlvStructLoad c d = ((s.structRecords c d).foldl (fun k r =>
      k.setProblem c r.num (r.load (structPlan d) ((k.classOf c (structPlan d) r.cls).getD default))) s).finish c d
        stDone 0 (BitVec.ofNat 32 ((s.structRecords c d).map (·.nent)).sum) :=
  (if_neg (mt span_isEmpty_iff.1 hn)).trans (if_neg (Bool.eq_false_iff.1 hheld))

theorem State.startSlvStructFree_of_free (hn : structCount d ≠ 0)
    (hheld : s.batchHolds c false (span (structFirst d) (structCount d)) = false) :
    s.startSlvStructFree c d = ({ s with
      problems := (span (structFirst d) (structCount d)).foldl (fun (t : Table Problem) n => tdel t (probKey c n)) s.problems }
      : State).finish c d stDone 0 0 :=
  (if_neg (mt span_isEmpty_iff.1 hn)).trans (if_neg (Bool.eq_false_iff.1 hheld))

/-! ### SLV_DELTA (R245 to R248) -/

theorem State.startSlvDelta_of_empty (hn : deltaCount d = 0) : s.startSlvDelta c d = s.finish c d stDoneEmpty 0 0 :=
  if_pos (State.deltas_isEmpty_iff.2 hn)

theorem State.startSlvDelta_of_entries {r : State × DeltaWait} (hn : deltaCount d ≠ 0)
    (hr : r = s.applyDeltas { ctx := c, seq := d.seq, left := (s.deltaBytes c d).map deltaOf }) :
    s.startSlvDelta c d = if r.2.left = [] then
        r.1.finish c d stDone 0 (BitVec.ofNat 32 (min r.2.skipped 65535 + 65536 * min r.2.sat 65535))
      else ({ r.1 with deltas := r.1.deltas ++ [r.2] } : State).setWait c d .window := by
  subst hr
  refine (if_neg (mt State.deltas_isEmpty_iff.1 hn)).trans ?_
  simp only [State.runDeltas, List.isEmpty_iff]

/-- What SLV_DELTA makes of one entry, after the state and the counts `a` that those before it left (R246, R247). -/
def State.deltaEntry (ctx : Nat) (a : State × DeltaWait) (e : Nat × Nat × Nat × Word × Nat) : State × DeltaWait :=
  if a.1.batchHolds ctx true [e.1] then (a.1, { a.2 with left := a.2.left ++ [e] })
  else match a.1.problem? ctx e.1 with
    | none => (a.1, { a.2 with skipped := a.2.skipped + 1 })
    | some p =>
      match p.delta e.2.1 e.2.2.1 e.2.2.2.1 e.2.2.2.2 with
      | none => (a.1, { a.2 with skipped := a.2.skipped + 1 })
      | some q => (a.1.setProblem ctx e.1 q.1, { a.2 with sat := a.2.sat + if q.2 then 1 else 0 })

/-- The entries are applied in their order: the last one to what those before it left. -/
theorem State.applyDeltas_concat {w : DeltaWait} {e : Nat × Nat × Nat × Word × Nat} {es : List (Nat × Nat × Nat × Word × Nat)}
    (hw : w.left = es ++ [e]) : s.applyDeltas w = State.deltaEntry w.ctx (s.applyDeltas { w with left := es }) e := by
  rw [State.applyDeltas, hw, List.foldl_concat]
  rfl

section
variable {ctx n kind idx elem : Nat} {v : Word} {a : State × DeltaWait}

theorem State.deltaEntry_of_held (h : a.1.batchHolds ctx true [n] = true) :
    State.deltaEntry ctx a (n, kind, idx, v, elem) = (a.1, { a.2 with left := a.2.left ++ [(n, kind, idx, v, elem)] }) :=
  if_pos h

theorem State.deltaEntry_of_unfit (h : a.1.batchHolds ctx true [n] = false)
    (hp : a.1.problem? ctx n = none ∨ ∃ p, a.1.problem? ctx n = some p ∧ p.delta kind idx v elem = none) :
    State.deltaEntry ctx a (n, kind, idx, v, elem) = (a.1, { a.2 with skipped := a.2.skipped + 1 }) := by
  rcases hp with hp | ⟨p, hp, hd⟩
  · simp only [State.deltaEntry, h, hp, Bool.false_eq_true, if_false]
  · simp only [State.deltaEntry, h, hp, hd, Bool.false_eq_true, if_false]

theorem State.deltaEntry_of_fit {p q : Problem} {sat : Bool} (h : a.1.batchHolds ctx true [n] = false)
    (hp : a.1.problem? ctx n = some p) (hd : p.delta kind idx v elem = some (q, sat)) :
    State.deltaEntry ctx a (n, kind, idx, v, elem) =
      (a.1.setProblem ctx n q, { a.2 with sat := a.2.sat + if sat then 1 else 0 }) := by
  simp only [State.deltaEntry, h, hp, hd, Bool.false_eq_true, if_false]

end

/-- Settles O10: each row starts once its descriptor is admitted, with the batches and problems as before; a delta's last entry meets
what those before it left. -/
theorem solverDescriptorsAct : Obligations.SolverDescriptorsAct := by
  refine ⟨fun s c d h hn hheld => ?load, fun s c d h hn hheld => ?free, fun s c d hn hheld => ?held, fun s c d => ?empty,
    fun s c d r h hn hr => (descRow_admits h).trans (congrArg _ (State.startSlvDelta_of_entries hn hr)),
    fun s w n kind idx elem v es hw => ?entry, fun s c d h hn => ?batch⟩
  case load =>
    rw [← State.batchHolds_accepted (d := d)] at hheld
    exact (descRow_admits h).trans (congrArg _ (State.startSlvStructLoad_of_free hn hheld))
  case free =>
    rw [← State.batchHolds_accepted (d := d)] at hheld
    rw [← State.problems_accepted s c d]
    exact (descRow_admits h).trans (congrArg _ (State.startSlvStructFree_of_free hn hheld))
  case held =>
    rw [← State.batchHolds_accepted (d := d)] at hheld
    exact ⟨fun h => (descRow_admits h).trans (congrArg _ (State.startOf_slvStruct_of_held hn hheld (by decide))),
      fun h => (descRow_admits h).trans (congrArg _ (State.startOf_slvStruct_of_held hn hheld (by decide)))⟩
  case empty =>
    exact ⟨fun h hn => (descRow_admits h).trans (congrArg _ (State.startOf_slvStruct_of_empty hn (by decide))),
      fun h hn => (descRow_admits h).trans (congrArg _ (State.startOf_slvStruct_of_empty hn (by decide))),
      fun h hn => (descRow_admits h).trans (congrArg _ (State.startSlvDelta_of_empty hn)),
      fun h hn => (descRow_admits h).trans (congrArg _ (if_pos hn))⟩
  case entry =>
    rw [State.applyDeltas_concat hw]
    exact ⟨State.deltaEntry_of_held, fun h => ⟨State.deltaEntry_of_unfit h, fun _ _ _ => State.deltaEntry_of_fit h⟩⟩
  case batch =>
    rw [← State.batches_accepted s c d]
    exact (descRow_admits h).trans (congrArg _ (if_neg hn))

end Sys2Proof.Machine
end

section
/-! SUPPORT. Batches and their problems: what BATCH_RELEASE, PROBLEM_START, SOLVER_FRAGMENT and DEADLINE come to once their conditions
hold (R238, R252, R253, R257, R258; O29). -/

namespace Sys2Proof.Machine

variable {s : State} {c n pair : Nat} {seq : Word} {b : Batch} {p : Problem} {r : SlvRun}

/-! ### BATCH_RELEASE (R257) -/

theorem execBatchRelease_of_ready {e : Batch} (hb : s.batchOf c seq = some b) (hready : s.batchReady b = true)
    (he : e = { b with released := true, expired := b.expired || s.deadlinePast b }) :
    execBatchRelease c seq s = .next (b.left.foldl (fun k n => k.releaseProblem e (s.deadlinePast b) n) (s.setBatch e)) := by
  subst he
  simp only [execBatchRelease, hb, hready, Bool.not_true, Bool.false_eq_true, if_false]

/-! ### PROBLEM_START (R238) -/

theorem execProblemStart_of_first (hpair : pair < 48) (hidle : s.pairForProblem c pair = true) (hfirst : s.firstFree c pair = true)
    (hmode : (s.ctxD c).mode = .resident) (hsusp : (s.ctxD c).suspended = false) (hhold : (s.ctxD c).onHold = false)
    (hnext : s.nextProblem c = some (b, n)) (hp : s.problem? c n = some p)
    (hr : r = if (p.run.getD {}).phase = .unstarted then
      { p.run.getD {} with phase := p.firstPhase, left := p.fragments p.firstPhase } else p.run.getD {}) :
    execProblemStart c pair s =
      .next ((s.setProblem c n { p with run := some r }).modPair pair fun x => { x with problem := some (c, n) }) := by
  subst hr
  simp only [execProblemStart, if_neg (Nat.not_le.2 hpair), hidle, hfirst, hmode, hsusp, hhold, hnext, hp, Bool.not_true,
    bne_self_eq_false, Bool.or_self, Bool.false_eq_true, if_false]

/-! ### SOLVER_FRAGMENT (R238, R251, R258) -/

/-- The end of one fragment, for a problem on a pair: it goes on, or ends where it has come to an outcome. -/
theorem execSolverFragment_of_run {j k : State} {e : Problem} {q : SlvRun} (hpair : s.problemPair c n = some pair)
    (hp : s.problem? c n = some p)
    (hb : s.batches.find? (fun b => b.ctx == c && b.released && b.left.contains n) = some b) (hr : p.run = some r)
    (hq : q = p.fragmentEnd r s.free) (he : e = { p with run := some q }) (hj : j = { s with free := s.free + 1 })
    (hk : k = ((if q.marked && !r.marked then j.solverSat pair s.free else j).setProblem c n e).solverHeld c p.plan s.free)
    {t : State} (ht : t = (e.outcome q (b.expired || k.deadlinePast b)).elim k fun o => k.endProblem b n o) :
    execSolverFragment c n s = .next (if (t.pair pair).lent && (t.pair pair).returnAt.isSome then t.giveBack pair
      else if (t.ctxD c).onHold then t.modPair pair fun x => { x with problem := none } else t) := by
  simp only [execSolverFragment, hpair, hp, hb, hr, State.fresh, ← hq, ← he, ← hj, ← hk, ht]
  cases e.outcome q (b.expired || k.deadlinePast b) <;> rfl

/-! ### DEADLINE (R258) -/

/-- A problem ends at its batch's deadline where it has begun. -/
def State.endAtDeadline (s : State) (c : Nat) (b : Batch) (n : Nat) : State :=
  match s.problem? c n with
  | some p =>
    match p.run with
    | some r => match p.outcome r true with | some o => s.endProblem b n o | none => s
    | none => s
  | none => s

theorem State.endAtDeadline_of_outcome {o : Outcome} (hp : s.problem? c n = some p) (hr : p.run = some r)
    (ho : p.outcome r true = some o) : s.endAtDeadline c b n = s.endProblem b n o := by
  simp only [State.endAtDeadline, hp, hr, ho]

/-- A batch past its deadline is marked, and one released ends its problems that are on no pair. -/
theorem execDeadline_of_past {e : Batch} (hb : s.batchOf c seq = some b) (hpast : s.deadlinePast b = true)
    (he : e = { b with expired := true }) :
    execDeadline c seq s = .next (if b.released then
      (b.left.filter fun n => (s.problemPair c n).isNone).foldl (fun k n => k.endAtDeadline c e n) (s.setBatch e)
      else s.setBatch e) := by
  subst he
  simp only [execDeadline, hb, hpast, Bool.not_true, Bool.false_eq_true, if_false]
  cases b.released <;> rfl

/-- Settles O29: each step's condition selects one branch of it, and that branch is the effect stated. -/
theorem batchesRunTheirProblems : Obligations.BatchesRunTheirProblems := by
  refine ⟨fun s c seq b e hb hready he => execBatchRelease_of_ready hb hready he,
    fun s c pair b n p r hpair hidle hfirst hmode hsusp hhold hnext hp hr =>
      execProblemStart_of_first hpair hidle hfirst hmode hsusp hhold hnext hp hr,
    fun s j k t c n pair p e b r q hpair hp hb hr hq he hj hk ht => ?fragment,
    fun s c seq b hb hpast => ⟨fun hrel => ?waiting, fun hrel hall => ?running, fun n p r o hrel hleft hp hr ho => ?ends⟩⟩
  case fragment =>
    refine execSolverFragment_of_run hpair hp hb hr hq he hj hk ?_
    rcases ht with ⟨ho, rfl⟩ | ⟨o, ho, rfl⟩
    · rw [ho, Option.elim_none]
    · rw [ho, Option.elim_some]
  all_goals refine (execDeadline_of_past hb hpast rfl).trans (congrArg _ ?_)
  case waiting => exact if_neg (Bool.eq_false_iff.1 hrel)
  case running =>
    have hnone : (b.left.filter fun n => (s.problemPair c n).isNone) = [] :=
      List.filter_eq_nil_iff.2 fun n hn => by rw [Option.isNone_iff_eq_none]; exact Option.isSome_iff_ne_none.1 (hall n hn)
    rw [if_pos hrel, hnone, List.foldl_nil]
  case ends =>
    rw [if_pos hrel, hleft, List.foldl_cons, List.foldl_nil]
    exact State.endAtDeadline_of_outcome hp hr ho

end Sys2Proof.Machine
end

section
/-! SUPPORT. The outcome of a problem's iteration at its cap and before it (R255; O54). -/

namespace Sys2Proof.Machine

/-- A run that neither saturated nor converged, and has not come to its cap, ends only at a deadline. -/
theorem Problem.outcome_of_running (p : Problem) {r : SlvRun} (hm : r.marked = false) (hconv : r.converged = false)
    (hcap : r.capped = false) : p.outcome r false = none := by
  simp only [Problem.outcome, hm, hconv, hcap, Bool.false_eq_true, Bool.not_false, if_false, if_true]

theorem Problem.outcome_of_capped (p : Problem) {r : SlvRun} (hm : r.marked = false) (hconv : r.converged = false)
    (hcap : r.capped = true) (expired : Bool) :
    p.outcome r expired = some { status := if r.regpiv = 0 then stDone else stRegularised, vec := r.last, flags := flagCap } := by
  simp only [Problem.outcome, hm, hconv, hcap, Bool.false_eq_true, if_false, if_true]

/-- Settles O54: an iteration that does not converge caps its run just where it is the last the cap allows. -/
theorem capEndsAProblem : Obligations.CapEndsAProblem := by
  refine ⟨fun p m tau => rfl, fun p r x res expired hm hcap => ?capped, fun p r x res hm hleft => ?running⟩
  case capped =>
    have hcapped : (r.iterated false x res).capped = true := by
      simp only [SlvRun.iterated, Bool.not_false, Bool.true_and, decide_eq_true hcap]
    exact p.outcome_of_capped (r := r.iterated false x res) hm rfl hcapped expired
  case running =>
    have hcapped : (r.iterated false x res).capped = false := by
      simp only [SlvRun.iterated, Bool.not_false, Bool.true_and, decide_eq_false (Nat.not_le.2 hleft)]
    exact p.outcome_of_running (r := r.iterated false x res) hm rfl hcapped

end Sys2Proof.Machine
end

section
/-! SUPPORT. Events leave every register but DBG_TRIG (R298, R299, R379): what an event reports goes to rings, queues and counters, and
only a trigger condition that it meets clears a register's field, ARM. -/

namespace Sys2Proof.Machine

/-! ### What reports do to a port leaves the registers -/

@[simp] theorem State.regs_sluiceTo (s : State) (p : Port) (k c src : Nat) (m : Word) (pl : List Word) :
    (s.sluiceTo p k c src m pl).regs = s.regs := by
  simp only [State.sluiceTo, apply_ite State.regs, State.regs_sluiceEnqueue, ite_self]

@[simp] theorem State.regs_sluice (s : State) (k c src : Nat) (m : Word) (pl : List Word) : (s.sluice k c src m pl).regs = s.regs :=
  (State.regs_sluiceTo ..).trans (State.regs_sluiceTo ..)

@[simp] theorem State.regs_hostWrite (s : State) (p : Port) (a : Nat) (bs : List Byte) : (s.hostWrite p a bs).regs = s.regs := by
  simp only [State.hostWrite, apply_ite State.regs, State.setHost_regs, State.modPort_regs, ite_self]

@[simp] theorem State.regs_evtPut (s : State) (p : Port) (ws : List Word) : (s.evtPut p ws).regs = s.regs := by
  rw [State.evtPut]
  split
  next => rfl
  next => simp only [State.updateAttn, State.setPort_regs, State.regs_hostWrite]

@[simp] theorem State.regs_evtLost (s : State) (p : Port) : (s.evtLost p).regs = s.regs := by
  simp only [State.evtLost, apply_ite State.regs, State.regs_evtPut, State.setPort_regs, ite_self]

@[simp] theorem State.regs_evtTo (s : State) (p : Port) (ws : List Word) : (s.evtTo p ws).regs = s.regs := by
  simp only [State.evtTo, apply_ite State.regs, State.regs_evtPut, State.regs_evtLost, State.setPort_regs, ite_self]

/-! ### Triggers and events -/

/-- Two states whose registers other than DBG_TRIG read the same. -/
structure OtherRegsKept (s t : State) : Prop where
  same : ∀ q, q ≠ .dbgTrig → ∀ i p, t.rawReg q i p = s.rawReg q i p

namespace OtherRegsKept

theorem of_regs {s t : State} (h : t.regs = s.regs) : OtherRegsKept s t := ⟨fun q _ i p => State.rawReg_congr h q i p⟩

theorem refl (s : State) : OtherRegsKept s s := of_regs rfl

theorem trans {s t u : State} (h : OtherRegsKept s t) (g : OtherRegsKept t u) : OtherRegsKept s u :=
  ⟨fun q hq i p => (g.same q hq i p).trans (h.same q hq i p)⟩

theorem ite {s t u : State} {c : Prop} [Decidable c] (ht : OtherRegsKept s t) (hu : OtherRegsKept s u) :
    OtherRegsKept s (if c then t else u) := by
  split
  case isTrue => exact ht
  case isFalse => exact hu

theorem setTrig (s : State) (i : Nat) (p : Port) (lo n v : Nat) : OtherRegsKept s (s.setField .dbgTrig i p lo n v) :=
  ⟨fun _ hq _ _ => s.rawReg_setField_ne lo n v fun h => hq (RegKey.mk.inj h).1.symm⟩

/-- A trigger condition clears ARM at most. -/
theorem trigger (s : State) (p : Port) (bit : Nat) : OtherRegsKept s (s.trigger p bit) := by
  have hfired : OtherRegsKept s ((s.setField .dbgTrig 0 p 0 1 0).modPort p fun x => { x with triggered := true }) :=
    (setTrig ..).trans (of_regs (State.modPort_regs ..))
  have hrecord (r : List Word) := hfired.trans (of_regs (State.regs_sluiceEnqueue _ p r))
  simp only [State.trigger]
  refine ite (refl s) (ite (of_regs (State.regs_sluiceEnqueue ..)) (ite (ite (ite ?_ (hrecord _)) hfired) (refl s)))
  exact (hrecord _).trans (of_regs (State.modPort_regs ..))

theorem triggerFor (s : State) (p : Port) (c bit : Nat) : OtherRegsKept s (s.triggerFor p c bit) := ite (trigger ..) (refl s)

/-- An event meets trigger conditions at most. -/
theorem event (s : State) (ports : List Port) (ty cls c : Nat) (pl : List Word) : OtherRegsKept s (s.event ports ty cls c pl) := by
  have hmet (u : State) (p : Port) : OtherRegsKept u (if u.rfp .dbgTrig p 8 16 == ty then u.triggerFor p c 3 else u) :=
    ite (triggerFor ..) (refl u)
  have hgiven (u : State) (ws : List Word) : OtherRegsKept u (ports.foldl (fun s p => s.evtTo p ws) u) :=
    List.foldlRecOn _ _ (refl u) fun _ h _ _ => h.trans (of_regs (State.regs_evtTo ..))
  exact (((of_regs (State.regs_sluice ..)).trans (hmet _ .steward)).trans (hmet _ .tenant)).trans (hgiven _ _)

theorem devEvent (s : State) (ty cls : Nat) (pl : List Word) : OtherRegsKept s (s.devEvent ty cls pl) := event ..

end OtherRegsKept

end Sys2Proof.Machine
end

section
/-! SUPPORT. Stacks: what a reading of the sensor, a minute of the refresh loop and an IEEE 1500 access come to once their condition
holds, and which contexts a hot stack holds (R277, R278, R280, R281; O34). -/

namespace Sys2Proof.Machine

variable {s : State}

/-- Two changes of one stack are one. -/
@[simp] theorem State.modSite_modSite (s : State) (n : Nat) (f g : Stack → Stack) :
    (s.modSite n f).modSite n g = s.modSite n fun x => g (f x) := by
  simp only [State.modSite, State.site, tgetD_tset_self, tset_tset]

/-! ### Readings of the sensor (R277, R278) -/

/-- A reading that names a row of the refresh table for a stack that is not hot is kept with its row. -/
theorem execStackTemperature_of_row {st temp r : Nat} (hst : st < 12) (hpop : s.populated st = true) (hcool : (s.site st).hot = false)
    (hr : r = s.refreshRow st (s.site st).rate temp) (hrow : r < 3) :
    execStackTemperature st temp s = .next (s.modSite st fun x => { x with temp := temp, rate := r, hot := false }) := by
  have hne : r ≠ 3 := hrow.ne
  have hbne : (r == 3) = false := beq_eq_false_iff_ne.2 hne
  simp [execStackTemperature, Nat.not_le.2 hst, hpop, hcool, ← hr, hne, hbne]

/-- Past training a hot stack that is present is in self-refresh (R279). -/
theorem State.settleStack_of_hot {st : Nat} (hstage : 5 ≤ s.boot.stage) (hhot : (s.site st).hot = true) :
    s.settleStack st = s.modSite st fun x => { x with selfRefresh := x.present } := by
  simp only [State.settleStack, if_neg (Nat.not_lt.2 hstage), State.heldStill, hhot, Bool.true_or, Bool.and_true]

/-- A reading above the self-refresh threshold puts the stack into self-refresh and settles the contexts. -/
theorem execStackTemperature_of_crossing {k : State} {st temp : Nat} (hst : st < 12) (hpop : s.populated st = true)
    (hcool : (s.site st).hot = false) (hstage : 5 ≤ s.boot.stage) (hr : s.refreshRow st (s.site st).rate temp = 3)
    (hk : k = s.modSite st fun x => { x with temp := temp, hot := true, selfRefresh := x.present }) :
    execStackTemperature st temp s =
      .next (({ k with free := s.free + 1 } : State).thermalSettle.devEvent 0x0401 0 (openPayload s.free)) := by
  have hheld : (s.modSite st fun x => { x with temp := temp, hot := true }).settleStack st = k := by
    rw [State.settleStack_of_hot (s := s.modSite st _) hstage (by rw [State.site_modSite]), State.modSite_modSite, hk]
  have hfree : k.free = s.free := by rw [hk, State.modSite_free]
  simp [execStackTemperature, Nat.not_le.2 hst, hpop, hcool, hr, hheld, hfree, State.fresh]

/-! ### Contexts in hot stacks (R278) -/

/-- The mark holds a context exactly if it is in a hot stack. -/
theorem State.ctx?_thermalMark (s : State) (c : Nat) : s.thermalMark.ctx? c = (s.ctx? c).map fun x =>
    { x with thermalHold := (List.range 12).any fun st => (s.site st).hot && s.inStack c x st } := by
  refine (tget_map (fun n (x : Ctx) =>
    { x with thermalHold := ((List.range 12).filter fun st => (s.site st).hot).any (s.inStack n x) }) s.ctxs c).trans ?_
  simp only [List.any_filter, State.ctx?]

theorem State.thermalHold_thermalMark {c : Nat} {x : Ctx} (hx : s.ctx? c = some x) :
    (s.thermalMark.ctxD c).thermalHold = (List.range 12).any fun st => (s.site st).hot && s.inStack c x st := by
  have hmark := s.ctx?_thermalMark c
  rw [hx, Option.map_some] at hmark
  rw [State.ctxD_of_ctx? hmark]

/-- Where no context was held, none goes on: the mark is all that settling does. -/
theorem State.thermalSettle_of_none_held (hnone : (s.ctxs.any fun e => e.2.thermalHold) = false) :
    s.thermalSettle = s.thermalMark := by
  refine List.foldlRecOn (motive := fun t => t = s.thermalMark) _ _ rfl fun t ht e he => ?_
  have hfree : e.2.thermalHold = false := Bool.eq_false_iff.2 (List.any_eq_false.1 hnone e he)
  simp only [hfree, Bool.false_and, Bool.false_eq_true, if_false, ht]

/-! ### The refresh loop (R280) -/

/-- In AUTO, a minute with more than 16 corrections raises an offset below its bound. -/
theorem execRefreshOffsetAdjust_of_corrections {st : Nat} (hst : st < 12) (hauto : s.rf .memRefreshPolicy 0 1 = 0)
    (hmany : 16 < (s.site st).minute) (hbelow : (s.site st).offset < s.rf .memRefreshPolicy 25 2) :
    execRefreshOffsetAdjust st s = .next ((s.modSite st fun x => { x with minute := 0, hour := 0 }).setOffset st
      ((s.site st).offset + 1) (s.site st).minute) := by
  have hrf (f : Stack → Stack) (lo n : Nat) : (s.modSite st f).rf .memRefreshPolicy lo n = s.rf .memRefreshPolicy lo n := rfl
  have hbusy : (s.site st).minute ≠ 0 := by omega
  simp [execRefreshOffsetAdjust, Nat.not_le.2 hst, hrf, hauto, hmany, hbelow, hbusy]

/-- A new offset touches its stack and, by MEM_POLICY, what reports touch. -/
theorem State.setOffset_modSite (s : State) (st v n : Nat) (f : Stack → Stack) :
    Reported (s.modSite st fun x => { f x with offset := v }) ((s.modSite st f).setOffset st v n) ∧
      OtherRegsKept s ((s.modSite st f).setOffset st v n) := by
  rw [State.setOffset, State.modSite_modSite]
  exact ⟨.devEvent .., (OtherRegsKept.of_regs (State.modSite_regs ..)).trans (.devEvent ..)⟩

theorem Reported.sites {t u : State} (h : Reported t u) : u.sites = t.sites := by
  obtain ⟨a, b, r, q, m, n, rfl⟩ := h
  rfl

theorem Reported.site {t u : State} (h : Reported t u) (n : Nat) : u.site n = t.site n := by
  rw [State.site, h.sites, State.site]

/-- Reports after a change of a stack are settings only, and of the registers touch DBG_TRIG. -/
theorem State.onlySettings_of_reported_modSite {t : State} {st : Nat} {f : Stack → Stack} (h : Reported (s.modSite st f) t)
    (hregs : OtherRegsKept s t) : s.onlySettings t [.dbgTrig] := by
  refine ⟨?_, fun q hq => hregs.same q (List.mem_singleton.not.1 hq)⟩
  obtain ⟨a, b, r, q, m, n, rfl⟩ := h
  rfl

/-- Settles O34: a reading is kept or makes its stack hot, a hot stack holds the contexts in it, a minute of corrections raises the
offset, and IEEE 1500 reaches a stack for granted reads alone. -/
theorem stacksFollowTheirSensors : Obligations.StacksFollowTheirSensors := by
  refine ⟨fun _ _ _ _ hst hpop hcool hr hrow => execStackTemperature_of_row hst hpop hcool hr hrow,
    fun s k st temp hst hpop hcool hstage hr hk => ⟨execStackTemperature_of_crossing hst hpop hcool hstage hr hk, ?present⟩,
    fun s hnone => ⟨s.thermalSettle_of_none_held hnone, fun c x hx => ?held⟩,
    fun s st hst hauto hmany hbelow => ?offset,
    fun s st reg data hst => if_neg (Nat.not_le.2 hst), fun s st reg hst => if_neg (Nat.not_le.2 hst)⟩
  case present =>
    rw [hk, State.site_modSite]
    exact ((Bool.and_eq_true _ _).mp hpop).2
  case held => rw [s.thermalSettle_of_none_held hnone, State.thermalHold_thermalMark hx]
  case offset =>
    obtain ⟨hrep, hregs⟩ := s.setOffset_modSite st ((s.site st).offset + 1) (s.site st).minute fun x => { x with minute := 0, hour := 0 }
    refine ⟨_, execRefreshOffsetAdjust_of_corrections hst hauto hmany hbelow, ?_, ?_,
      State.onlySettings_of_reported_modSite hrep hregs, fun n hn => ?_⟩
    · rw [hrep.site, State.site_modSite]
    · rw [hrep.site, State.site_modSite]
    · rw [hrep.site, State.site_modSite_ne _ _ hn.symm]

end Sys2Proof.Machine
end

section
/-! SUPPORT. Corrected and uncorrectable errors: what each step comes to for a place that exists (R284, R401, R402, R405, R406; O35). -/

namespace Sys2Proof.Machine

variable {s : State}

theorem execCorrection_stack {n : Nat} (hn : n < 12) : execCorrection (.stack n) s = .next (s.countCorrected n) :=
  if_neg (Nat.not_le.2 hn)

/-- A device past READY and not halted answers an uncorrectable word of a place that exists. -/
theorem execUncorrectableError_of_ready {place : ErrorPlace} (hplace : placeExists place = true) (hready : s.isReady = true)
    (hrun : s.power.state ≠ 3) : execUncorrectableError place s = .next (s.ueRespond place) := by
  simp [execUncorrectableError, hplace, hready, hrun]

/-- Settles O35: a corrected word of a stack's data on a path counts as one of the path and then as one of the stack. -/
theorem errorsAreCountedAndAnswered : Obligations.ErrorsAreCountedAndAnswered := by
  refine ⟨fun _ => rfl, fun s k hk => ⟨?path, fun n _ => ?pathOfStack⟩, fun _ _ hn => execCorrection_stack hn,
    fun _ _ hplace hready hrun => execUncorrectableError_of_ready hplace hready hrun,
    fun s window hauto hwindow hlimit hpower => ?spring⟩
  case path => rw [hk]; rfl
  case pathOfStack => rw [hk]; rfl
  case spring =>
    rw [hwindow] at hlimit
    exact if_pos ⟨hauto, hlimit, hpower⟩

end Sys2Proof.Machine
end

section
/-! SUPPORT. BAR2: what a read and a write of the window come to at an open port, and the byte of a page that the port may reach
(R276, R282, R283; O36). -/

namespace Sys2Proof.Machine

variable {s : State} {p : Port}

/-- A port's window answers: its BAR is open and the device is not halted. -/
theorem bar2Shut_eq_false (hopen : s.barOpen p = true) (hrun : s.power.state ≠ 3) : (!s.barOpen p || s.power.state == 3) = false := by
  rw [hopen, beq_eq_false_iff_ne.2 hrun]
  rfl

/-- A read of no channel mapped out at run time returns the window's bytes. -/
theorem execBar2Read_of_kept {a n : Nat} (hopen : s.barOpen p = true) (hrun : s.power.state ≠ 3) (hkept : s.bar2Lost p a n = none) :
    execBar2Read p a n s = .next (({ s with free := s.free + 1 } : State).modPort p fun x =>
      { x with readData := (List.range n).map fun i => ({ s with free := s.free + 1 } : State).bar2Byte p s.free (a + i),
               completerAbort := false }) := by
  simp only [execBar2Read, bar2Shut_eq_false hopen hrun, Bool.false_eq_true, if_false, hkept, State.fresh]

theorem execBar2Read_of_lost {a n st pg : Nat} (hopen : s.barOpen p = true) (hrun : s.power.state ≠ 3)
    (hlost : s.bar2Lost p a n = some (st, pg)) : execBar2Read p a n s = .next (s.bar2Abort p st pg) := by
  simp only [execBar2Read, bar2Shut_eq_false hopen hrun, Bool.false_eq_true, if_false, hlost]

/-- A byte of a page that exists, that the port may reach and whose stack is awake is the one HBM holds. -/
theorem State.bar2Byte_of_reached {f a st pg off : Nat} (hready : s.isReady = true) (hplace : s.bar2Place p a = (st, pg, off))
    (hpage : s.pageExists st pg = true) (hmay : s.bar2Permits p st pg = true) (hawake : (s.site st).selfRefresh = false) :
    s.bar2Byte p f a = memRead s.hbm (hbmAddr st pg off) := by
  simp only [State.bar2Byte, hplace, hready, hpage, hmay, hawake, Bool.not_true, Bool.false_eq_true, if_false]

theorem State.bar2Put_of_reached {a st pg off : Nat} (hplace : s.bar2Place p a = (st, pg, off)) (hpage : s.pageExists st pg = true)
    (hmay : s.bar2Permits p st pg = true) (b : Byte) : s.bar2Put p a b = s.hbmPut (hbmAddr st pg off) [b] := by
  simp only [State.bar2Put, hplace, hpage, hmay, Bool.and_self, if_true]

/-- A write of one byte past READY puts it at its place in the window. -/
theorem execBar2Write_byte (hopen : s.barOpen p = true) (hrun : s.power.state ≠ 3) (hready : s.isReady = true) (a : Nat) (b : Byte) :
    execBar2Write p a [b] s = .next (s.bar2Put p a b) := by
  simp [execBar2Write, bar2Shut_eq_false hopen hrun, hready]

/-- A change of a port neither reads nor moves the free-value counter. -/
theorem State.modPort_freeRestored (s : State) (n : Nat) (p : Port) (f : PortState → PortState) :
    { ({ s with free := n } : State).modPort p f with free := s.free } = s.modPort p f := by
  cases p <;> rfl

/-- What only a port's own state changes in is a setting. -/
theorem State.onlySettings_modPort (s : State) (p : Port) (f : PortState → PortState) : s.onlySettings (s.modPort p f) [] := by
  refine ⟨?_, fun q _ => State.rawReg_congr (State.modPort_regs ..) q⟩
  cases p <;> rfl

/-- Settles O36: a read gives its bytes or aborts by whether a page of it is lost, and reads and writes of a page that the port may
reach go to its place in HBM. -/
theorem bar2ReachesItsPages : Obligations.Bar2ReachesItsPages := by
  refine ⟨fun s p a n hopen hrun hkept => ⟨_, execBar2Read_of_kept hopen hrun hkept, ?bytes, ?clear, ?frame⟩,
    fun s p a n st pg hopen hrun hlost => ⟨execBar2Read_of_lost hopen hrun hlost, ?aborted, ?nothing⟩,
    fun _ _ _ _ _ _ _ hready hplace hpage hmay hawake => State.bar2Byte_of_reached hready hplace hpage hmay hawake,
    fun s p a st pg off b hopen hrun hready hplace hpage hmay => ?written⟩
  case bytes => rw [State.portSt_modPort]
  case clear => rw [State.portSt_modPort]
  case frame =>
    rw [State.modPort_freeRestored]
    exact s.onlySettings_modPort _ _
  case aborted => rw [State.bar2Abort, State.portSt_modPort]
  case nothing => rw [State.bar2Abort, State.portSt_modPort]
  case written =>
    exact (execBar2Write_byte hopen hrun hready a b).trans (congrArg _ (State.bar2Put_of_reached hplace hpage hmay b))

end Sys2Proof.Machine
end

section
/-! SUPPORT. Every operation of the device keeps the queue of commands and the bounds of its queues, counters and memories (O59,
O60): one lemma for each definition of the model, in the order of the model's files. -/

namespace Sys2Proof.Machine

-- A lemma for each of the model's operations is many short proofs: elaborated one after another, as the tests are.
set_option Elab.async false

/-- A state that came of another: with its queue of commands, and within the bounds where that was (R299, R377, R380, R394, R412,
R422). -/
structure Keeps (s t : State) : Prop where
  queue : t.pending = s.pending
  bounds : s.bounded → t.bounded

variable {s t u : State}

theorem Keeps.refl (s : State) : Keeps s s := ⟨rfl, id⟩

/-- A change of what neither the queue nor a bound reads. -/
theorem Keeps.same (h : Keeps s t) (hq : u.pending = t.pending := by rfl) (hb : t.bounded → u.bounded := by exact id) :
    Keeps s u :=
  ⟨hq.trans h.queue, fun hs => hb (h.bounds hs)⟩

theorem Keeps.ite {p : Prop} [Decidable p] (ht : Keeps s t) (hu : Keeps s u) : Keeps s (if p then t else u) := by
  split
  · exact ht
  · exact hu

section
variable {α β : Type} {l : List β}

theorem Keeps.foldl {f : State → β → State} (h : Keeps s t) (hf : ∀ {u} b, Keeps s u → Keeps s (f u b)) :
    Keeps s (l.foldl f t) := by
  induction l generalizing t with
  | nil => exact h
  | cons b l ih => exact ih (hf b h)

theorem Keeps.foldl_fst {f : State × α → β → State × α} {a : State × α} (h : Keeps s a.1)
    (hf : ∀ {a} b, Keeps s a.1 → Keeps s (f a b).1) : Keeps s (l.foldl f a).1 := by
  induction l generalizing a with
  | nil => exact h
  | cons b l ih => exact ih (hf b h)

end

/-- What a command comes to keeps what a state came of: a next state does, and any other answer leaves none. -/
inductive Keeping (s : State) : Host.Outcome State Fault Refusal → Prop
  | next {t : State} : Keeps s t → Keeping s (.next t)
  | fault {f : Fault} : Keeping s (.fault f)

theorem Keeping.ite {p : Prop} [Decidable p] {x y : Host.Outcome State Fault Refusal} (hx : Keeping s x) (hy : Keeping s y) :
    Keeping s (if p then x else y) := by
  split
  · exact hx
  · exact hy

theorem Keeping.keeps {x : Host.Outcome State Fault Refusal} (h : Keeping s x) (hx : x = .next t) : Keeps s t := by
  subst hx
  cases h with
  | next h => exact h

/-! ### One field that neither the queue nor a bound reads -/


theorem Keeps.withArrays {x} (h : Keeps s t) : Keeps s { t with arrays := x } := h.same
theorem Keeps.withAsking {x} (h : Keeps s t) : Keeps s { t with asking := x } := h.same
theorem Keeps.withAttestQueue {x} (h : Keeps s t) : Keeps s { t with attestQueue := x } := h.same
theorem Keeps.withBatches {x} (h : Keeps s t) : Keeps s { t with batches := x } := h.same
theorem Keeps.withBlocks {x} (h : Keeps s t) : Keeps s { t with blocks := x } := h.same
theorem Keeps.withBoot {x} (h : Keeps s t) : Keeps s { t with boot := x } := h.same
theorem Keeps.withCad {x} (h : Keeps s t) : Keeps s { t with cad := x } := h.same
theorem Keeps.withCtxs {x} (h : Keeps s t) : Keeps s { t with ctxs := x } := h.same
theorem Keeps.withCurv {x} (h : Keeps s t) : Keeps s { t with curv := x } := h.same
theorem Keeps.withDeltas {x} (h : Keeps s t) : Keeps s { t with deltas := x } := h.same
theorem Keeps.withFree {x} (h : Keeps s t) : Keeps s { t with free := x } := h.same
theorem Keeps.withGran {x} (h : Keeps s t) : Keeps s { t with gran := x } := h.same
theorem Keeps.withGranaries {x} (h : Keeps s t) : Keeps s { t with granaries := x } := h.same
theorem Keeps.withGranted {x} (h : Keeps s t) : Keeps s { t with granted := x } := h.same
theorem Keeps.withGroup {x} (h : Keeps s t) : Keeps s { t with group := x } := h.same
theorem Keeps.withHeld {x} (h : Keeps s t) : Keeps s { t with held := x } := h.same
theorem Keeps.withJtag {x} (h : Keeps s t) : Keeps s { t with jtag := x } := h.same
theorem Keeps.withLevels {x} (h : Keeps s t) : Keeps s { t with levels := x } := h.same
theorem Keeps.withNow {x} (h : Keeps s t) : Keeps s { t with now := x } := h.same
theorem Keeps.withNum {x} (h : Keeps s t) : Keeps s { t with num := x } := h.same
theorem Keeps.withObjects {x} (h : Keeps s t) : Keeps s { t with objects := x } := h.same
theorem Keeps.withOutstanding {x} (h : Keeps s t) : Keeps s { t with outstanding := x } := h.same
theorem Keeps.withPairs {x} (h : Keeps s t) : Keeps s { t with pairs := x } := h.same
theorem Keeps.withProblems {x} (h : Keeps s t) : Keeps s { t with problems := x } := h.same
theorem Keeps.withPrus {x} (h : Keeps s t) : Keeps s { t with prus := x } := h.same
theorem Keeps.withPulses {x} (h : Keeps s t) : Keeps s { t with pulses := x } := h.same
theorem Keeps.withRegs {x} (h : Keeps s t) : Keeps s { t with regs := x } := h.same
theorem Keeps.withRstHigh {x} (h : Keeps s t) : Keeps s { t with rstHigh := x } := h.same
theorem Keeps.withRuns {x} (h : Keeps s t) : Keeps s { t with runs := x } := h.same
theorem Keeps.withSamplers {x} (h : Keeps s t) : Keeps s { t with samplers := x } := h.same
theorem Keeps.withShadowDue {x} (h : Keeps s t) : Keeps s { t with shadowDue := x } := h.same
theorem Keeps.withSignals {x} (h : Keeps s t) : Keeps s { t with signals := x } := h.same
theorem Keeps.withSites {x} (h : Keeps s t) : Keeps s { t with sites := x } := h.same
theorem Keeps.withSlices {x} (h : Keeps s t) : Keeps s { t with slices := x } := h.same
theorem Keeps.withStats {x} (h : Keeps s t) : Keeps s { t with stats := x } := h.same
theorem Keeps.withSwapArrays {x} (h : Keeps s t) : Keeps s { t with swapArrays := x } := h.same
theorem Keeps.withTenantPmc {x} (h : Keeps s t) : Keeps s { t with tenantPmc := x } := h.same
theorem Keeps.withTxns {x} (h : Keeps s t) : Keeps s { t with txns := x } := h.same
theorem Keeps.withWaiters {x} (h : Keeps s t) : Keeps s { t with waiters := x } := h.same
theorem Keeps.withWeirQuiet {x} (h : Keeps s t) : Keeps s { t with weirQuiet := x } := h.same
theorem Keeps.withObjectsRuns {x y} (h : Keeps s t) : Keeps s { t with objects := x, runs := y } := h.same
theorem Keeps.withPrusWaiters {x y} (h : Keeps s t) : Keeps s { t with prus := x, waiters := y } := h.same
theorem Keeps.withSlicesBoot {x y} (h : Keeps s t) : Keeps s { t with slices := x, boot := y } := h.same
theorem Keeps.withStatsBlocks {x y} (h : Keeps s t) : Keeps s { t with stats := x, blocks := y } := h.same
theorem Keeps.withSwapArraysSwapWaiters {x y} (h : Keeps s t) : Keeps s { t with swapArrays := x, swapWaiters := y } := h.same
theorem Keeps.withRegsTenantPmcAttestQueue {x y z} (h : Keeps s t) :
    Keeps s { t with regs := x, tenantPmc := y, attestQueue := z } := h.same
theorem Keeps.withWaitersSwapArraysSwapWaiters {x y z} (h : Keeps s t) :
    Keeps s { t with waiters := x, swapArrays := y, swapWaiters := z } := h.same
theorem Keeps.withObjectsStatsBlocksCurvGranLastSealed {x0 x1 x2 x3 x4 x5} (h : Keeps s t) :
    Keeps s { t with objects := x0, stats := x1, blocks := x2, curv := x3, gran := x4, lastSealed := x5 } := h.same
theorem Keeps.withAllStopped {x0 x1 x2 x3 x4 x5 x6 x7 x8 x9 x10 x11 x12 x13} (h : Keeps s t) :
    Keeps s { t with
      pairs := x0, prus := x1, signals := x2, waiters := x3, held := x4, asking := x5, outstanding := x6,
      granaries := x7, curv := x8, runs := x9, gran := x10, txns := x11, batches := x12, group := x13 } := h.same

/-! ### Fields that a bound reads -/

/-- HBM, in its canonical form. -/
theorem Keeps.withHbm {m} (h : Keeps s t) (hm : t.hbm.wf = true → m.wf = true) : Keeps s { t with hbm := m } :=
  h.same rfl fun ⟨hst, hte, hg, hw, hs, hp, ha, hh, hhost⟩ => ⟨hst, hte, hg, hw, hs, hp, ha, hm hh, hhost⟩

theorem Keeps.withPower {x} (h : Keeps s t) (hx : t.power.gate ≤ 30 → x.gate ≤ 30 := by exact id) :
    Keeps s { t with power := x } :=
  h.same rfl fun ⟨hst, hte, hg, hrest⟩ => ⟨hst, hte, hx hg, hrest⟩

/-- The error log and the counts of errors. -/
def Ras.bounded (x : Ras) : Prop := x.wptr < 32 ∧ x.sram < 2 ^ 24 ∧ x.path < 256

theorem Keeps.withRas {x} (h : Keeps s t) (hx : t.ras.bounded → x.bounded := by exact id) : Keeps s { t with ras := x } :=
  h.same rfl fun ⟨hst, hte, hg, hw, hs, hp, hrest⟩ =>
    have ⟨hw, hs, hp⟩ := hx ⟨hw, hs, hp⟩
    ⟨hst, hte, hg, hw, hs, hp, hrest⟩

/-! ### Ports -/

theorem State.bounded_portSt (h : s.bounded) (p : Port) : (s.portSt p).bounded := by
  obtain ⟨hst, hte, -⟩ := h
  cases p with
  | steward => exact hst
  | tenant => exact hte

theorem Keeps.setPort {p x} (h : Keeps s t) (hx : (t.portSt p).bounded → x.bounded := by exact id) : Keeps s (t.setPort p x) := by
  refine h.same (State.setPort_pending ..) fun hb => ?_
  have hp := hx (State.bounded_portSt hb p)
  obtain ⟨hst, hte, hrest⟩ := hb
  cases p with
  | steward => exact ⟨hp, hte, hrest⟩
  | tenant => exact ⟨hst, hp, hrest⟩

theorem Keeps.modPort {p f} (h : Keeps s t) (hf : (t.portSt p).bounded → (f (t.portSt p)).bounded := by exact id) :
    Keeps s (t.modPort p f) := h.setPort hf

/-! ### State operations and reports -/

theorem Keeps.setReg {r idx p v} (h : Keeps s t) : Keeps s (t.setReg r idx p v) :=
  h.withRegs

theorem Keeps.setField {r idx p lo n v} (h : Keeps s t) : Keeps s (t.setField r idx p lo n v) :=
  h.setReg

theorem Keeps.modCtx {c f} (h : Keeps s t) : Keeps s (t.modCtx c f) :=
  h.withCtxs

theorem Keeps.setArr {a x} (h : Keeps s t) : Keeps s (t.setArr a x) :=
  h.withArrays

theorem Keeps.modArr {a f} (h : Keeps s t) : Keeps s (t.modArr a f) :=
  h.setArr

theorem Keeps.modPair {p f} (h : Keeps s t) : Keeps s (t.modPair p f) :=
  h.withPairs

theorem Keeps.modSite {n f} (h : Keeps s t) : Keeps s (t.modSite n f) :=
  h.withSites

theorem Keeps.modGranary {n f} (h : Keeps s t) : Keeps s (t.modGranary n f) :=
  h.withGranaries

theorem Keeps.setSlice {n m} (h : Keeps s t) : Keeps s (t.setSlice n m) :=
  h.withSlices

theorem Keeps.modObj {o f} (h : Keeps s t) : Keeps s (t.modObj o f) :=
  h.withObjects

theorem Keeps.modStat {k f} (h : Keeps s t) : Keeps s (t.modStat k f) :=
  h.withStats

theorem Keeps.modBlock {b f} (h : Keeps s t) : Keeps s (t.modBlock b f) :=
  h.withBlocks

theorem Keeps.setHost {p m} (h : Keeps s t) (hm : (t.hostMem p).wf = true → m.wf = true) : Keeps s (t.setHost p m) := by
  refine h.same (by cases p <;> rfl) fun ⟨hst, hte, hg, hw, hs, hp, ha, hh, hhA, hhB⟩ => ?_
  cases p with
  | steward => exact ⟨hst, hte, hg, hw, hs, hp, ha, hh, hm hhA, hhB⟩
  | tenant => exact ⟨hst, hte, hg, hw, hs, hp, ha, hh, hhA, hm hhB⟩

theorem Keeps.hostWrite {p a bs} (h : Keeps s t) : Keeps s (t.hostWrite p a bs) :=
  .ite (h.setHost (memPut_wf a bs)) h.modPort

theorem Keeps.ctxWrite {c p a bs} (h : Keeps s t) : Keeps s (t.ctxWrite c p a bs) :=
  .ite h.hostWrite h.hostWrite.modCtx

theorem Keeps.hbmPut {a bs} (h : Keeps s t) : Keeps s (t.hbmPut a bs) :=
  h.withHbm (memPut_wf a bs)

theorem Keeps.pulse {event unit value ctx marker} (h : Keeps s t) : Keeps s (t.pulse event unit value ctx marker) :=
  .ite h h.withPulses

theorem Keeps.sluiceEnqueue {p r} (h : Keeps s t) : Keeps s (t.sluiceEnqueue p r) := by
  unfold State.sluiceEnqueue
  dsimp only
  split
  case isTrue hroom =>
    refine h.setPort fun ⟨hevt, _, hrest⟩ => ⟨hevt, ?_, hrest⟩
    rw [List.length_append]
    exact hroom
  case isFalse => exact (h.setPort fun ⟨hevt, hq, hl, ha, _⟩ => ⟨hevt, hq, hl, ha, Nat.min_le_right ..⟩).pulse

theorem Keeps.sluiceTo {p kind ctx src marker payload} (h : Keeps s t) : Keeps s (t.sluiceTo p kind ctx src marker payload) :=
  .ite h.sluiceEnqueue h

theorem Keeps.sluice {kind ctx src marker payload} (h : Keeps s t) : Keeps s (t.sluice kind ctx src marker payload) :=
  h.sluiceTo.sluiceTo

theorem Keeps.trigger {p bit} (h : Keeps s t) : Keeps s (t.trigger p bit) :=
  .ite h (.ite h.sluiceEnqueue (.ite (.ite
    (.ite h.setField.modPort.sluiceEnqueue.modPort h.setField.modPort.sluiceEnqueue) h.setField.modPort) h))

theorem Keeps.triggerFor {p ctx bit} (h : Keeps s t) : Keeps s (t.triggerFor p ctx bit) :=
  .ite h.trigger h

theorem Keeps.markRecord {ctx src id trc where_} (h : Keeps s t) : Keeps s (t.markRecord ctx src id trc where_) :=
  .ite (.triggerFor (.ite (.triggerFor (.ite h.sluice h)) (.ite h.sluice h))) (.ite (.triggerFor (.ite h.sluice h))
    (.ite h.sluice h))

theorem Keeps.sluiceStore {p r} (h : Keeps s t) : Keeps s (t.sluiceStore p r) :=
  h.hbmPut.setPort

theorem Keeps.sluiceTick {p} (h : Keeps s t) : Keeps s (t.sluiceTick p) := by
  unfold State.sluiceTick
  refine .ite h (.ite h.setPort.sluiceStore ?_)
  split
  · exact h
  case h_2 r rest hq =>
    refine Keeps.sluiceStore (h.setPort fun ⟨hevt, hlen, hrest⟩ => ⟨hevt, ?_, hrest⟩)
    rw [hq, List.length_cons] at hlen
    exact Nat.le_of_succ_le hlen

theorem Keeps.updateAttn {p} (h : Keeps s t) : Keeps s (t.updateAttn p) :=
  h.setPort

theorem Keeps.releaseAttn {p} (h : Keeps s t) : Keeps s (t.releaseAttn p) :=
  .ite h.setPort h

theorem Keeps.evtPut {p ws} (h : Keeps s t) : Keeps s (t.evtPut p ws) := by
  unfold State.evtPut
  split
  · exact h
  · exact h.setPort.hostWrite.updateAttn

theorem Keeps.evtLost {p} (h : Keeps s t) : Keeps s (t.evtLost p) :=
  .ite h.setPort.evtPut h

theorem Keeps.evtTo {p ws} (h : Keeps s t) : Keeps s (t.evtTo p ws) := by
  have hlost : Keeps s (if (t.portSt p).evtQueue.isEmpty then t.evtLost p else t) := .ite h.evtLost h
  unfold State.evtTo
  dsimp only
  refine .ite hlost.evtPut (.ite (iteInduction (fun hroom => ?_) fun _ => ?_) ?_)
  · refine hlost.setPort fun hb => ?_
    obtain ⟨-, hrest⟩ := hb
    refine ⟨?_, hrest⟩
    rw [List.length_append]
    exact hroom
  · refine hlost.setPort fun hb => ?_
    obtain ⟨hevt, hq, hl, -, hrest⟩ := hb
    exact ⟨hevt, hq, hl, Nat.min_le_right .., hrest⟩
  · refine hlost.setPort fun hb => ?_
    obtain ⟨hevt, hq, -, hrest⟩ := hb
    exact ⟨hevt, hq, Nat.min_le_right .., hrest⟩

theorem Keeps.evtDrain {p n} (h : Keeps s t) : Keeps s (t.evtDrain p n) := by
  induction n generalizing t with
  | zero => exact h
  | succ n ih =>
    unfold State.evtDrain
    dsimp only
    split
    · exact h.evtLost
    case h_2 ws rest hq =>
      refine .ite (ih (Keeps.evtPut (h.evtLost.modPort fun ⟨hevt, hrest⟩ => ⟨?_, hrest⟩))) h.evtLost
      rw [hq, List.length_cons] at hevt
      exact Nat.le_of_succ_le hevt

theorem Keeps.event {ports type cls ctx payload} (h : Keeps s t) : Keeps s (t.event ports type cls ctx payload) :=
  .foldl (.ite (.triggerFor (.ite h.sluice.triggerFor h.sluice)) (.ite h.sluice.triggerFor h.sluice)) fun _ h => h.evtTo

theorem Keeps.devEvent {type cls payload} (h : Keeps s t) : Keeps s (t.devEvent type cls payload) :=
  h.event

theorem Keeps.ctxEvent {type cls ctx payload} (h : Keeps s t) : Keeps s (t.ctxEvent type cls ctx payload) :=
  h.event

theorem Keeps.cfgError {p offset} (h : Keeps s t) : Keeps s (t.cfgError p offset) :=
  h.withRas

theorem Keeps.rasEntry {kind response ctx unit addr} (h : Keeps s t) : Keeps s (t.rasEntry kind response ctx unit addr) :=
  .event (h.withRas fun ⟨_, hrest⟩ => ⟨Nat.mod_lt _ (by decide), hrest⟩)

theorem Keeps.writeCompletion {c d marker status detail result} (h : Keeps s t) :
    Keeps s (t.writeCompletion c d marker status detail result) := by
  unfold State.writeCompletion
  split
  · exact h
  · extract_lets r stamp pl entry s1 note cnt s2 r' s3 s4 s5
    have h1 : Keeps s s1 := .ite h.ctxWrite h
    have h2 : Keeps s s2 := .ite h1.ctxWrite h1
    have h5 : Keeps s s5 := .sluice (.updateAttn h2.modCtx)
    exact .ite h5 h5.trigger

theorem Keeps.complete {c d status detail result} (h : Keeps s t) : Keeps s (t.complete c d status detail result) :=
  h.writeCompletion.modCtx

theorem Keeps.completeSeq {c seq status detail result} (h : Keeps s t) : Keeps s (t.completeSeq c seq status detail result) := by
  unfold State.completeSeq
  split
  · exact h.complete
  · exact h

/-! ### Page map, segments, transactions, teardown and descriptors -/

theorem Keeps.takePage {stack page} (h : Keeps s t) : Keeps s (t.takePage stack page) :=
  (h.withHbm (memErase_wf _ _)).modSite

theorem Keeps.givePage {stack page} (h : Keeps s t) : Keeps s (t.givePage stack page) :=
  h.modSite

theorem Keeps.takePages {stack last n} (h : Keeps s t) : Keeps s (t.takePages stack last n).1 := by
  induction n generalizing t last with
  | zero => exact h
  | succ n ih =>
    unfold State.takePages
    split
    · exact h
    · split
      · exact h
      · exact ih h.takePage

theorem Keeps.allocRegion {pairs decl} (h : Keeps s t) : Keeps s (t.allocRegion pairs decl).1 := by
  unfold State.allocRegion
  exact Keeps.foldl_fst h fun _ h => h.takePages

theorem Keeps.freeTable {t'} (h : Keeps s t) : Keeps s (t.freeTable t') :=
  .foldl h fun _ h => .foldl h fun _ h => h.givePage

theorem Keeps.regionPutBy {r pages off bs} (h : Keeps s t) : Keeps s (t.regionPutBy r pages off bs) := by
  induction bs generalizing t off with
  | nil => exact h
  | cons b bs ih =>
    unfold State.regionPutBy
    split
    · exact ih (h.withHbm (memWrite_wf _ _))
    · exact ih h

theorem Keeps.regionPut {c reg off bs} (h : Keeps s t) : Keeps s (t.regionPut c reg off bs) := by
  unfold State.regionPut
  split
  · exact h.regionPutBy
  · exact h

theorem Keeps.settleStack {st} (h : Keeps s t) : Keeps s (t.settleStack st) :=
  .ite h h.modSite

theorem Keeps.settleStacks (h : Keeps s t) : Keeps s t.settleStacks :=
  .foldl h fun _ h => h.settleStack

theorem Keeps.thermalMark (h : Keeps s t) : Keeps s t.thermalMark :=
  h.withCtxs

theorem Keeps.setTxn {t'} (h : Keeps s t) : Keeps s (t.setTxn t') :=
  h.withTxns

theorem Keeps.locPut {c txn l bs} (h : Keeps s t) : Keeps s (t.locPut c txn l bs) := by
  unfold State.locPut
  split
  · exact h.ctxWrite
  · split
    · exact h
    · exact h.regionPutBy
  · exact h.setSlice

theorem Keeps.charge {c weir bytes} (h : Keeps s t) : Keeps s (t.charge c weir bytes) :=
  h.modCtx

theorem Keeps.modRun {c seq f} (h : Keeps s t) : Keeps s (t.modRun c seq f) :=
  h.withRuns

theorem Keeps.pulseArr {a event value} (h : Keeps s t) : Keeps s (t.pulseArr a event value) :=
  h.pulse

theorem Keeps.loadSegment {a seg} (h : Keeps s t) : Keeps s (t.loadSegment a seg) := by
  unfold State.loadSegment
  dsimp only
  split
  · exact h.setArr
  · split
    · exact h.setArr
    · exact h.modCtx.setArr.pulseArr

theorem Keeps.undefineStore {a} (h : Keeps s t) : Keeps s (t.undefineStore a) := by
  unfold State.undefineStore
  exact h.withFree.modArr

theorem Keeps.enterStage {a r logical stage replay} (h : Keeps s t) : Keeps s (t.enterStage a r logical stage replay) := by
  unfold State.enterStage
  exact h.modArr.modPair

theorem Keeps.startSegment {a r logical seg stage replay} (h : Keeps s t) :
    Keeps s (t.startSegment a r logical seg stage replay) :=
  h.enterStage.loadSegment

theorem Keeps.awaitSegment {a seg tok} (h : Keeps s t) : Keeps s (t.awaitSegment a seg tok) :=
  h.modArr.withWaiters

theorem Keeps.startParked {c} (h : Keeps s t) : Keeps s (t.startParked c) :=
  .foldl h fun _ h => .foldl h fun _ h => by
    split
    · exact h
    · exact .ite (by
          dsimp only
          split
          · exact h.modRun.enterStage.loadSegment
          · exact h.modRun.enterStage.awaitSegment) h

theorem Keeps.poolGiveOne {p} (h : Keeps s t) : Keeps s (t.poolGiveOne p) := by
  unfold State.poolGiveOne
  exact h.givePage.modSite

theorem Keeps.poolGive {ps} (h : Keeps s t) : Keeps s (t.poolGive ps) :=
  .foldl h fun _ h => h.poolGiveOne

theorem Keeps.retire {o} (h : Keeps s t) : Keeps s (t.retire o) := by
  unfold State.retire
  split
  · exact h
  · exact h.poolGive.modObj

theorem Keeps.unpin {c seq} (h : Keeps s t) : Keeps s (t.unpin c seq) :=
  .foldl h fun _ h => h.modObj.retire

theorem Keeps.pin {o c seq} (h : Keeps s t) : Keeps s (t.pin o c seq) :=
  h.modObj

theorem Keeps.takeShadow {c tag reg stack index} (h : Keeps s t) (hu : t.takeShadow c tag reg stack index = some u) :
    Keeps s u := by
  unfold State.takeShadow at hu
  split at hu
  · split at hu
    · cases hu
      exact h
    · dsimp only at hu
      split at hu
      · cases hu
      · split at hu
        · cases hu
        · cases hu
          exact (h.takePage.modSite.withHbm (memCopy_wf _ _ _)).setTxn
  · cases hu

theorem Keeps.shadowRange {c tag reg off n} (h : Keeps s t) (hu : t.shadowRange c tag reg off n = some u) : Keeps s u := by
  unfold State.shadowRange at hu
  split at hu
  · cases hu
  case h_2 r _ =>
    have hall (l : List (Nat × Nat)) : ∀ acc : Option State, (∀ v, acc = some v → Keeps s v) → ∀ v,
        l.foldl (fun acc p => acc.bind fun s => s.takeShadow c tag reg p.1 p.2) acc = some v → Keeps s v := by
      induction l with
      | nil => exact fun _ hacc => hacc
      | cons p l ih =>
        refine fun acc hacc => ih _ fun v hv => ?_
        obtain ⟨w, hw, hv⟩ := Option.bind_eq_some_iff.1 hv
        exact (hacc w hw).takeShadow hv
    exact hall _ (some t) (fun v hv => by cases hv; exact h) u hu

theorem Keeps.dropShadows {t'} (h : Keeps s t) : Keeps s (t.dropShadows t') :=
  h.poolGive

theorem Keeps.dropDeferred {t'} (h : Keeps s t) : Keeps s (t.dropDeferred t') :=
  .foldl h fun _ h => by
    split
    · exact .foldl h fun _ h => h.givePage
    · exact h

theorem Keeps.recipesSettle {c} (h : Keeps s t) : Keeps s (t.recipesSettle c) :=
  .foldl h.modCtx fun _ h => h.completeSeq

theorem Keeps.dropGran {t'} (h : Keeps s t) : Keeps s (t.dropGran t') := by
  unfold State.dropGran
  split
  · exact h
  · exact .ite h (by
        dsimp only
        split
        · exact .ite h.same.recipesSettle h.withGran
        · exact h.withGran)

theorem Keeps.poolResize {n stack share} (h : Keeps s t) : Keeps s (t.poolResize n stack share) := by
  unfold State.poolResize
  exact h.modSite

theorem Keeps.applyShare {percent} (h : Keeps s t) : Keeps s (t.applyShare percent) :=
  .foldl h.withFree fun _ h => h.poolResize

theorem Keeps.shareSettle (h : Keeps s t) : Keeps s t.shareSettle := by
  unfold State.shareSettle
  split
  · exact .ite h.withShadowDue.applyShare h
  · exact h

theorem Keeps.sendVote {key commit} (h : Keeps s t) : Keeps s (t.sendVote key commit) :=
  h.withGroup

theorem Keeps.voteAbort {t'} (h : Keeps s t) : Keeps s (t.voteAbort t') :=
  .ite h.sendVote h

theorem Keeps.abortTxn {c tag detail keep} (h : Keeps s t) : Keeps s (t.abortTxn c tag detail keep) := by
  unfold State.abortTxn
  split
  · exact h
  · refine .ite h ?_
    extract_lets s1 s2 _ s3 s4 dead s5 s6 s7
    have h1 : Keeps s s1 := h.voteAbort.dropShadows.dropDeferred
    have h2 : Keeps s s2 := .ite h1.dropGran h1
    have h4 : Keeps s s4 := .pulse h2.withGroup
    have h6 : Keeps s s6 := .foldl h4.setTxn fun _ h => h.completeSeq
    have h7 : Keeps s s7 := by
      unfold s7
      split
      · exact .withTxns h6.completeSeq
      · exact h6
    exact h7.shareSettle

theorem Keeps.memberDone {c d status} (h : Keeps s t) : Keeps s (t.memberDone c d status) :=
  .ite h (by
    split
    · exact h
    · exact .ite h (.ite h.setTxn h.setTxn.abortTxn))

theorem Keeps.finish {c d status detail result} (h : Keeps s t) : Keeps s (t.finish c d status detail result) :=
  h.complete.memberDone

theorem Keeps.finishSeq {c seq status detail result} (h : Keeps s t) : Keeps s (t.finishSeq c seq status detail result) := by
  unfold State.finishSeq
  split
  · exact h.finish
  · exact h

theorem Keeps.memberAbort {c d detail} (h : Keeps s t) : Keeps s (t.memberAbort c d detail) :=
  h.complete.abortTxn

/-- What a member's write comes to keeps what a state came of. -/
def WriteResult.Keeping (s : State) : WriteResult → Prop
  | .go t => Keeps s t
  | .waits t => Keeps s t
  | .aborted t => Keeps s t

theorem Keeps.memberWrite {c d reg off n} (h : Keeps s t) : (t.memberWrite c d reg off n).Keeping s := by
  unfold State.memberWrite
  split
  · exact h
  next x _ =>
    have hproceed (key : Nat) {v : State} (hv : Keeps s v) : WriteResult.Keeping s (
        let k := match v.txn? c d.tag with
          | some t => v.setTxn { t with holds := if t.holds.contains key then t.holds else t.holds ++ [key] }
          | none => v
        match k.shadowRange c d.tag reg off n with
        | some u => .go u
        | none => .aborted (k.memberAbort c d dNoShadow)) := by
      have hk : Keeps s (match v.txn? c d.tag with
          | some t => v.setTxn { t with holds := if t.holds.contains key then t.holds else t.holds ++ [key] }
          | none => v) := by
        split
        · exact hv.setTxn
        · exact hv
      dsimp only
      split
      next hu => exact hk.shadowRange hu
      next => exact hk.memberAbort
    dsimp only
    split
    · exact h
    · exact h.memberAbort
    · exact hproceed _ h.abortTxn
    · exact hproceed _ h

theorem Keeps.stopPair {p} (h : Keeps s t) : Keeps s (t.stopPair p) :=
  h.withFree.withFree.modArr.modArr.modPair.withPrusWaiters

theorem Keeps.unlend {p} (h : Keeps s t) : Keeps s (t.unlend p) :=
  h.modPair

theorem Keeps.giveBack {p} (h : Keeps s t) : Keeps s (t.giveBack p) :=
  h.stopPair.unlend.startParked

theorem Keeps.dropRequests {c} (h : Keeps s t) : Keeps s (t.dropRequests c) :=
  h.same

theorem Keeps.dropItems {c} (h : Keeps s t) : Keeps s (t.dropItems c) :=
  h.withGranaries

theorem Keeps.dropTxns {c} (h : Keeps s t) : Keeps s (t.dropTxns c) :=
  .shareSettle (.withTxns (.foldl (.foldl h fun _ h => h.voteAbort.dropShadows.dropDeferred) fun _ h => .ite h.pulse h))

theorem Keeps.dropRuns {c} (h : Keeps s t) : Keeps s (t.dropRuns c) :=
  .withObjectsRuns (.foldl h fun _ h => h.unpin)

theorem Keeps.rootRecord {r code iters eps nu lam units} (h : Keeps s t) : Keeps s (t.rootRecord r code iters eps nu lam units) :=
  h.devEvent

theorem Keeps.requestsSettle (h : Keeps s t) : Keeps s t.requestsSettle :=
  .foldl h.withCurv fun _ h => h.finishSeq

theorem Keeps.endFragment {p} (h : Keeps s t) : Keeps s (t.endFragment p) := by
  unfold State.endFragment
  exact h.modPair.undefineStore.modArr.undefineStore.modArr

theorem Keeps.stopRefresh {g} (h : Keeps s t) : Keeps s (t.stopRefresh g) :=
  .withGranaries (.foldl h fun _ h => h.endFragment)

theorem Keeps.abandonRecord {r} (h : Keeps s t) : Keeps s (t.abandonRecord r) :=
  .ite h.rootRecord h.withFree.rootRecord

theorem Keeps.abandon {p} (h : Keeps s t) : Keeps s (t.abandon p) :=
  .requestsSettle (.foldl (.withCurv (.foldl h fun _ h => h.stopRefresh)) fun _ h => h.modBlock.abandonRecord)

theorem Keeps.dropWork {c} (h : Keeps s t) : Keeps s (t.dropWork c) :=
  .modCtx (.ite h.same.abandon h.same)

theorem Keeps.flushDescs {c status} (h : Keeps s t) : Keeps s (t.flushDescs c status).1 := by
  unfold State.flushDescs
  split
  · exact h
  · exact .foldl h.modCtx fun _ h => h.complete

theorem Keeps.teardown {c cause} (h : Keeps s t) : Keeps s (t.teardown c cause) := by
  unfold State.teardown
  split
  · exact h
  · exact .ite h (.event (.modCtx (.flushDescs (.dropWork (.dropRuns (.dropTxns (.dropRequests (.dropItems (.withPrus (.foldl
    (.foldl h fun _ h => h.stopPair) fun _ h => h.giveBack))))))))))

theorem Keeps.ctxFault {c unit addr} (h : Keeps s t) : Keeps s (t.ctxFault c unit addr) :=
  h.rasEntry.teardown

theorem Keeps.arrFault {a addr} (h : Keeps s t) : Keeps s (t.arrFault a addr) :=
  h.ctxFault

theorem Keeps.noteLast {c d} (h : Keeps s t) : Keeps s (t.noteLast c d) :=
  h.modCtx

theorem Keeps.reject {c d status detail} (h : Keeps s t) : Keeps s (t.reject c d status detail) :=
  h.noteLast.writeCompletion

theorem Keeps.accept {c d} (h : Keeps s t) : Keeps s (t.accept c d) :=
  .ite (by
    split
    · exact h.noteLast.modCtx.pulse.sluice.setTxn
    · exact h.noteLast.modCtx.pulse.sluice) h.noteLast.modCtx.pulse.sluice

theorem Keeps.setWait {c d w} (h : Keeps s t) : Keeps s (t.setWait c d w) :=
  h.modCtx

theorem WriteResult.Keeping.run {w : WriteResult} {c d go} (h : w.Keeping s) (hgo : ∀ u, Keeps s u → Keeps s (go u)) :
    Keeps s (w.run c d go) := by
  cases w with
  | go t => exact hgo t h
  | waits t => exact Keeps.setWait h
  | aborted t => exact h

theorem Keeps.memberWrites {c d reg ranges} (h : Keeps s t) : (t.memberWrites c d reg ranges).Keeping s := by
  induction ranges generalizing t with
  | nil => exact h
  | cons e rest ih =>
    have hw := h.memberWrite (c := c) (d := d) (reg := reg) (off := e.1) (n := e.2)
    unfold State.memberWrites
    split
    case h_1 u hu =>
      rw [hu] at hw
      exact ih hw
    case h_2 u hu =>
      rw [hu] at hw
      exact hw
    case h_3 u hu =>
      rw [hu] at hw
      exact hw

theorem Keeps.chargeMove {c src dst n} (h : Keeps s t) : Keeps s (t.chargeMove c src dst n) :=
  .foldl h fun _ h => h.charge

theorem Keeps.pastWeirs {c d weirs go} (h : Keeps s t) (hgo : ∀ u, Keeps s u → Keeps s (go u)) :
    Keeps s (t.pastWeirs c d weirs go) :=
  .ite (hgo _ h) h.setWait

/-! ### Movement of data and the cadence unit -/

theorem Keeps.startNop {c d} (h : Keeps s t) : Keeps s (t.startNop c d) :=
  h.finish

theorem Keeps.putAt {c d l bs} (h : Keeps s t) : Keeps s (t.putAt c d l bs) :=
  h.locPut

theorem Keeps.withWrites {c d l ranges go} (h : Keeps s t) (hgo : ∀ u, Keeps s u → Keeps s (go u)) :
    Keeps s (t.withWrites c d l ranges go) := by
  unfold State.withWrites
  split
  · exact .ite (h.memberWrites.run hgo) (hgo _ h)
  · exact hgo _ h

theorem Keeps.restoreRecord {c d o} (h : Keeps s t) : Keeps s (t.restoreRecord c d o) := by
  have hprep (l : List (Nat × Nat)) {w : WriteResult} (hw : w.Keeping s) : (l.foldl (fun (w : WriteResult) k => match w with
      | .go s => s.memberWrites c d k.2 [(0, s.regionLen o.ctx k.2)]
      | w => w) w).Keeping s :=
    List.foldlRecOn (motive := fun w : WriteResult => w.Keeping s) _ _ hw fun w hw k _ => by
      cases w with
      | go u => exact Keeps.memberWrites hw
      | waits u => exact hw
      | aborted u => exact hw
  unfold State.restoreRecord
  refine WriteResult.Keeping.run (hprep _ h) fun u h => .finish ?_
  have hcopied := Keeps.foldl_fst (l := objComponents o.decl) (a := (u.chargeMove c (dSrc d) (dDst d) (d.w64 8), 4096))
    (f := fun (acc : State × Nat) k =>
      let n := acc.1.compLen o k.1
      (acc.1.putAt c d (.region k.2 0) (acc.1.hostRead (t.ctxD c).port ((dSrc d).offset + acc.2) n), acc.2 + pad4096 n))
    h.chargeMove fun _ h => by
      dsimp only
      exact h.putAt
  split
  · exact hcopied.setTxn
  · exact hcopied

theorem Keeps.startCopy {c d} (h : Keeps s t) : Keeps s (t.startCopy c d) :=
  .ite h.finish (.pastWeirs h fun _ h => by
    split
    · exact h.restoreRecord
    · exact .withWrites h fun _ h => h.chargeMove.putAt.finish)

theorem Keeps.moveRows {c d src dst idx} (h : Keeps s t) : Keeps s (t.moveRows c d src dst idx) :=
  .foldl h fun _ h => h.putAt

theorem Keeps.startGather {c d} (h : Keeps s t) : Keeps s (t.startGather c d) :=
  .ite h.finish (.ite h.finish (.pastWeirs h fun _ h => .withWrites h fun _ h => h.chargeMove.moveRows.finish))

theorem Keeps.startScatter {c d} (h : Keeps s t) : Keeps s (t.startScatter c d) :=
  .ite h.finish (.ite h.finish (.pastWeirs h fun _ h => .withWrites h fun _ h => h.chargeMove.moveRows.finish))

theorem Keeps.startWaitFrame {c d} (h : Keeps s t) : Keeps s (t.startWaitFrame c d) :=
  .ite h.finish h.setWait

theorem Keeps.retryWaitFrame {c d} (h : Keeps s t) : Keeps s (t.retryWaitFrame c d) :=
  .ite h.finish h

theorem Keeps.startWaitToken {c d} (h : Keeps s t) : Keeps s (t.startWaitToken c d) :=
  .ite h.modCtx.finish h.setWait

theorem Keeps.startWaitSeq {c d} (h : Keeps s t) : Keeps s (t.startWaitSeq c d) :=
  .ite h.finish h.setWait

theorem Keeps.startSignal {c d} (h : Keeps s t) : Keeps s (t.startSignal c d) :=
  h.modCtx.finish

theorem Keeps.startMark {c d} (h : Keeps s t) : Keeps s (t.startMark c d) :=
  h.modCtx.markRecord.finish

theorem Keeps.startWatchOff {c d} (h : Keeps s t) : Keeps s (t.startWatchOff c d) :=
  h.modCtx.finish

theorem Keeps.startWatchOn {c d digest} (h : Keeps s t) : Keeps s (t.startWatchOn c d digest) :=
  .ite h.modCtx.finish (.ite h.finish h.ctxWrite.finish)

theorem Keeps.startWatchStatistics {c d} (h : Keeps s t) : Keeps s (t.startWatchStatistics c d) :=
  h.startWatchOn

theorem Keeps.startWatchDigest {c d} (h : Keeps s t) : Keeps s (t.startWatchDigest c d) :=
  h.startWatchOn

theorem Keeps.startHarvest {c d} (h : Keeps s t) : Keeps s (t.startHarvest c d) :=
  .ite h.finish (.ite h.setWait (.pastWeirs h fun _ h => h.ctxWrite.chargeMove.finish))

theorem Keeps.setCad {f} (h : Keeps s t) : Keeps s (t.setCad f) :=
  h.withCad

theorem Keeps.takeSource (h : Keeps s t) : Keeps s t.takeSource :=
  .ite h (.ite h.setCad h.setCad)

theorem Keeps.skipFrames {old} (h : Keeps s t) : Keeps s (t.skipFrames old) :=
  .foldl h fun _ h => h.abortTxn

theorem Keeps.frameBoundary {t' resync} (h : Keeps s t) : Keeps s (t.frameBoundary t' resync) :=
  .skipFrames (.setCad (.ite h.takeSource.setField h.takeSource))

theorem Keeps.edgeError {e} (h : Keeps s t) : Keeps s (t.edgeError e) :=
  h.setCad

theorem Keeps.strayEdge {t'} (h : Keeps s t) : Keeps s (t.strayEdge t') := by
  unfold State.strayEdge
  exact h.setCad

theorem Keeps.acquireEdge {t'} (h : Keeps s t) : Keeps s (t.acquireEdge t') := by
  unfold State.acquireEdge
  split
  · exact h.setCad.frameBoundary
  · exact h.edgeError.setCad.setCad.frameBoundary

theorem Keeps.lockedEdge {t'} (h : Keeps s t) : Keeps s (t.lockedEdge t') := by
  unfold State.lockedEdge
  split
  · exact h.strayEdge
  · exact .ite h.strayEdge h.edgeError.setCad.frameBoundary

theorem Keeps.alignedEdge {t' e place} (h : Keeps s t) : Keeps s (t.alignedEdge t' e place) :=
  .ite (.event (.setCad (.ite h.edgeError.setCad.frameBoundary h.edgeError.setCad)))
    (.ite h.edgeError.setCad.frameBoundary h.edgeError.setCad)

theorem Keeps.holdoverEdge {t'} (h : Keeps s t) : Keeps s (t.holdoverEdge t') :=
  .ite h.alignedEdge (.ite h.alignedEdge h.strayEdge)

theorem Keeps.resyncEdge {t'} (h : Keeps s t) : Keeps s (t.resyncEdge t') :=
  .frameBoundary (.setCad (by
    split
    · exact h.edgeError
    · exact h))

theorem execCadenceIn_keeps {eighth} (h : Keeps s t) : Keeping s (execCadenceIn eighth t) :=
  .ite (.next h) (.ite (.next h.resyncEdge) (.ite (.next h.holdoverEdge) (.ite (.next h.strayEdge) (by
    split
    · exact .next h.acquireEdge
    · exact .next h.lockedEdge))))

theorem Keeps.enterHoldover {l} (h : Keeps s t) : Keeps s (t.enterHoldover l) :=
  h.setCad.frameBoundary.event

theorem Keeps.holdoverNext {l} (h : Keeps s t) : Keeps s (t.holdoverNext l) :=
  h.setCad.frameBoundary

theorem execHoldoverBoundary_keeps (h : Keeps s t) : Keeping s (execHoldoverBoundary t) := by
  unfold execHoldoverBoundary
  split
  · exact .next h
  · exact .ite (.next h) (by
        split
        · exact .ite (.next h.enterHoldover) (.next h)
        · exact .ite (.next h.holdoverNext) (.next h)
        · exact .next h)

theorem execInternalBoundary_keeps (h : Keeps s t) : Keeping s (execInternalBoundary t) :=
  .ite (.next (.frameBoundary (.ite h.setCad h))) (.next h)

theorem execPpsIn_keeps (h : Keeps s t) : Keeping s (execPpsIn t) :=
  .ite (.next h) (.next h.withCad)

theorem execPpsTimeout_keeps (h : Keeps s t) : Keeping s (execPpsTimeout t) :=
  .next (.ite h.setCad h)

theorem execWaitFrameReached_keeps {c} (h : Keeps s t) : Keeping s (execWaitFrameReached c t) :=
  .ite (.next h) (.next (.foldl h fun _ h => by
    split
    · exact h.retryWaitFrame
    · exact h))

/-! ### Running arrays, counters, sluices and register reads -/

theorem Keeps.sampleRecord {a tag kind addr segment marker latency stall} (h : Keeps s t) :
    Keeps s (t.sampleRecord a tag kind addr segment marker latency stall) :=
  .ite h.withSamplers h.withSamplers.pulse

theorem Keeps.samplerTick {sec} (h : Keeps s t) : Keeps s (t.samplerTick sec) := by
  unfold State.samplerTick
  dsimp only
  split
  · exact h
  · exact .ite h.withSamplers.pulse h.withSamplers.sluice

theorem Keeps.issued {a n} (h : Keeps s t) : Keeps s (t.issued a n) :=
  h.setArr.pulseArr

theorem Keeps.stalled {a} (h : Keeps s t) : Keeps s (t.stalled a) :=
  h.modArr.pulseArr

theorem tileRow_keeps {a tl ready go} (h : Keeps s t) (hgo : ∀ u x, Keeps s u → Keeps s (go u x)) :
    Keeping s (tileRow a tl ready go t) := by
  unfold tileRow
  refine .ite .fault ?_
  dsimp only
  split
  · exact .ite (.ite (.next (hgo _ _ h.issued)) (.next h.stalled)) (.next h)
  · exact .next h

theorem Keeps.setToken {c tok v} (h : Keeps s t) : Keeps s (t.setToken c tok v) :=
  h.modCtx

theorem Keeps.endPart {a} (h : Keeps s t) : Keeps s (t.endPart a) :=
  h.modRun.setArr

theorem Keeps.moveFills {a b c seq} (h : Keeps s t) : Keeps s (t.moveFills a b c seq) :=
  .ite h h.modArr.modArr

theorem Keeps.park {a seg tok} (h : Keeps s t) : Keeps s (t.park a seg tok) := by
  unfold State.park
  refine Keeps.modArr ?_
  split
  · exact h.modRun.moveFills
  · exact h.modRun

theorem Keeps.parkWaiting {a} (h : Keeps s t) : Keeps s (t.parkWaiting a) := by
  unfold State.parkWaiting
  split
  · exact h.withWaiters.park
  · exact h

theorem Keeps.startFragment {p g} (h : Keeps s t) : Keeps s (t.startFragment p g) := by
  unfold State.startFragment
  exact h.parkWaiting.parkWaiting.modArr.modArr.modPair

theorem Keeps.startThere {a r g} (h : Keeps s t) : Keeps s (t.startThere a r g) := by
  unfold State.startThere
  dsimp only
  split
  · exact .loadSegment (.enterStage (by
        split
        · exact h.modRun.moveFills
        · exact h.modRun))
  · exact .awaitSegment (.enterStage (by
        split
        · exact h.modRun.moveFills
        · exact h.modRun))

theorem Keeps.startBorrowed {p b} (h : Keeps s t) : Keeps s (t.startBorrowed p b) := by
  unfold State.startBorrowed
  split
  · exact h
  · split
    · exact h
    · exact .foldl h fun _ h => .ite h.startThere h

theorem Keeps.lend {p b} (h : Keeps s t) : Keeps s (t.lend p b) :=
  h.parkWaiting.parkWaiting.modPair.undefineStore.undefineStore.startBorrowed

theorem Keeps.spareWork {p} (h : Keeps s t) : Keeps s (t.spareWork p) := by
  unfold State.spareWork
  dsimp only
  split
  · exact .ite h.lend h.startFragment
  · exact .ite h.lend h

theorem Keeps.takeWork {p} (h : Keeps s t) : Keeps s (t.takeWork p) :=
  .ite h (.ite (.ite h.parkWaiting.parkWaiting.giveBack (.ite h (.ite h.startBorrowed h.giveBack))) (.ite h (by
    split
    · exact h.startFragment
    · exact .ite h.startParked.spareWork h.startParked)))

theorem Keeps.boundary {a} (h : Keeps s t) : Keeps s (t.boundary a) :=
  h.takeWork

theorem Keeps.resume {a} (h : Keeps s t) : Keeps s (t.resume a) := by
  unfold State.resume
  split
  · exact h.modArr
  · exact h.loadSegment
  · exact h.endPart.boundary
  · exact h

theorem Keeps.waitOn {a w} (h : Keeps s t) : Keeps s (t.waitOn a w) :=
  h.modArr.withWaiters

theorem Keeps.addToken {c tok n unit addr} (h : Keeps s t) : Keeps s (t.addToken c tok n unit addr) :=
  .ite h.ctxFault h.setToken

theorem Keeps.meet {src dst o t'} (h : Keeps s t) : Keeps s (t.meet src dst o t') :=
  .ite h.arrFault h.withFree.modArr.modArr

theorem Keeps.weirEnter {m} (h : Keeps s t) : Keeps s (t.weirEnter m) :=
  .ite h.withAsking.charge h.withHeld

theorem Keeps.runPut {c seq reg off bs} (h : Keeps s t) : Keeps s (t.runPut c seq reg off bs) := by
  unfold State.runPut
  split
  · exact h
  · exact h.regionPut

theorem Keeps.fillMove {a i n} (h : Keeps s t) : Keeps s (t.fillMove a i n) :=
  .foldl h fun _ h => by
    dsimp only
    split
    · exact h.modArr
    · exact h.runPut
    · exact h.modArr
    · exact h.setSlice

theorem Keeps.fillStart {a inbound i} (h : Keeps s t) : Keeps s (t.fillStart a inbound i) :=
  .ite h.arrFault (.ite (.foldl h.modArr fun _ h => h.weirEnter) h.modArr)

theorem Keeps.goOn {w} (h : Keeps s t) : Keeps s (t.goOn w) := by
  unfold State.goOn
  split
  · exact h.resume
  · split
    · exact h.fillStart
    · exact h

theorem Keeps.serveList {c l blocked} (h : Keeps s t) : Keeps s (t.serveList c l blocked) := by
  induction l generalizing t blocked with
  | nil => exact h
  | cons w l ih =>
    unfold State.serveList
    refine .ite (ih h) ?_
    split
    · exact ih h.withWaiters
    · exact .ite (ih h) (ih (Keeps.goOn (Keeps.withWaiters (.ite h h.setToken))))

theorem Keeps.serveTokens {c} (h : Keeps s t) : Keeps s (t.serveTokens c) :=
  .ite h h.serveList

theorem Keeps.ctrAdd1 {b unit idx v} (h : Keeps s t) : Keeps s (t.ctrAdd1 b unit idx v) :=
  .ite h.setReg (.ite h.setReg.setField h.setReg.setField.trigger)

theorem Keeps.ctrAdd {bank b unit idx v} (h : Keeps s t) : Keeps s (t.ctrAdd bank b unit idx v) :=
  .ite h.ctrAdd1.ctrAdd1 h.ctrAdd1

theorem execCounterOverflow_keeps {bank unit idx value} (h : Keeps s t) :
    Keeping s (execCounterOverflow bank unit idx value t) := by
  unfold execCounterOverflow
  split
  · exact .fault
  · exact .ite .fault (.ite (.next h.ctrAdd) (.next h))

theorem Keeps.ctrClear {bank} (h : Keeps s t) : Keeps s (t.ctrClear bank) := by
  unfold State.ctrClear
  split
  · exact h
  · exact h.withRegs

theorem execBwWindow_keeps (h : Keeps s t) : Keeping s (execBwWindow t) :=
  .ite (.next h.same) (.next h)

theorem Keeps.sluiceDrain {p n} (h : Keeps s t) : Keeps s (t.sluiceDrain p n) := by
  induction n generalizing t with
  | zero => exact h
  | succ n ih => exact .ite h (ih h.sluiceTick)

theorem execSluiceTrigger_keeps {p cond} (h : Keeps s t) : Keeping s (execSluiceTrigger p cond t) :=
  .ite (.next h) (.next h.trigger)

theorem execSluiceFreeze_keeps {p} (h : Keeps s t) : Keeping s (execSluiceFreeze p t) :=
  .next (.ite h.sluiceDrain h)

theorem Keeps.sluiceStart {p} (h : Keeps s t) : Keeps s (t.sluiceStart p) :=
  h.modPort fun ⟨hevt, _, hrest⟩ => ⟨hevt, Nat.zero_le _, hrest⟩

theorem Keeps.dumpSluice {p} (h : Keeps s t) : Keeps s (t.dumpSluice p) :=
  h.hostWrite

theorem Keeps.read32 {p off} (h : Keeps s t) : Keeps s (t.read32 p off).2 := by
  have hx := h.setPort (p := p) (x := { t.portSt p with captured := none, held := none })
  have hcapture {u : State} {x} (h : Keeps s u) : Keeps s (u.modPort p fun y => { y with captured := x }) := h.modPort
  unfold State.read32
  dsimp only
  split
  · split
    · exact hx
    · split
      · exact hcapture hx
      · exact hx
  · split
    · exact hcapture hx
    · exact hx

theorem Keeps.read64 {p off} (h : Keeps s t) : Keeps s (t.read64 p off).2 := by
  have hclear : Keeps s (t.modPort p fun y => { y with captured := none, held := none }) := h.modPort
  exact hclear

theorem Keeps.readWords {p off n} (h : Keeps s t) : Keeps s (t.readWords p off n).2 := by
  induction n using Nat.strongRecOn generalizing t off with
  | ind n ih =>
    match n with
    | 0 => exact h
    | 1 => exact h.read32
    | n + 2 =>
      unfold State.readWords
      dsimp only
      split
      · exact ih n (by omega) h.read64
      · exact ih (n + 1) (by omega) h.read32

theorem Keeps.busRead {p off width} (h : Keeps s t) : Keeps s (t.busRead p off width).2 := by
  have hx := h.modPort (p := p) (f := fun x => { x with captured := none, held := none })
  unfold State.busRead
  dsimp only
  split
  · split
    · exact hx.cfgError
    · exact hx
  · split
    · exact hx.cfgError
    · exact h.readWords

theorem execRegisterRead_keeps {p offset width} (h : Keeps s t) : Keeping s (execRegisterRead p offset width t) :=
  .ite (.next h.busRead.modPort) (.next h)

/-! ### Plans and the tile instructions -/

theorem Keeps.sendTo {c ranks n} (h : Keeps s t) : Keeps s (t.sendTo c ranks n) :=
  h.charge.pulse.withGroup

theorem Keeps.beginExchange {f} (h : Keeps s t) : Keeps s (t.beginExchange f) :=
  h.sendTo.withGroup

theorem Keeps.exchange {c seq code key obj arg cut own} (h : Keeps s t) : Keeps s (t.exchange c seq code key obj arg cut own) :=
  .ite h.beginExchange h.withGroup

theorem Keeps.allocAll {pairs ds r} (h : Keeps s t) (hr : t.allocAll pairs ds = .ok r) : Keeps s r.1 := by
  induction ds generalizing t r with
  | nil =>
    cases hr
    exact h
  | cons d ds ih =>
    simp only [State.allocAll] at hr
    split at hr
    · cases hr
    · split at hr
      · cases hr
      · split at hr
        · cases hr
        case _ x hx =>
          cases hr
          have hkept : Keeps s x.1 := ih (by exact h.allocRegion) hx
          exact hkept

theorem Keeps.initCarried {c d} (h : Keeps s t) : Keeps s (t.initCarried c d) := by
  unfold State.initCarried
  split
  · exact h
  · exact .foldl h fun _ h => .regionPut (.foldl h fun _ h => h.regionPut)

theorem Keeps.createObject {c d} (h : Keeps s t) : Keeps s (t.createObject c d) := by
  unfold State.createObject
  split
  · exact h
  · exact h.withObjects

theorem Keeps.createStat {d} (h : Keeps s t) : Keeps s (t.createStat d) :=
  .foldl h.withStats fun _ h => h.withBlocks

theorem Keeps.releaseRegions {c} (h : Keeps s t) : Keeps s (t.releaseRegions c) :=
  .modCtx (.foldl h fun _ h => h.freeTable)

theorem Keeps.disarm {c slot} (h : Keeps s t) : Keeps s (t.disarm c slot) :=
  h.modCtx

theorem Keeps.dropPlan {c slot} (h : Keeps s t) : Keeps s (t.dropPlan c slot) := by
  unfold State.dropPlan
  split
  · exact h
  · exact h.freeTable.modCtx.disarm.releaseRegions

theorem Keeps.reloaded {c slot} (h : Keeps s t) : Keeps s (t.reloaded c slot) := by
  unfold State.reloaded
  split
  · exact h
  · exact .ite h h.abandon.withCurv

theorem Keeps.loadPlan {c d b} (h : Keeps s t) : Keeps s (t.loadPlan c d b) := by
  unfold State.loadPlan
  dsimp only
  split
  · exact h
  case h_2 u rs hu =>
    have hobjects {v : State} (h : Keeps s v) : Keeps s
        (if (v.ctxD c).kind = .train then b.objects.foldl (fun s o => s.createObject c o) v else v) :=
      .ite (.foldl h fun _ h => h.createObject) h
    have hcache {v : State} (h : Keeps s v) : Keeps s
        (match tget (v.ctxD c).plans (d.f 2 0 3) with | some p => v.freeTable p.cache.pages | none => v) := by
      split
      · exact h.freeTable
      · exact h
    exact .finish (.thermalMark (.settleStacks (.releaseRegions (.disarm (.modCtx (hcache (.reloaded (.foldl (.foldl
      (hobjects (h.allocAll hu).modCtx.regionPutBy) fun _ h => h.createStat) fun _ h => h.initCarried))))))))

theorem Keeps.startPlanLoad {c d} (h : Keeps s t) : Keeps s (t.startPlanLoad c d) :=
  h.loadPlan

theorem execCfgMode_keeps {a fs fm strict rnd acc sgnS sgnM} (h : Keeps s t) :
    Keeping s (execCfgMode a fs fm strict rnd acc sgnS sgnM t) :=
  tileRow_keeps h fun _ _ h => h.modArr

theorem execCfgAddr_keeps {a areg origin stride wrap} (h : Keeps s t) : Keeping s (execCfgAddr a areg origin stride wrap t) :=
  tileRow_keeps h fun _ _ h => h.modArr

theorem execCfgPos_keeps {a preg base rowlen adv} (h : Keeps s t) : Keeping s (execCfgPos a preg base rowlen adv t) :=
  tileRow_keeps h fun _ _ h => h.modArr

theorem execCfgFxq_keeps {a qa qb qpIn qpOut} (h : Keeps s t) : Keeping s (execCfgFxq a qa qb qpIn qpOut t) :=
  tileRow_keeps h fun _ _ h => h.modArr

theorem execCfgStream_keeps {a stream} (h : Keeps s t) : Keeping s (execCfgStream a stream t) :=
  tileRow_keeps h fun _ _ h => h.modArr

theorem execLds_keeps {a areg buf orient nrows nelem} (h : Keeps s t) : Keeping s (execLds a areg buf orient nrows nelem t) :=
  tileRow_keeps h fun _ _ h => .ite h.arrFault h.modArr

theorem execStrm_keeps {a areg buf nvec offer take} (h : Keeps s t) : Keeping s (execStrm a areg buf nvec offer take t) :=
  tileRow_keeps h fun _ _ h => by
    split
    · exact h.arrFault
    · exact .ite h.arrFault h.modArr

theorem execMaccZero_keeps {a} (h : Keeps s t) : Keeping s (execMaccZero a t) :=
  tileRow_keeps h fun _ _ h => h.modArr

theorem execMaccStore_keeps {a areg} (h : Keeps s t) : Keeping s (execMaccStore a areg t) :=
  tileRow_keeps h fun _ _ h => .ite (.ite h.arrFault h.modArr) h.modArr

theorem execMaccKeep_keeps {a} (h : Keeps s t) : Keeping s (execMaccKeep a t) :=
  tileRow_keeps h fun _ _ h => h.modArr

theorem execDrn_keeps {a areg fmt stoch carried preg sh} (h : Keeps s t) :
    Keeping s (execDrn a areg fmt stoch carried preg sh t) :=
  tileRow_keeps h fun _ _ h => h.modArr

theorem execDrnNow_keeps {a areg fmt stoch carried preg sh} (h : Keeps s t) :
    Keeping s (execDrnNow a areg fmt stoch carried preg sh t) :=
  tileRow_keeps h fun _ _ h => .ite h.arrFault h.modArr.pulseArr

theorem execGram_keeps {a ra rb same nstep masken fdiv preg} (h : Keeps s t) :
    Keeping s (execGram a ra rb same nstep masken fdiv preg t) :=
  tileRow_keeps h fun _ _ h => .ite h.arrFault h.modArr

theorem twinRow_keeps {offer a areg nrows nelem fmt t'} (h : Keeps s t) : Keeping s (twinRow offer a areg nrows nelem fmt t' t) :=
  tileRow_keeps h fun _ _ h => .ite h.arrFault h.modArr

theorem execTwinOffer_keeps {a areg nrows nelem fmt} (h : Keeps s t) : Keeping s (execTwinOffer a areg nrows nelem fmt t) :=
  twinRow_keeps h

theorem execTwinTake_keeps {a areg nrows nelem fmt} (h : Keeps s t) : Keeping s (execTwinTake a areg nrows nelem fmt t) :=
  twinRow_keeps h

theorem Keeps.histPut {c reg off h'} (h : Keeps s t) : Keeps s (t.histPut c reg off h') :=
  h.regionPut

theorem Keeps.histMerge {c slot stage step h'} (h : Keeps s t) : Keeps s (t.histMerge c slot stage step h') :=
  .ite h (by
    split
    · exact h
    · exact h.histPut)

theorem Keeps.histOwn {a h'} (h : Keeps s t) : Keeps s (t.histOwn a h') :=
  .ite h (by
    split
    · exact h
    · exact h.histPut)

theorem execHistWrite_keeps {a areg clr} (h : Keeps s t) : Keeping s (execHistWrite a areg clr t) :=
  tileRow_keeps h fun _ _ h => .ite h.arrFault h.histOwn.modArr

theorem execHistMerge_keeps {a stg clr} (h : Keeps s t) : Keeping s (execHistMerge a stg clr t) :=
  tileRow_keeps h fun _ _ h => h.histMerge.modArr

theorem Keeps.flagBlocks {a bs} (h : Keeps s t) : Keeps s (t.flagBlocks a bs) := by
  unfold State.flagBlocks
  dsimp only
  split
  · exact h
  · exact .ite h.modRun h.modRun.withNum

theorem execBchkWrite_keeps {a areg bitoff bstride} (h : Keeps s t) : Keeping s (execBchkWrite a areg bitoff bstride t) :=
  tileRow_keeps h fun _ _ h => .ite h.arrFault h.modArr.flagBlocks.pulseArr

theorem execBchkLoad_keeps {a areg bitoff bstride} (h : Keeps s t) : Keeping s (execBchkLoad a areg bitoff bstride t) :=
  tileRow_keeps h fun _ _ h => .ite h.arrFault h.modArr

theorem pruRow_keeps {op a fmt src dst n sync} (h : Keeps s t) : Keeping s (pruRow op a fmt src dst n sync t) :=
  tileRow_keeps h fun _ _ h => .ite h.arrFault h.withPrus.modArr

theorem execPruSqrt_keeps {a fmt src dst n sync} (h : Keeps s t) : Keeping s (execPruSqrt a fmt src dst n sync t) :=
  pruRow_keeps h

theorem execPruRecip_keeps {a fmt src dst n sync} (h : Keeps s t) : Keeping s (execPruRecip a fmt src dst n sync t) :=
  pruRow_keeps h

theorem execPruRsqrt_keeps {a fmt src dst n sync} (h : Keeps s t) : Keeping s (execPruRsqrt a fmt src dst n sync t) :=
  pruRow_keeps h

theorem execPruPivot_keeps {a fmt src dst n sync} (h : Keeps s t) : Keeping s (execPruPivot a fmt src dst n sync t) :=
  pruRow_keeps h

theorem execLoop_keeps {a lctr count target} (h : Keeps s t) : Keeping s (execLoop a lctr count target t) :=
  tileRow_keeps h fun _ _ h => h.modArr

theorem execTokw_keeps {a tok n keep} (h : Keeps s t) : Keeping s (execTokw a tok n keep t) :=
  tileRow_keeps h fun _ _ h => h.waitOn

theorem execToks_keeps {a tok n} (h : Keeps s t) : Keeping s (execToks a tok n t) :=
  tileRow_keeps h fun _ _ h => h.withSignals

theorem execRng_keeps {a areg preg nrow nelem} (h : Keeps s t) : Keeping s (execRng a areg preg nrow nelem t) :=
  tileRow_keeps h fun _ _ h => .ite h.arrFault h.modArr

theorem execMarkInstruction_keeps {a trc id} (h : Keeps s t) : Keeping s (execMarkInstruction a trc id t) :=
  tileRow_keeps h fun _ _ h => h.modArr.markRecord

theorem execSamp_keeps {a tag} (h : Keeps s t) : Keeping s (execSamp a tag t) :=
  tileRow_keeps h fun _ _ h => .ite h.modArr.sampleRecord h

theorem Keeps.segmentRecord {a action} (h : Keeps s t) : Keeps s (t.segmentRecord a action) :=
  h.sluice

theorem Keeps.dropCells {a} (h : Keeps s t) : Keeps s (t.dropCells a) :=
  h.modArr

theorem execHaltEnd_keeps {a waitt tok} (h : Keeps s t) : Keeping s (execHaltEnd a waitt tok t) :=
  tileRow_keeps h fun _ _ h => .ite h.segmentRecord.dropCells.waitOn h.segmentRecord.dropCells.endPart.boundary

theorem execHaltNext_keeps {a seg waitt tok} (h : Keeps s t) : Keeping s (execHaltNext a seg waitt tok t) :=
  tileRow_keeps h fun _ _ h => .ite h.segmentRecord.dropCells.waitOn
    (.ite h.segmentRecord.dropCells.park h.segmentRecord.dropCells.loadSegment)

theorem execHaltNextYield_keeps {a seg waitt tok} (h : Keeps s t) : Keeping s (execHaltNextYield a seg waitt tok t) :=
  tileRow_keeps h fun u _ h => by
    have hrecord : Keeps s ((u.segmentRecord a 2).dropCells a) := h.segmentRecord.dropCells
    exact .ite hrecord.park.boundary (.ite hrecord.undefineStore.waitOn
      (.ite hrecord.undefineStore.park hrecord.undefineStore.loadSegment))

theorem execTwinRendezvous_keeps {pair} (h : Keeps s t) : Keeping s (execTwinRendezvous pair t) :=
  .ite .fault (by
    dsimp only
    split
    · exact .next h.meet
    · split
      · exact .next h.meet
      · exact .next h)

theorem execTwinTimeout_keeps {a} (h : Keeps s t) : Keeping s (execTwinTimeout a t) :=
  .ite .fault (by
    split
    · exact .next (.ite h.arrFault h)
    · exact .next h)

theorem execTokenIncrement_keeps {c} (h : Keeps s t) : Keeping s (execTokenIncrement c t) :=
  .ite .fault (by
    split
    · exact .next h
    · exact .next h.withSignals.addToken)

theorem execTokwTimeout_keeps {a} (h : Keeps s t) : Keeping s (execTokwTimeout a t) :=
  .ite .fault (by
    split
    · exact .next (.ite h.arrFault h)
    · exact .next h)

theorem execLdsComplete_keeps {a buf} (h : Keeps s t) : Keeping s (execLdsComplete a buf t) :=
  .ite .fault (by
    split
    · exact .next h
    · exact .next h.modArr)

theorem Keeps.completePass {a p} (h : Keeps s t) : Keeps s (t.completePass a p) :=
  .ite h.setArr.pulseArr h.withFree.setArr.pulseArr.pulseArr

theorem execPassComplete_keeps {a} (h : Keeps s t) : Keeping s (execPassComplete a t) :=
  .ite .fault (by
    split
    · exact .next h
    · exact .ite (.next h.completePass) (.next h))

theorem execFillRun_keeps {a inbound} (h : Keeps s t) : Keeping s (execFillRun a inbound t) :=
  .ite .fault (by
    split
    · exact .next h
    · exact .ite (.next h.fillStart) (.ite (.next h) (.next h.withWaiters)))

theorem Keeps.farTraffic {sec other n write c m} (h : Keeps s t) : Keeps s (t.farTraffic sec other n write c m) :=
  h.pulse.pulse.pulse

theorem Keeps.fillTraffic {a inbound i n} (h : Keeps s t) : Keeps s (t.fillTraffic a inbound i n) :=
  .ite (.foldl h fun _ h => .ite h.pulse h.farTraffic) (.ite h h.farTraffic.pulse)

theorem execFillRunDone_keeps {a inbound} (h : Keeps s t) : Keeping s (execFillRunDone a inbound t) :=
  .ite .fault (by
    split
    · exact .next h
    · exact .ite (.next h) (.next (.pulseArr
      (.ite h.withGranted.fillTraffic.fillMove.withOutstanding.modArr.withSignals
      h.withGranted.fillTraffic.fillMove.withOutstanding.modArr))))

theorem Keeps.pruTick {sector} (h : Keeps s t) : Keeps s (t.pruTick sector) := by
  unfold State.pruTick
  split
  · exact h
  · exact h.withPrus

theorem execPruRequest_keeps {sector} (h : Keeps s t) : Keeping s (execPruRequest sector t) :=
  .ite .fault (by
    split
    · exact .next h
    · exact .next h.withPrus.modArr.pulse)

theorem execTransactionPlace_keeps (h : Keeps s t) : Keeping s (execTransactionPlace t) := by
  unfold execTransactionPlace
  split
  · exact .next h
  · exact .next h.same

theorem execWeirPass_keeps {c weir} (h : Keeps s t) : Keeping s (execWeirPass c weir t) :=
  .ite .fault (by
    split
    · exact .next h
    · exact .ite (.next h.same.charge) (.next h))

theorem execSample_keeps {a latency stall} (h : Keeps s t) : Keeping s (execSample a latency stall t) :=
  .ite .fault (by
    split
    · exact .next h
    · exact .next h.modArr.sampleRecord)

/-! ### Plan runs -/

theorem Keeps.emptyRun {c d} (h : Keeps s t) : Keeps s (t.emptyRun c d) :=
  .ite h.setWait h.finish

theorem Keeps.startPlanRun {c d} (h : Keeps s t) : Keeps s (t.startPlanRun c d) :=
  .ite h.emptyRun h.withRuns

theorem Keeps.appendFills {r p} (h : Keeps s t) : Keeps s (t.appendFills r p) := by
  unfold State.appendFills
  split
  · exact h
  · exact h.modArr

theorem Keeps.pinRun {r b} (h : Keeps s t) : Keeps s (t.pinRun r b) :=
  .foldl (.foldl (.modCtx (.modRun (.foldl h fun _ h => h.pin))) fun _ h => h.appendFills) fun _ h => by
    split
    · exact h.modArr
    · exact h

theorem Keeps.ensurePinned {r b} (h : Keeps s t) (hu : t.ensurePinned r b = some u) : Keeps s u := by
  unfold State.ensurePinned at hu
  split at hu
  · cases hu
    exact h
  · split at hu
    · cases hu
      exact h.pinRun
    · cases hu

theorem execRowMap_keeps {c seq view} (h : Keeps s t) : Keeping s (execRowMap c seq view t) := by
  unfold execRowMap
  split
  · exact .next h
  · split
    · exact .next h
    · split
      next u _ hu =>
        have hu := h.ensurePinned hu
        exact .ite (.next h) (.next (.ite hu.modRun.devEvent hu.modRun))
      · exact .next h

theorem Keeps.watchRead {c r pt w} (h : Keeps s t) : Keeps s (t.watchRead c r pt w) := by
  unfold State.watchRead
  split
  · exact h
  · exact h.ctxWrite

theorem Keeps.oweReads {c seq stage} (h : Keeps s t) : Keeps s (t.oweReads c seq stage) := by
  unfold State.oweReads
  split
  · exact h
  · exact .ite h h.modRun.modCtx

theorem Keeps.runMaybeDone {c seq} (h : Keeps s t) : Keeps s (t.runMaybeDone c seq) := by
  unfold State.runMaybeDone
  split
  · exact h
  · split
    · exact h
    · exact .ite (.ite (.finishSeq (.unpin (.withRuns (.foldl h fun _ h => h.watchRead)))) (.finishSeq (.unpin (.withRuns
      (.foldl h fun _ h => h.watchRead))))) h

theorem Keeps.discardFolds {c seq} (h : Keeps s t) : Keeps s (t.discardFolds c seq) :=
  h.withObjects.modRun.runMaybeDone

theorem Keeps.addItem {stack i} (h : Keeps s t) : Keeps s (t.addItem stack i) :=
  h.modGranary

theorem Keeps.addItems {i units stackOf} (h : Keeps s t) : Keeps s (t.addItems i units stackOf) :=
  .foldl h fun _ h => .ite h h.addItem

theorem Keeps.beginEffects {r b d} (h : Keeps s t) : Keeps s (t.beginEffects r b d) :=
  .ite (.ite h (.foldl h fun _ h => by
    split
    · split
      · exact h.modRun
      · exact h
    · exact h)) (.foldl (.ite h (.foldl h fun _ h => by
    split
    · split
      · exact h.modRun
      · exact h
    · exact h)) fun _ h => h.modStat)

theorem Keeps.beginStage {r pl d} (h : Keeps s t) : Keeps s (t.beginStage r pl d) := by
  unfold State.beginStage
  dsimp only
  split
  · exact .foldl h.modRun.beginEffects fun _ h => by
        split
        · exact .ite h.startSegment h.modRun
        · exact h
  · exact h.modRun.beginEffects.addItems

theorem Keeps.unpinOne {o c seq} (h : Keeps s t) : Keeps s (t.unpinOne o c seq) :=
  h.modObj.retire

theorem Keeps.overflowRecord {r stage} (h : Keeps s t) : Keeps s (t.overflowRecord r stage) :=
  .ite h h.modRun.event

theorem Keeps.stageDw {r o} (h : Keeps s t) : Keeps s (t.stageDw r o) := by
  unfold State.stageDw
  split
  · exact h
  · exact h.modRun.modObj

theorem Keeps.endEffects {r b d} (h : Keeps s t) : Keeps s (t.endEffects r b d) :=
  .ite h (.foldl (.modRun (.foldl h fun _ h => h.stageDw)) fun _ h => .ite h.unpinOne h)

theorem Keeps.stageDone {r b d skipped} (h : Keeps s t) : Keeps s (t.stageDone r b d skipped) :=
  .runMaybeDone (.ite (.foldl h.modRun.overflowRecord fun _ h => by
    split
    · exact h.endEffects
    · exact h) (.foldl (.foldl h.modRun.overflowRecord fun _ h => by
    split
    · exact h.endEffects
    · exact h) fun _ h => h.oweReads))

theorem Keeps.startGathers {r b d} (h : Keeps s t) : Keeps s (t.startGathers r b d) :=
  .ite h (.foldl h fun _ h => by
    split
    · exact h
    · exact .ite h h.exchange)

theorem execStageStart_keeps {c seq stage} (h : Keeps s t) : Keeping s (execStageStart c seq stage t) := by
  unfold execStageStart
  split
  · exact .next h
  · split
    · exact .next h
    · split
      next u _ hu =>
        have hu := h.ensurePinned hu
        exact .ite (.next h) (.ite (.next hu.startGathers) (.ite (.next hu.modRun.stageDone) (.next hu.beginStage)))
      · exact .next h

theorem execStageComplete_keeps {c seq stage} (h : Keeps s t) : Keeping s (execStageComplete c seq stage t) := by
  unfold execStageComplete
  split
  · exact .next h
  · split
    · exact .next h
    · split
      · exact .next h
      · exact .ite (.next h.stageDone) (.next h)

theorem Keeps.gatherView {r b obj side} (h : Keeps s t) (hu : t.gatherView r b obj side = some u) : Keeps s u := by
  unfold State.gatherView at hu
  split at hu
  · split at hu
    · cases hu
    · split at hu
      · cases hu
        exact h
      · cases hu
        exact h.exchange
  · cases hu

theorem execGramStage_keeps {c seq obj side} (h : Keeps s t) : Keeping s (execGramStage c seq obj side t) := by
  unfold execGramStage
  split
  · exact .next h
  · split
    · exact .next h
    · refine .ite (.next h) ?_
      split
      · exact .next h
      next u hu =>
        have hu := h.ensurePinned hu
        refine .ite ?_ (.next h)
        split
        next v hv => exact .next (hu.gatherView hv)
        next => exact .next (.modRun (.ite hu hu.modStat))

theorem Keeps.foldDone {o g} (h : Keeps s t) : Keeps s (t.foldDone o g) := by
  unfold State.foldDone
  split
  · exact h
  · exact h.modObj.modRun.runMaybeDone

theorem execFold_keeps {obj} (h : Keeps s t) : Keeping s (execFold obj t) := by
  unfold execFold
  split
  · exact .next h
  · dsimp only
    split
    · exact .next h
    · exact .ite (.next h) (by
          split
          · exact .next h
          · exact .next h.discardFolds
          · exact .ite (.next h.modObj.foldDone) (.next h.modObj.addItems))

theorem execLayerReplay_keeps {c seq layer} (h : Keeps s t) : Keeping s (execLayerReplay c seq layer t) := by
  unfold execLayerReplay
  split
  · exact .next h
  · split
    · exact .next h
    · exact .ite (.next (.event (.foldl h.withFree.modRun.withNum fun _ h => h.appendFills))) (.next h)

theorem Keeps.rescaleRegion {c reg base h' t' n} (h : Keeps s t) : Keeps s (t.rescaleRegion c reg base h' t' n).1 :=
  .foldl_fst h fun _ h => h.regionPut

theorem Keeps.rescaleSlot {c slot} (h : Keeps s t) : Keeps s (t.rescaleSlot c slot).1 := by
  refine .foldl_fst h fun e h => ?_
  split
  · split
    · exact h
    · exact h.rescaleRegion
  · exact h

theorem execRescale_keeps {c slot} (h : Keeps s t) : Keeping s (execRescale c slot t) := by
  unfold execRescale
  split
  · exact .next h
  · split
    · exact .next h
    · split
      · exact .next h
      next u hu => exact .next (h.ensurePinned hu).rescaleSlot.withNum

theorem execWatchRead_keeps {c seq point} (h : Keeps s t) : Keeping s (execWatchRead c seq point t) := by
  unfold execWatchRead
  split
  · exact .next h
  · split
    · exact .next h
    · exact .next h.watchRead.modRun

/-! ### Curvature unit -/

theorem Keeps.sPut {b i j p} (h : Keeps s t) : Keeps s (t.sPut b i j p) :=
  h.regionPut

theorem Keeps.decayBlock {b d} (h : Keeps s t) : Keeps s (t.decayBlock b d) :=
  .foldl h fun _ h => .foldl h fun _ h => .ite (.ite h.sPut.sPut h.sPut) h

theorem Keeps.copySnapshot {b k place} (h : Keeps s t) : Keeps s (t.copySnapshot b k place) :=
  .foldl h fun _ h => .foldl h fun _ h => .ite h.regionPut h

theorem Keeps.snapshot {n b d reason order} (h : Keeps s t) : Keeps s (t.snapshot n b d reason order) := by
  unfold State.snapshot
  dsimp only
  split
  · exact .rootRecord (.withCurv (.ite h.modBlock.withCurv h.modBlock))
  · exact h.copySnapshot.modBlock.withCurv

theorem Keeps.decayDone {d} (h : Keeps s t) : Keeps s (t.decayDone d) := by
  unfold State.decayDone
  split
  · exact h
  · dsimp only
    split
    · exact h.decayBlock.modBlock
    · exact h.decayBlock.modBlock.snapshot.requestsSettle

theorem Keeps.putWords {c reg off ws} (h : Keeps s t) : Keeps s (t.putWords c reg off ws) :=
  h.regionPut

theorem execBlockRelease_keeps {block} (h : Keeps s t) : Keeping s (execBlockRelease block t) := by
  unfold execBlockRelease
  split
  · exact .next h
  · exact .ite (.next h) (.next (.modBlock (by
        split
        · exact h.putWords
        · exact h)))

theorem Keeps.choose {step floor order ch} (h : Keeps s t) : Keeps s (t.choose step floor order ch) := by
  unfold State.choose
  exact h.withCurv.modBlock.devEvent

theorem Keeps.chooseCharged {step floor order l} (h : Keeps s t) : Keeps s (t.chooseCharged step floor order l).1 := by
  induction l generalizing t order with
  | nil => exact h
  | cons x l ih =>
    unfold State.chooseCharged
    split
    · exact h
    · exact ih h.choose

theorem Keeps.setThetaEff {step new why} (h : Keeps s t) : Keeps s (t.setThetaEff step new why) :=
  .ite h.withCurv h.withCurv.devEvent

theorem Keeps.adaptTheta {step deferred cap} (h : Keeps s t) : Keeps s (t.adaptTheta step deferred cap) :=
  .ite h (.ite h.withCurv.setThetaEff (.ite h.withCurv.setThetaEff h.withCurv))

theorem Keeps.decisions {c step} (h : Keeps s t) : Keeps s (t.decisions c step) :=
  .adaptTheta (.event (.withCurv (.chooseCharged (.foldl h.withCurv fun _ h => by
    split
    · exact h.choose
    · exact h))))

theorem Keeps.setShift {k step new why} (h : Keeps s t) : Keeps s (t.setShift k step new why) := by
  unfold State.setShift
  split
  · exact h
  · exact .ite h h.modStat.devEvent

theorem Keeps.resetStat {k step} (h : Keeps s t) : Keeps s (t.resetStat k step) := by
  unfold State.resetStat
  split
  · exact h
  · exact .ite h h.regionPut.modStat.withBlocks.setShift

theorem Keeps.rootPutAt {t' at_ off bs} (h : Keeps s t) : Keeps s (t.rootPutAt t' at_ off bs) :=
  h.regionPut

theorem Keeps.copyAtPlace {t' at_ b} (h : Keeps s t) : Keeps s (t.copyAtPlace t' at_ b).1 :=
  h.rootPutAt

theorem Keeps.makeCopy {n} (h : Keeps s t) : Keeps s (t.makeCopy n) := by
  unfold State.makeCopy
  split
  · exact h
  · exact h.copyAtPlace.modBlock

theorem Keeps.makeRemoteCopy {k q} (h : Keeps s t) : Keeps s (t.makeRemoteCopy k q) := by
  unfold State.makeRemoteCopy
  split
  · exact h
  · exact h.copyAtPlace.modStat

theorem Keeps.applyPrecond {o step} (h : Keeps s t) : Keeps s (t.applyPrecond o step) := by
  unfold State.applyPrecond
  split
  · exact h
  · split
    · exact h
    · extract_lets _ s1 s2 s3 keep _ s5 s6 s7 s8
      have h1 : Keeps s s1 := h.modObj
      have h2 : Keeps s s2 := .ite h1 (.foldl h1 fun _ h => h.setShift)
      have h5 : Keeps s s5 := Keeps.withCurv (Keeps.abandon h2)
      have h6 : Keeps s s6 := .ite h2 h5.withStatsBlocks
      have h8 : Keeps s s8 := .ite (.foldl (.foldl h6 fun _ h => h.makeCopy) fun _ h => by
        split
        · exact .foldl h fun _ h => h.makeRemoteCopy
        · exact h) h6
      exact .ite h8.withStatsBlocks h8

theorem Keeps.shareRoots {c step done} (h : Keeps s t) : Keeps s (t.shareRoots c step done) :=
  .foldl h fun _ h => by
    split
    · exact h
    · exact .ite h h.exchange

theorem Keeps.installDone {n} (h : Keeps s t) : Keeps s (t.installDone n) := by
  unfold State.installDone
  split
  · dsimp only
    split
    · exact .ite (.withCurv (.modBlock (by
          split
          · exact h
          · exact .ite h.rootPutAt.rootPutAt h.rootPutAt))) (.makeCopy (.withCurv (.modBlock (by
          split
          · exact h
          · exact .ite h.rootPutAt.rootPutAt h.rootPutAt))))
    · exact .withCurv (.modBlock (by
          split
          · exact h
          · exact .ite h.rootPutAt.rootPutAt h.rootPutAt))
  · exact h

theorem Keeps.logHistograms {c step} (h : Keeps s t) : Keeps s (t.logHistograms c step) :=
  .foldl (.foldl h fun _ h => .ite h h.regionPut) fun _ h => .foldl h fun _ h => h.regionPut

theorem Keeps.rescaleRecord {step} (h : Keeps s t) : Keeps s (t.rescaleRecord step) := by
  unfold State.rescaleRecord
  split
  · exact h
  · exact .ite h h.withNum.devEvent

theorem Keeps.sealScale {step} (h : Keeps s t) : Keeps s (t.sealScale step) :=
  .ite h.rescaleRecord h.rescaleRecord.withNum

theorem Keeps.requestBlocks (h : Keeps s t) : Keeps s t.requestBlocks :=
  .foldl h.withCurv fun _ h => by
    split
    · exact h.modBlock
    · exact h

theorem Keeps.sealRest {c step} (h : Keeps s t) : Keeps s (t.sealRest c step) :=
  .foldl h.withCurv.decisions.requestBlocks.requestsSettle fun _ h => .ite h.addItem h

theorem Keeps.installNext (h : Keeps s t) : Keeps s t.installNext := by
  unfold State.installNext
  split
  · exact h
  · exact .ite h h.shareRoots.sealRest

theorem Keeps.doStatCfg {c d} (h : Keeps s t) : Keeps s (t.doStatCfg c d) :=
  .foldl h fun _ h => h.modStat

theorem Keeps.applyCfgDue {c} (h : Keeps s t) : Keeps s (t.applyCfgDue c) :=
  .foldl h.withCurv fun _ h => h.doStatCfg

theorem Keeps.sealStep {c step} (h : Keeps s t) : Keeps s (t.sealStep c step) := by
  unfold State.sealStep
  refine .installNext (.withCurv (.foldl (.withBlocks (.foldl (.withStats (.foldl h.same.logHistograms.sealScale.applyCfgDue
    fun _ h => .ite h.applyPrecond h)) fun _ h => .ite h.resetStat h)) fun r h => ?_))
  split
  · exact h.addItem
  · exact h

theorem Keeps.deferOr {c d go} (h : Keeps s t) (hgo : ∀ u, Keeps s u → Keeps s (go u)) : Keeps s (t.deferOr c d go) :=
  .ite (by
    split
    · exact h.setTxn
    · exact h) (hgo _ h)

theorem Keeps.startStatCfgSet {c d} (h : Keeps s t) : Keeps s (t.startStatCfgSet c d) :=
  .finish (.deferOr h fun _ h => h.doStatCfg)

theorem Keeps.startStatCfgReset {c d} (h : Keeps s t) : Keeps s (t.startStatCfgReset c d) :=
  .finish (.deferOr h fun _ h => h.doStatCfg)

theorem Keeps.putMat {b k n a} (h : Keeps s t) : Keeps s (t.putMat b k n a) :=
  h.regionPut

theorem Keeps.refreshItem {b w} (h : Keeps s t) : Keeps s (t.refreshItem b w) :=
  h.addItem

theorem Keeps.setCurrent {g r} (h : Keeps s t) : Keeps s (t.setCurrent g r) :=
  h.withCurv

theorem Keeps.refreshStops {g r b code} (h : Keeps s t) : Keeps s (t.refreshStops g r b code) :=
  .ite h.setCurrent.refreshItem h.setCurrent

theorem Keeps.stageOneDone {g r b k} (h : Keeps s t) : Keeps s (t.stageOneDone g r b k) :=
  .ite h.refreshStops h.setCurrent.refreshItem

theorem Keeps.iterationDone {g r b k} (h : Keeps s t) : Keeps s (t.iterationDone g r b k) := by
  unfold State.iterationDone
  dsimp only
  split
  · exact h.putMat.putMat.putMat.refreshStops
  · exact h.putMat.putMat.putMat.setCurrent

theorem Keeps.arrayStageDone {g} (h : Keeps s t) : Keeps s (t.arrayStageDone g) := by
  unfold State.arrayStageDone
  split
  · exact h
  · split
    · exact h
    · exact .ite h.stageOneDone (.ite h.iterationDone h)

theorem Keeps.rootFormDone {g} (h : Keeps s t) : Keeps s (t.rootFormDone g) := by
  unfold State.rootFormDone
  split
  · exact h
  · split
    · exact h
    · exact .ite h.putMat.putMat.putMat.refreshStops h.putMat.putMat.putMat.setCurrent

theorem Keeps.rootResultDone {g} (h : Keeps s t) : Keeps s (t.rootResultDone g) := by
  unfold State.rootResultDone
  split
  · exact h
  · split
    · exact h
    · exact .setCurrent (.ite (.regionPut (.ite h.regionPut.regionPut h.regionPut)) (.ite h.regionPut.regionPut h.regionPut))

theorem Keeps.fragmentCycle {p g} (h : Keeps s t) : Keeps s (t.fragmentCycle p g) := by
  unfold State.fragmentCycle
  split
  · exact h.endFragment
  · exact .ite h (.ite h.setCurrent.endFragment.takeWork h.setCurrent.modPair)

theorem Keeps.refreshTick (h : Keeps s t) : Keeps s t.refreshTick :=
  .foldl (.foldl h fun _ h => by
    split
    · exact h.fragmentCycle
    · exact h) fun _ h => h.arrayStageDone

theorem execRefreshStart_keeps {group} (h : Keeps s t) : Keeping s (execRefreshStart group t) := by
  unfold execRefreshStart
  dsimp only
  split
  · exact .next h
  · split
    · exact .next h
    · exact .ite (.next h) (.next (.foldl h.withCurv fun _ h => h.takeWork))

theorem Keeps.damping {k step code iters} (h : Keeps s t) : Keeps s (t.damping k step code iters) := by
  unfold State.damping
  split
  · exact h
  · exact .ite h (.ite h.modStat.setShift (.ite (.ite h.modStat.setShift h.modStat) h.modStat))

theorem Keeps.countRefresh {block ok} (h : Keeps s t) : Keeps s (t.countRefresh block ok) :=
  h.withCurv.requestsSettle

theorem execRefreshFinish_keeps {group} (h : Keeps s t) : Keeping s (execRefreshFinish group t) := by
  unfold execRefreshFinish
  split
  · exact .next h
  · split
    · exact .next h
    · refine .ite (.next h) ?_
      dsimp -zeta only [State.fresh]
      extract_lets cycles _ s1 c floor _ s2 ok _ res _ s3 s4 s5
      have h1 : Keeps s s1 := h.same
      have h2 : Keeps s s2 := .ite h1.withCurv h1
      have h3 : Keeps s s3 := .ite (Keeps.withCurv h2.modBlock) h2.modBlock
      have h4 : Keeps s s4 := h3.rootRecord
      have h5 : Keeps s s5 := h4.damping
      exact .next h5.countRefresh

/-! ### Granaries and updates -/

theorem Keeps.stageHist {r stage bins} (h : Keeps s t) : Keeps s (t.stageHist r stage bins) :=
  .ite h h.histMerge

theorem Keeps.runBits {r reg j bits} (h : Keeps s t) : Keeps s (t.runBits r reg j bits) :=
  .foldl h fun _ h => h.runPut

theorem Keeps.elementUnit {r d stack u} (h : Keeps s t) : Keeps s (t.elementUnit r d stack u) := by
  unfold State.elementUnit
  split
  · exact h
  · exact h.runPut.runBits.stageHist
  · split
    · exact h
    · dsimp only
      split
      · exact h.ctxFault
      · exact h.runPut.runBits.stageHist

theorem Keeps.setMapBit {c reg j} (h : Keeps s t) : Keeps s (t.setMapBit c reg j) :=
  h.regionPut

theorem Keeps.putMapBit {c reg j v} (h : Keeps s t) : Keeps s (t.putMapBit c reg j v) :=
  h.regionPut

theorem Keeps.foldUnit {obj g j} (h : Keeps s t) : Keeps s (t.foldUnit obj g j) := by
  unfold State.foldUnit
  split
  · exact h
  · exact .ite h.regionPut.regionPut.setMapBit h.regionPut.regionPut

theorem Keeps.txnPut {c t' reg off bs} (h : Keeps s t) : Keeps s (t.txnPut c t' reg off bs) :=
  h.locPut

theorem Keeps.applyUnit {c stack e tag j} (h : Keeps s t) : Keeps s (t.applyUnit c stack e tag j) := by
  unfold State.applyUnit
  split
  · extract_lets d row col n mfmt own mAt vAt wAt mb master m1 v1 us prog xs old s1 s2 s3 w s4 s5
    have h1 : Keeps s s1 := h.txnPut
    have h2 : Keeps s s2 := .ite h1.txnPut h1
    have h3 : Keeps s s3 := .ite h2.txnPut h2
    have h4 : Keeps s s4 := h3.txnPut
    have h5 : Keeps s s5 := .ite h4.putMapBit h4
    exact h5.modGranary
  · exact h

theorem Keeps.normUnit {obj stack j} (h : Keeps s t) : Keeps s (t.normUnit obj stack j) := by
  unfold State.normUnit
  split
  · exact h
  · exact .ite h.modGranary h.modGranary

theorem Keeps.workUnits {stack i units} (h : Keeps s t) : Keeps s (t.workUnits stack i units) := by
  unfold State.workUnits
  split
  · exact .foldl h fun _ h => h.foldUnit
  · split
    · exact h
    · split
      · exact h
      · exact .foldl h fun _ h => h.elementUnit
  · exact .foldl h fun _ h => h.normUnit
  · exact .foldl h fun _ h => h.applyUnit
  · exact h

theorem Keeps.granEnd {status detail result} (h : Keeps s t) : Keeps s (t.granEnd status detail result) := by
  unfold State.granEnd
  split
  · exact h
  · split
    · exact h
    · exact h.withGran.finishSeq.recipesSettle

theorem Keeps.applyDone {c seq} (h : Keeps s t) : Keeps s (t.applyDone c seq) := by
  unfold State.applyDone
  dsimp only
  split
  · exact h
  · split
    · exact h
    · exact .ite h (.granEnd (by
          split
          · exact h.setTxn
          · exact h))

theorem Keeps.workDone {i} (h : Keeps s t) : Keeps s (t.workDone i) := by
  unfold State.workDone
  split
  · exact .ite h h.foldDone
  · exact h.decayDone
  · exact h.rootFormDone
  · exact h.rootResultDone
  · exact h.installDone.installNext
  · exact h.applyDone
  · exact h

theorem execGranaryChunk_keeps {stack} (h : Keeps s t) : Keeping s (execGranaryChunk stack t) :=
  .ite .fault (by
    split
    · exact .next h
    · exact .next (.ite (.workDone (.modGranary (.foldl h.workUnits fun _ h => h.weirEnter))) (.modGranary
      (.foldl h.workUnits fun _ h => h.weirEnter))))

theorem Keeps.doRootRefresh {c d} (h : Keeps s t) : Keeps s (t.doRootRefresh c d) :=
  h.withCurv.requestsSettle

theorem Keeps.startRootRefresh {c d} (h : Keeps s t) : Keeps s (t.startRootRefresh c d) :=
  .deferOr h fun _ h => h.doRootRefresh

theorem Keeps.doPrecondCfg {c d} (h : Keeps s t) : Keeps s (t.doPrecondCfg c d) :=
  .foldl h fun _ h => h.modObj

theorem Keeps.startPrecondCfg {c d} (h : Keeps s t) : Keeps s (t.startPrecondCfg c d) :=
  .finish (.deferOr h fun _ h => h.doPrecondCfg)

theorem Keeps.precondDone {obj step flags r q} (h : Keeps s t) : Keeps s (t.precondDone obj step flags r q) := by
  unfold State.precondDone
  split
  · exact h
  · dsimp only
    split
    · exact h.modObj.putWords
    · exact h.modObj

theorem Keeps.precondition {o step} (h : Keeps s t) : Keeps s (t.precondition o step) :=
  .ite (.exchange (.modObj (.ite h (.foldl h fun _ h => by
    split
    · exact h
    · exact .ite h.regionPut.setMapBit h.regionPut)))) (.precondDone (.modObj (.ite h (.foldl h fun _ h => by
    split
    · exact h
    · exact .ite h.regionPut.setMapBit h.regionPut))))

theorem Keeps.releaseBuf {o} (h : Keeps s t) : Keeps s (t.releaseBuf o) := by
  unfold State.releaseBuf
  split
  · exact h
  · exact h.regionPut.modObj

theorem Keeps.writeWhole {c d rs} (h : Keeps s t) : (t.writeWhole c d rs).Keeping s := by
  induction rs generalizing t with
  | nil => exact h
  | cons r rest ih =>
    have hw := h.memberWrite (c := c) (d := d) (reg := r) (off := 0) (n := t.regionLen c r)
    unfold State.writeWhole
    split
    case h_1 u hu =>
      rw [hu] at hw
      exact ih hw
    case h_2 u hu =>
      rw [hu] at hw
      exact hw
    case h_3 u hu =>
      rw [hu] at hw
      exact hw

theorem Keeps.applyBegin (h : Keeps s t) : Keeps s t.applyBegin := by
  unfold State.applyBegin
  split
  · exact h
  · split
    · split
      · exact h
      · dsimp only
        refine .ite h (h.writeWhole.run fun u h => ?_)
        refine .applyDone (.foldl h.setWait.withGran fun e h => ?_)
        split
        · exact h.withGranaries
        · exact h.withGranaries.addItems
    · exact h

theorem Keeps.setGranPhase {ph} (h : Keeps s t) : Keeps s (t.setGranPhase ph) :=
  h.withGran

theorem Keeps.normBegin (h : Keeps s t) : Keeps s t.normBegin := by
  unfold State.normBegin
  split
  · exact h
  · exact .foldl h.setGranPhase.withGranaries fun _ h => by
        split
        · exact h
        · exact .ite h (.ite (.foldl h fun _ h => h.addItem) h.addItems)

theorem Keeps.granAdvance (h : Keeps s t) : Keeps s t.granAdvance := by
  unfold State.granAdvance
  split
  · exact h
  · split
    · exact .ite (.ite h.granEnd h.setGranPhase.applyBegin) (.ite h.normBegin h)
    · exact h

theorem Keeps.markGran {c d} (h : Keeps s t) : Keeps s (t.markGran c d) := by
  unfold State.markGran
  split
  · exact h.setTxn
  · exact h

theorem Keeps.granEmpty {c d} (h : Keeps s t) : Keeps s (t.granEmpty c d) :=
  h.markGran.finish

theorem Keeps.startUpdate {c d} (h : Keeps s t) : Keeps s (t.startUpdate c d) :=
  .ite h.granEmpty (.granAdvance (.withGran (.ite h.markGran h.markGran.sealStep)))

theorem Keeps.startGranStepFull {c d} (h : Keeps s t) : Keeps s (t.startGranStepFull c d) :=
  h.startUpdate

theorem Keeps.startGranStepNorm {c d} (h : Keeps s t) : Keeps s (t.startGranStepNorm c d) :=
  h.startUpdate

theorem Keeps.startGranStepApply {c d} (h : Keeps s t) : Keeps s (t.startGranStepApply c d) :=
  .ite h.granEmpty h.markGran.withGran.applyBegin

theorem Keeps.startGranStepDiscard {c d} (h : Keeps s t) : Keeps s (t.startGranStepDiscard c d) :=
  .ite h.granEmpty (.finish (.ctxEvent (.foldl h fun _ h => h.releaseBuf)))

theorem execPreconditioning_keeps {obj} (h : Keeps s t) : Keeping s (execPreconditioning obj t) := by
  unfold execPreconditioning
  split
  · exact .next h
  · split
    · exact .ite (.next h.precondition.granAdvance) (.next h)
    · exact .next h

theorem Keeps.granSkip {g n bound} (h : Keeps s t) : Keeps s (t.granSkip g n bound) :=
  .granEnd (.event (.modGranary (.withGran (.foldl h fun _ h => h.releaseBuf))))

theorem Keeps.granDecide {g op word n} (h : Keeps s t) : Keeps s (t.granDecide g op word n) :=
  .ite (.ite h.withGran.granEnd h.withGran.setGranPhase.applyBegin) h.granSkip

theorem execNormCheck_keeps (h : Keeps s t) : Keeping s (execNormCheck t) := by
  unfold execNormCheck
  split
  · exact .next h
  · split
    · exact .ite (.next h) (by
          split
          · exact .next h.granDecide
          · exact .ite (.ite (.next h) (.next h.exchange)) (.next h.granDecide))
    · exact .next h

theorem Keeps.startGranProg {c d} (h : Keeps s t) : Keeps s (t.startGranProg c d) :=
  h.modCtx.recipesSettle

/-! ### Collectives and the solver -/

theorem Keeps.finishColl {f} (h : Keeps s t) : Keeps s (t.finishColl f) :=
  .withWrites h fun _ h => .finish (.foldl (.foldl h fun _ h => h.charge) fun _ h => h.putAt)

theorem Keeps.spreadCopy {f o reg} (h : Keeps s t) : Keeps s (t.spreadCopy f o reg) :=
  .foldl h fun _ h => .ite h (.foldl h fun _ h => h.regionPut)

theorem Keeps.installRemote {k half r} (h : Keeps s t) : Keeps s (t.installRemote k half r) := by
  unfold State.installRemote
  split
  · exact h
  · exact .ite h.rootPutAt.rootPutAt.modStat.makeRemoteCopy h.rootPutAt.rootPutAt.modStat

theorem Keeps.finishExchange {f} (h : Keeps s t) : Keeps s (t.finishExchange f) := by
  unfold State.finishExchange
  dsimp only
  split
  · exact h.withGran
  · exact h.precondDone.granAdvance
  · split
    · exact h.spreadCopy
    · exact h
  · exact .modRun (by
        split
        · exact h.spreadCopy
        · exact h)
  · exact .foldl h fun _ h => h.installRemote
  · split
    · exact h
    · exact h.modRun

theorem Keeps.collSettle {n} (h : Keeps s t) : Keeps s (t.collSettle n) := by
  induction n generalizing t with
  | zero => exact h
  | succ n ih =>
    unfold State.collSettle
    split
    · exact h
    · exact ih (.ite h.withGroup.finishColl h.withGroup.finishExchange)

theorem Keeps.giveData {e} (h : Keeps s t) : Keeps s (t.giveData e) := by
  unfold State.giveData
  split
  · exact h.withGroup
  · exact .ite h.teardown h.withGroup

theorem Keeps.takeEarly (h : Keeps s t) : Keeps s t.takeEarly :=
  .collSettle (.foldl h.withGroup fun _ h => h.giveData)

theorem Keeps.exchangesBegin (h : Keeps s t) : Keeps s t.exchangesBegin := by
  unfold State.exchangesBegin
  dsimp only
  split
  · exact h
  · exact .takeEarly (.foldl h.withGroup fun _ h => h.beginExchange)

theorem execPeerWrite_keeps {reqId payload} (h : Keeps s t) : Keeping s (execPeerWrite reqId payload t) :=
  .ite (.next h) (by
    split
    · exact .next h.cfgError
    · dsimp only
      split
      · exact .next h.withGroup.withGroup
      · exact .next h.withGroup.pulse.giveData.collSettle)

theorem Keeps.voterLost {rank} (h : Keeps s t) : Keeps s (t.voterLost rank) :=
  .foldl h fun _ h => h.abortTxn

theorem execCollectiveTimeout_keeps {rank} (h : Keeps s t) : Keeping s (execCollectiveTimeout rank t) :=
  .ite (.next h) (.next (.voterLost (.foldl h.withGroup fun _ h => h.teardown)))

theorem Keeps.collSend {c d ranks} (h : Keeps s t) : Keeps s (t.collSend c d ranks) := by
  unfold State.collSend
  dsimp only
  split
  · exact h.sendTo
  · exact h.sendTo
  · exact h.sendTo
  · exact .ite h.sendTo h
  · exact .foldl h fun _ h => .ite h.sendTo h

theorem Keeps.startColl {c d} (h : Keeps s t) : Keeps s (t.startColl c d) :=
  .ite h.finish (.ite h.setWait (.pastWeirs h fun _ h => .takeEarly (.withGroup (.collSend (.foldl h.setWait
    fun _ h => h.charge)))))

theorem Keeps.startAllreduce {c d} (h : Keeps s t) : Keeps s (t.startAllreduce c d) :=
  h.startColl

theorem Keeps.startReducescatter {c d} (h : Keeps s t) : Keeps s (t.startReducescatter c d) :=
  h.startColl

theorem Keeps.startAllgather {c d} (h : Keeps s t) : Keeps s (t.startAllgather c d) :=
  h.startColl

theorem Keeps.startBroadcast {c d} (h : Keeps s t) : Keeps s (t.startBroadcast c d) :=
  h.startColl

theorem Keeps.startPermute {c d} (h : Keeps s t) : Keeps s (t.startPermute c d) :=
  h.startColl

theorem Keeps.setProblem {c n p} (h : Keeps s t) : Keeps s (t.setProblem c n p) :=
  h.withProblems

theorem Keeps.startSlvStructLoad {c d} (h : Keeps s t) : Keeps s (t.startSlvStructLoad c d) :=
  .ite h.finish (.ite h.setWait (.finish (.foldl h fun _ h => h.setProblem)))

theorem Keeps.startSlvStructFree {c d} (h : Keeps s t) : Keeps s (t.startSlvStructFree c d) :=
  .ite h.finish (.ite h.setWait h.withProblems.finish)

theorem Keeps.applyDeltas {w} (h : Keeps s t) : Keeps s (t.applyDeltas w).1 := by
  refine .foldl_fst h fun e h => ?_
  split
  · exact h
  · split
    · exact h
    · split
      · exact h
      · exact h.setProblem

theorem Keeps.runDeltas {d w} (h : Keeps s t) : Keeps s (t.runDeltas d w) :=
  .ite h.applyDeltas.finish h.applyDeltas.withDeltas.setWait

theorem Keeps.startSlvDelta {c d} (h : Keeps s t) : Keeps s (t.startSlvDelta c d) :=
  .ite h.finish h.runDeltas

theorem Keeps.retryDelta {c d} (h : Keeps s t) : Keeps s (t.retryDelta c d) := by
  unfold State.retryDelta
  split
  · exact h
  · exact h.withDeltas.runDeltas

theorem Keeps.startSlvBatch {c d} (h : Keeps s t) : Keeps s (t.startSlvBatch c d) :=
  .ite h.finish h.withBatches

theorem Keeps.setBatch {b} (h : Keeps s t) : Keeps s (t.setBatch b) :=
  h.withBatches

theorem Keeps.retrySolver {c} (h : Keeps s t) : Keeps s (t.retrySolver c) :=
  .foldl h fun _ h => .ite h.retryDelta (.ite h.startSlvStructFree h.startSlvStructLoad)

theorem Keeps.batchMaybeDone {c seq} (h : Keeps s t) : Keeps s (t.batchMaybeDone c seq) := by
  unfold State.batchMaybeDone
  split
  · exact h
  · exact .ite h h.withBatches.finishSeq.retrySolver

theorem Keeps.endProblem {b n o} (h : Keeps s t) : Keeps s (t.endProblem b n o) := by
  unfold State.endProblem
  split
  · exact h
  · exact .batchMaybeDone (by
        split
        · exact .setBatch (.withPairs (.setProblem (.charge (.ctxWrite (.ite h h.ctxWrite)))))
        · exact .withPairs (.setProblem (.charge (.ctxWrite (.ite h h.ctxWrite)))))

theorem Keeps.releaseProblem {b late n} (h : Keeps s t) : Keeps s (t.releaseProblem b late n) := by
  unfold State.releaseProblem
  split
  · exact h
  · exact .ite h.setProblem.endProblem (.ite h.setProblem.endProblem (.ite h.setProblem.endProblem
    (.ite h.setProblem.endProblem h.setProblem)))

theorem execBatchRelease_keeps {c seq} (h : Keeps s t) : Keeping s (execBatchRelease c seq t) := by
  unfold execBatchRelease
  split
  · exact .next h
  · exact .ite (.next h) (.next (.foldl h.setBatch fun _ h => h.releaseProblem))

theorem execProblemStart_keeps {c pair} (h : Keeps s t) : Keeping s (execProblemStart c pair t) :=
  .ite .fault (.ite (.next h) (by
    split
    · exact .next h
    · split
      · exact .next h
      · exact .next h.setProblem.modPair))

theorem Keeps.solverHeld {c plan key} (h : Keeps s t) : Keeps s (t.solverHeld c plan key) := by
  unfold State.solverHeld
  split
  · exact h
  · exact h.regionPut

theorem Keeps.solverSat {pair key} (h : Keeps s t) : Keeps s (t.solverSat pair key) :=
  .ite (.modArr (.ite h.modArr h)) (.ite h.modArr h)

theorem execSolverFragment_keeps {c problem} (h : Keeps s t) : Keeping s (execSolverFragment c problem t) := by
  unfold execSolverFragment
  split
  · split
    · exact .next h
    · exact .next (.ite (.giveBack (by
          split
          · exact .endProblem (.solverHeld (.setProblem (.ite h.withFree.solverSat h.withFree)))
          · exact .solverHeld (.setProblem (.ite h.withFree.solverSat h.withFree)))) (.ite (.modPair (by
          split
          · exact .endProblem (.solverHeld (.setProblem (.ite h.withFree.solverSat h.withFree)))
          · exact .solverHeld (.setProblem (.ite h.withFree.solverSat h.withFree)))) (by
          split
          · exact .endProblem (.solverHeld (.setProblem (.ite h.withFree.solverSat h.withFree)))
          · exact .solverHeld (.setProblem (.ite h.withFree.solverSat h.withFree)))))
  · exact .next h

theorem execDeadline_keeps {c seq} (h : Keeps s t) : Keeping s (execDeadline c seq t) := by
  unfold execDeadline
  split
  · exact .next h
  · exact .ite (.next h) (.ite (.next h.setBatch) (.next (.foldl h.setBatch fun _ h => by
        split
        · split
          · split
            · exact h.endProblem
            · exact h
          · exact h
        · exact h)))

/-! ### Partitions, swapping and weirs -/

theorem Keeps.startCtxDefine {c d} (h : Keeps s t) : Keeps s (t.startCtxDefine c d) := by
  unfold State.startCtxDefine
  dsimp only
  split
  · exact h
  · exact h.withCtxs.setField.finish

theorem Keeps.saveSlices {homes contents} (h : Keeps s t) : Keeps s (t.saveSlices homes contents) := by
  refine h.withHbm fun hm => ?_
  exact List.foldlRecOn (motive := fun m => Memory.wf m = true) _ _ hm fun m hm e _ => memMove_wf _ _ _ (memErase_wf _ _ hm)

/-- The pages of one sector's part of a swapped store, after those of the sectors before (the step of `State.swapAlloc`). -/
def swapSector (k pages : Nat) (a : State × List (Nat × Nat)) : Option (State × List (Nat × Nat)) :=
  match pickFree 7 [k, pages] ((a.1.nearStacks k).filter fun st => decide (pages ≤ a.1.allocatable st)) with
  | none => none
  | some st => let r := a.1.takePages st none pages; some (r.1, a.2 ++ r.2.map fun g => (st, g))

theorem Keeps.swapSector {k pages a r} (h : Keeps s a.1) (hr : swapSector k pages a = some r) : Keeps s r.1 := by
  unfold Machine.swapSector at hr
  split at hr
  · cases hr
  · cases hr
    exact h.takePages

theorem swapAlloc_eq {slices : List Nat} : t.swapAlloc slices =
    (sliceSectors slices).foldl (fun acc k => acc.bind (swapSector k (swapPart slices (sliceSectors slices) k))) (some
      (t, [])) := rfl

theorem Keeps.swapAlloc {slices r} (h : Keeps s t) (hr : t.swapAlloc slices = some r) : Keeps s r.1 := by
  rw [swapAlloc_eq] at hr
  have hsectors (l : List Nat) (n : Nat → Nat) : ∀ x ∈ l.foldl (fun acc k => acc.bind (Machine.swapSector k (n k))) (some
    (t, [])),
      Keeps s x.1 := by
    refine List.foldlRecOn (motive := fun acc : Option (State × List (Nat × Nat)) => ∀ x ∈ acc, Keeps s x.1) _ _ ?_ ?_
    · rintro x ⟨⟩
      exact h
    · intro acc hacc k _ x hx
      obtain ⟨a, ha, hx⟩ := Option.bind_eq_some_iff.1 hx
      exact (hacc a ha).swapSector hx
  exact hsectors _ _ r hr

theorem Keeps.startPartSet {c d} (h : Keeps s t) : Keeps s (t.startPartSet c d) := by
  unfold State.startPartSet
  split
  · exact h
  case h_2 u swap hu =>
    dsimp only
    split
    · exact (h.swapAlloc hu).setTxn.finish
    · exact (h.swapAlloc hu).modCtx.setWait

theorem Keeps.releaseChange {n ch} (h : Keeps s t) : Keeps s (t.releaseChange n ch) :=
  h.modCtx

theorem Keeps.stepCommitted {c} (h : Keeps s t) : Keeps s (t.stepCommitted c) :=
  h.modCtx

theorem Keeps.askBack {p} (h : Keeps s t) : Keeps s (t.askBack p) :=
  .ite h (.ite (.giveBack (.ite h h.modPair)) (.ite h h.modPair))

theorem Keeps.abandonLeft {x pairs} (h : Keeps s t) : Keeps s (t.abandonLeft x pairs) :=
  h.abandon

theorem Keeps.changeDone {n seq status result} (h : Keeps s t) : Keeps s (t.changeDone n seq status result) := by
  unfold State.changeDone
  split
  · exact h.finishSeq
  · exact h

theorem Keeps.dropChanges {n} (h : Keeps s t) : Keeps s (t.dropChanges n) :=
  .foldl h fun _ h => by
    dsimp only
    split
    · exact .changeDone (.foldl h fun _ h => h.givePage)
    · exact .foldl h fun _ h => h.givePage

theorem Keeps.clearArrayCounters {a} (h : Keeps s t) : Keeps s (t.clearArrayCounters a) :=
  .setReg (.foldl h fun _ h => h.setField.setReg)

theorem Keeps.dropLateRuns {n} (h : Keeps s t) : Keeps s (t.dropLateRuns n) :=
  .foldl h.withRuns fun _ h => h.finishSeq

theorem Keeps.changePartition {n x ch} (h : Keeps s t) : Keeps s (t.changePartition n x ch) := by
  unfold State.changePartition
  extract_lets s1 bad s2 moved s3 s4 cut s5 old s6 s7 s8 s9 bits step s10 s11 s12
  have h1 : Keeps s s1 := .ite h.abandonLeft h
  have h2 : Keeps s s2 := .foldl h1 fun _ h => h.dropPlan
  have h3 : Keeps s s3 := .foldl h2 fun _ h => h.stopPair.clearArrayCounters.clearArrayCounters
  have h5 : Keeps s s5 := .foldl (.foldl h3 fun _ h => h.modPair) fun _ h => h.setSlice
  have h6 : Keeps s s6 := .ite h5.saveSlices h5
  have h7 : Keeps s s7 := .foldl h6 fun _ h => h.givePage
  have h8 : Keeps s s8 := h7.modCtx
  have h10 : Keeps s s10 := .event h8.withSwapArrays
  have h12 : Keeps s s12 := .dropLateRuns h10.withRuns
  split
  · exact h12
  · exact h12.changeDone

theorem execPartitionChange_keeps {c} (h : Keeps s t) : Keeping s (execPartitionChange c t) := by
  unfold execPartitionChange
  split
  · exact .next h
  · split
    · exact .next h
    · exact .ite (.next h) (.ite (.next (.foldl h fun _ h => .ite h.stopPair.unlend h.askBack)) (.next (.changePartition
      (.foldl h fun _ h => .ite h.stopPair.unlend h.askBack))))

theorem Keeps.startCtxTeardown {c d} (h : Keeps s t) : Keeps s (t.startCtxTeardown c d) :=
  h.teardown.finish

theorem Keeps.freeModel {n} (h : Keeps s t) : Keeps s (t.freeModel n) :=
  h.abandon.poolGive.withObjectsStatsBlocksCurvGranLastSealed

theorem Keeps.freeCtx {n} (h : Keeps s t) : Keeps s (t.freeCtx n) := by
  unfold State.freeCtx
  split
  · exact h
  · extract_lets s1 s2 own s3 s4 s5 s6 s7 s8 s9
    have h4 : Keeps s s4 := .foldl (.foldl (.foldl h.dropTxns.dropRuns.dropWork.dropChanges fun _ h => h.giveBack)
      fun _ h => h.stopPair.unlend) fun _ h => h.setSlice
    have h5 : Keeps s s5 := .ite h4.freeModel h4
    have h8 : Keeps s s8 := .foldl (.foldl (.foldl h5 fun _ h => h.givePage) fun _ h => h.freeTable) fun _ h => h.freeTable
    have h9 : Keeps s s9 := h8.same
    exact h9.settleStacks

theorem Keeps.startCtxFree {c d} (h : Keeps s t) : Keeps s (t.startCtxFree c d) :=
  h.freeCtx.finish

theorem execPairReturnRequest_keeps {pair} (h : Keeps s t) : Keeping s (execPairReturnRequest pair t) :=
  .ite .fault (.ite (.next h.askBack) (.next h))

theorem execBorrowerOverrun_keeps {pair} (h : Keeps s t) : Keeping s (execBorrowerOverrun pair t) :=
  .ite .fault (.ite (.next h.ctxFault.startParked) (.next h))

theorem execIdle_keeps {pair} (h : Keeps s t) : Keeping s (execIdle pair t) :=
  .ite .fault (.ite (.next h.modArr.modArr) (.next h))

theorem execFallowEntry_keeps {pair} (h : Keeps s t) : Keeping s (execFallowEntry pair t) :=
  .ite .fault (.ite (.next h) (.ite (.next h) (.next
    (.ite h.stopPair.modArr.modArr.modPair.devEvent h.stopPair.modArr.modArr.modPair))))

theorem execFallowWake_keeps {pair} (h : Keeps s t) : Keeping s (execFallowWake pair t) :=
  .ite .fault (.ite (.next h) (.next (.startParked (.ite h.modPair.modArr.modArr.devEvent h.modPair.modArr.modArr))))

theorem execContextBlocked_keeps {c} (h : Keeps s t) : Keeping s (execContextBlocked c t) := by
  unfold execContextBlocked
  split
  · exact .next h
  · exact .next (.ite h.modCtx h)

theorem Keeps.blockTick (h : Keeps s t) : Keeps s t.blockTick :=
  h.withCtxs

theorem Keeps.swapOut {c} (h : Keeps s t) : Keeps s (t.swapOut c) :=
  .modCtx (.foldl (.saveSlices (.withSwapArraysSwapWaiters (.foldl h fun _ h => .ite h.giveBack h))) fun _ h => h.stopPair)

theorem Keeps.swapIn {c} (h : Keeps s t) : Keeps s (t.swapIn c) :=
  .serveTokens (.startParked (.modCtx (.withWaitersSwapArraysSwapWaiters (.foldl (.foldl h fun _ h => h.setSlice)
    fun _ h => h.withFree.setArr))))

theorem Keeps.swapEvent {c victim} (h : Keeps s t) : Keeps s (t.swapEvent c victim) :=
  h.withFree.devEvent

theorem Keeps.trySwap {c} (h : Keeps s t) : Keeps s (t.trySwap c) :=
  .ite h.swapEvent.swapIn (.ite h (.ite (by
    split
    · exact h.swapEvent.swapOut.swapIn
    · exact h) h))

theorem execSwapPoll_keeps (h : Keeps s t) : Keeping s (execSwapPoll t) :=
  .next (.foldl h fun _ h => .ite h.trySwap h)

theorem Keeps.setWeir {c w v resource} (h : Keeps s t) : Keeps s (t.setWeir c w v resource) :=
  .ite h h.setReg.devEvent

theorem Keeps.weirLoop {seen c w} (h : Keeps s t) : Keeps s (t.weirLoop seen c w) :=
  .ite h (.ite (.withWeirQuiet (.foldl h fun _ h => h.setWeir)) (.ite (.withWeirQuiet (.foldl h fun _ h => h.setWeir))
    (.setWeir (.withWeirQuiet (.foldl h fun _ h => h.setWeir)))))

theorem execWeirWindow_keeps {seen} (h : Keeps s t) : Keeping s (execWeirWindow seen t) :=
  .ite (.next h) (.next (.foldl h fun _ h => h.weirLoop))

theorem Keeps.weirTick (h : Keeps s t) : Keeps s t.weirTick :=
  h.withCtxs

/-! ### Spring mode and the memory system -/

theorem Keeps.withBootPower {x y} (h : Keeps s t) (hy : t.power.gate ≤ 30 → y.gate ≤ 30 := by exact id) :
    Keeps s { t with boot := x, power := y } :=
  (h.withBoot (x := x)).withPower hy

theorem Keeps.trainLink {p} (h : Keeps s t) : Keeps s (t.trainLink p) := by
  unfold State.trainLink
  exact h.withFree.modPort

theorem Keeps.flushWait {p} (h : Keeps s t) : Keeps s (t.flushWait p) :=
  .ite h (.foldl (.foldl h.modPort fun _ h => h.hostWrite) fun _ h => h.modCtx.startParked.serveTokens)

theorem Keeps.stopAll (h : Keeps s t) : Keeps s t.stopAll :=
  .withAllStopped (.foldl h fun _ h => h.stopPair.unlend)

theorem Keeps.releasePins (h : Keeps s t) : Keeps s t.releasePins :=
  h.modPort.modPort

theorem Keeps.halt {kind unit addr} (h : Keeps s t) : Keeps s (t.halt kind unit addr) :=
  h.rasEntry.stopAll.releasePins.withBootPower

theorem Keeps.suspend {c} (h : Keeps s t) : Keeps s (t.suspend c).1 :=
  .modCtx (.withSwapArraysSwapWaiters (.flushDescs (.dropWork (.dropRuns (.dropTxns (.dropRequests (.dropItems (.foldl h
    fun _ h => h.stopPair.unlend))))))))

theorem Keeps.clearOuterCounters (h : Keeps s t) : Keeps s t.clearOuterCounters :=
  h.withRegs

theorem Keeps.springRows (h : Keeps s t) : Keeps s t.springRows := by
  have hstate {u x y} (h : Keeps s u) : Keeps s { u with power := { u.power with state := x, spring := y } } := h.withPower
  have hlimit {u x} (h : Keeps s u) : Keeps s { u with power := { u.power with limit := x, vcoreOff := true } } := h.withPower
  have hlink {u} (h : Keeps s u) : Keeps s (u.modPort .tenant fun x => { x with linkUp := false }) := h.modPort
  unfold State.springRows
  exact .devEvent (hstate (.setField (hlimit (hlink (.clearOuterCounters (.foldl (.foldl (.foldl_fst (.withPairs
    (.foldl h fun _ h => .ite h.stopPair.unlend h)) fun _ h => h.suspend) fun _ h => .ite h.modSite h) fun _ h => h.setSlice))))))

theorem Keeps.springCause {bit clear kind unit addr} (h : Keeps s t) : Keeps s (t.springCause bit clear kind unit addr) :=
  .ite h.halt (.ite (.springRows (.withPower (.withPower (.ite h h.rasEntry)))) (.withPower (.ite h h.rasEntry)))

theorem Keeps.startSpringEnter {c d} (h : Keeps s t) : Keeps s (t.startSpringEnter c d) :=
  h.springCause.finish

theorem Keeps.springLeave (h : Keeps s t) : Keeps s t.springLeave := by
  have harrays (l : List Nat) {u : State} (h : Keeps s u) :
      Keeps s (l.foldl (fun s a => if 16 ≤ a ∧ (tget s.arrays a).isNone then s.setArr a {} else s) u) :=
    .foldl h fun _ h => .ite h.setArr h
  have hlink {u : State} (h : Keeps s u) : Keeps s (if u.tenant.perstHigh then (u.trainLink .tenant).flushWait .tenant else u) :=
    .ite h.trainLink.flushWait h
  have hpower {u : State} (h : Keeps s u) : Keeps s { u with
      power := { u.power with
        spring := 0, state := 1, cause := 0, cleared := 0, vcoreOff := false, vcore := 750 } } := h.withPower
  unfold State.springLeave
  exact .devEvent (.settleStacks (hpower (.setField (.withCtxs (hlink (.withPairs (.clearOuterCounters
    (.foldl (harrays _ h.withArrays) fun _ h => h.setSlice))))))))

theorem Keeps.startSpringExit {c d} (h : Keeps s t) : Keeps s (t.startSpringExit c d) :=
  h.springLeave.finish

theorem Keeps.setVcore {throttled} (h : Keeps s t) : Keeps s (t.setVcore throttled) :=
  .ite h h.withFree.withPower

theorem execThermalPowerLoop_keeps {junction watts} (h : Keeps s t) : Keeping s (execThermalPowerLoop junction watts t) := by
  unfold execThermalPowerLoop
  dsimp only
  have hset {x : Power} (hx : t.power.gate ≤ 30 → x.gate ≤ 30) (b : Bool) : Keeps s
    (({ t with power := x } : State).setVcore b) :=
    (h.withPower hx).setVcore
  have hgate : t.power.gate ≤ 30 → (if decide (100 ≤ junction) || decide (t.rf .pwrLimit 0 11 < watts) then min
    (t.power.gate + 1) 30
      else if junction ≤ 98 ∧ 100 * watts ≤ 95 * t.rf .pwrLimit 0 11 then t.power.gate - 1 else t.power.gate) ≤ 30 := by
    intro hg
    split
    · exact Nat.min_le_right ..
    · split <;> omega
  exact .next (.ite (hset hgate _).devEvent (.ite (hset hgate _).devEvent (hset hgate _)))

theorem execThermalEmergency_keeps (h : Keeps s t) : Keeping s (execThermalEmergency t) :=
  .next (.ite h.springCause h)

theorem execThermalClear_keeps (h : Keeps s t) : Keeping s (execThermalClear t) :=
  .next (.ite h.withPower h)

theorem Keeps.bootLog (h : Keeps s t) : Keeps s t.bootLog :=
  h.withFree.withRas fun ⟨_, hrest⟩ => ⟨Nat.mod_lt _ (by decide), hrest⟩

theorem execThermtrip_keeps (h : Keeps s t) : Keeping s (execThermtrip t) :=
  .ite (.next h) (.next h.stopAll.releasePins.bootLog.withBootPower)

theorem Keeps.railStatus {rail status} (h : Keeps s t) : Keeps s (t.railStatus rail status) := by
  unfold State.railStatus
  split
  · exact .ite h h.halt
  · exact .ite (by
        split
        · exact h.withPower.rasEntry
        · exact h) (.ite h.withPower.springCause h.withPower)
  · exact .ite h.withPower.springCause h.withPower

theorem execRailFault_keeps {rail status} (h : Keeps s t) : Keeping s (execRailFault rail status t) :=
  .next h.railStatus

theorem execPmbAlertN_keeps {found} (h : Keeps s t) : Keeping s (execPmbAlertN found t) :=
  .next (.foldl h fun _ h => h.railStatus)

theorem execRailClear_keeps {rail} (h : Keeps s t) : Keeping s (execRailClear rail t) := by
  have hkept : (match rail with
      | .vcore => { t.power with vcoreFault := false }
      | .vsram => { t.power with vsramFault := false }
      | .vcoreS0 => t.power : Power).gate = t.power.gate := by
    cases rail <;> rfl
  exact .ite (.next (h.withPower fun hg => hkept ▸ hg)) (.next (h.withPower fun hg => hkept ▸ hg))

theorem Keeps.bar2Abort {p st page} (h : Keeps s t) : Keeps s (t.bar2Abort p st page) :=
  h.rasEntry.modPort

theorem execBar2Read_keeps {p addr len} (h : Keeps s t) : Keeping s (execBar2Read p addr len t) :=
  .ite (.next h) (by
    split
    · exact .next h.bar2Abort
    · exact .next h.withFree.modPort)

theorem Keeps.bar2Put {p a b} (h : Keeps s t) : Keeps s (t.bar2Put p a b) := by
  unfold State.bar2Put
  exact .ite h.hbmPut h.cfgError

theorem execBar2Write_keeps {p addr bytes} (h : Keeps s t) : Keeping s (execBar2Write p addr bytes t) :=
  .ite (.next h) (.ite (.next h.withBoot) (.next (.foldl h fun _ h => h.bar2Put)))

theorem execIeee1500Access_keeps {stack op} (h : Keeps s t) : Keeping s (execIeee1500Access stack op t) :=
  .ite .fault (by
    split
    · exact .next h.withFree.withJtag
    · exact .next h)

theorem Keeps.thermalSettle (h : Keeps s t) : Keeps s t.thermalSettle :=
  .foldl h.thermalMark fun _ h => .ite h.startParked.serveTokens h

theorem execStackTemperature_keeps {stack temp} (h : Keeps s t) : Keeping s (execStackTemperature stack temp t) :=
  .ite .fault (.ite (.next h) (.ite (.next h.modSite) (.next h.modSite.settleStack.withFree.thermalSettle.devEvent)))

theorem Keeps.setOffset {st v count} (h : Keeps s t) : Keeps s (t.setOffset st v count) :=
  h.modSite.devEvent

theorem Keeps.boundOffset {st top} (h : Keeps s t) : Keeps s (t.boundOffset st top) :=
  .ite h.setOffset h

theorem execRefreshOffsetAdjust_keeps {stack} (h : Keeps s t) : Keeping s (execRefreshOffsetAdjust stack t) :=
  .ite .fault (.ite (.next h.modSite) (.ite (.next h.modSite.setOffset) (.ite (.next h.modSite.setOffset) (.next h.modSite))))

theorem Keeps.countCorrected {st} (h : Keeps s t) : Keeps s (t.countCorrected st) :=
  h.modSite

theorem execCorrection_keeps {place} (h : Keeps s t) : Keeping s (execCorrection place t) := by
  have hpath := h.withRas (x := { t.ras with path := min (t.ras.path + 1) 255 })
    fun ⟨hw, hs, _⟩ => ⟨hw, hs, Nat.lt_succ_of_le (Nat.min_le_right ..)⟩
  unfold execCorrection
  split
  · exact .next (Keeps.pulse (h.withRas fun ⟨hw, _, hp⟩ => ⟨hw, Nat.lt_succ_of_le (Nat.min_le_right ..), hp⟩))
  · dsimp only
    split
    · exact .next hpath.pulse
    · exact .ite .fault (.next hpath.pulse.countCorrected)
  · exact .ite .fault (.next h.countCorrected)

theorem Keeps.rebuilt {unit addr} (h : Keeps s t) : Keeps s (t.rebuilt unit addr) :=
  h.withRas.rasEntry

theorem Keeps.freeProblem {c n} (h : Keeps s t) : Keeps s (t.freeProblem c n) :=
  .withProblems (by
    split
    · exact h.endProblem
    · exact h)

theorem Keeps.globalInChannel {st ch} (h : Keeps s t) : Keeps s (t.globalInChannel st ch) :=
  .ite (.springCause (.foldl (.ite (.springCause (.ite h.rebuilt h)) (.ite h.rebuilt h)) fun _ h => h.freeProblem)) (.ite
    (.springCause (.ite h.rebuilt h)) (.ite h.rebuilt h))

theorem Keeps.mapOut {st ch} (h : Keeps s t) : Keeps s (t.mapOut st ch) :=
  .devEvent (.withFree (.modSite (.globalInChannel (.modSite (.foldl h.same.modSite fun _ h => h.teardown)))))

theorem Keeps.countUe {st page} (h : Keeps s t) : Keeps s (t.countUe st page) :=
  .ite h.modSite (.ite h.modSite.modSite (.ite h.modSite.mapOut h.modSite))

theorem Keeps.withdraw {st page} (h : Keeps s t) : Keeps s (t.withdraw st page) := by
  unfold State.withdraw
  exact h.withFree.modSite

theorem Keeps.ueContext {c kind unit addr} (h : Keeps s t) : Keeps s (t.ueContext c kind unit addr) :=
  .ite h.rasEntry h.rasEntry.teardown

theorem Keeps.uePage {st page reader} (h : Keeps s t) : Keeps s (t.uePage st page reader) := by
  unfold State.uePage
  dsimp only
  split
  · split
    · exact .ite h.rasEntry.teardown.teardown h.rasEntry.teardown
    · exact h.rasEntry.teardown
  · exact h.withdraw.rasEntry

theorem Keeps.ueShadow {st page prepare} (h : Keeps s t) : Keeps s (t.ueShadow st page prepare) := by
  unfold State.ueShadow
  dsimp only
  split
  · exact h.uePage
  · exact .ite h.rasEntry.abortTxn.withdraw h.rasEntry.teardown

theorem Keeps.dropSample {sec r} (h : Keeps s t) : Keeps s (t.dropSample sec r) :=
  .ite h h.withSamplers

theorem Keeps.dropSluice {p r} (h : Keeps s t) : Keeps s (t.dropSluice p r) :=
  h.hbmPut

theorem Keeps.ueGlobal {place} (h : Keeps s t) : Keeps s (t.ueGlobal place) := by
  unfold State.ueGlobal
  split
  · exact .rasEntry (.countUe (by
        split
        · exact h.dropSluice
        · exact h))
  · exact .ite h.countUe.halt h.countUe.rebuilt
  · exact h.countUe.springCause
  · exact h.countUe.springCause
  · exact h.countUe.springCause
  · exact .springCause (.foldl h.countUe fun _ h => h.freeProblem)
  · exact h.halt
  · exact h

theorem Keeps.ueRespond {place} (h : Keeps s t) : Keeps s (t.ueRespond place) := by
  unfold State.ueRespond
  split
  · exact h.ueContext
  · exact h.ueContext
  · split
    · exact h.ueGlobal
    · exact h.countUe.uePage
  · exact h.countUe.ueShadow
  · split
    · exact h.countUe.ueContext
    · exact h
  · exact .ueContext (by
        split
        · exact h.countUe
        · exact h)
  · exact h.ueContext
  · exact h.dropSample.rasEntry
  · exact h.countUe.bar2Abort
  · exact h.ueGlobal

theorem execUncorrectableError_keeps {place} (h : Keeps s t) : Keeping s (execUncorrectableError place t) :=
  .ite .fault (.ite (.next h) (.next h.ueRespond))

theorem execRasGlobalWindow_keeps (h : Keeps s t) : Keeping s (execRasGlobalWindow t) :=
  .ite (.next h.withRas.springCause) (.next h)

/-! ### Register writes and commits -/

theorem Keeps.colReserve {n r} (h : Keeps s t) (hr : t.colReserve n = some r) : Keeps s r.1 := by
  induction n generalizing t r with
  | zero =>
    cases hr
    exact h
  | succ n ih =>
    unfold State.colReserve at hr
    split at hr
    · cases hr
    · dsimp only at hr
      split at hr
      · cases hr
      · obtain ⟨a, ha, rfl⟩ := Option.map_eq_some_iff.1 hr
        have hkept : Keeps s a.1 := ih (by exact h.takePages) ha
        exact hkept

theorem Keeps.colBuffers {v} (h : Keeps s t) (hu : t.colBuffers v = some u) : Keeps s u := by
  have hgiven : Keeps s (t.group.buffers.foldl (fun s b => s.givePage b.1 b.2) t) := h.foldl fun _ h => h.givePage
  unfold State.colBuffers at hu
  dsimp only at hu
  split at hu
  · cases hu
    exact hgiven.withGroup
  · obtain ⟨a, ha, rfl⟩ := Option.map_eq_some_iff.1 hu
    exact (hgiven.colReserve ha).withGroup

theorem Keeps.thetaReset (h : Keeps s t) : Keeps s t.thetaReset :=
  h.withCurv.setThetaEff

theorem Keeps.shiftsReset (h : Keeps s t) : Keeps s t.shiftsReset :=
  .foldl h fun _ h => .ite h.setShift h

theorem Keeps.weirReset {i} (h : Keeps s t) : Keeps s (t.weirReset i) :=
  h.setReg

theorem Keeps.pollFixed (h : Keeps s t) : Keeps s t.pollFixed :=
  .foldl h fun _ h => .ite h h.modCtx.devEvent

theorem Keeps.bindZero (h : Keeps s t) : Keeps s t.bindZero :=
  h.modCtx

theorem Keeps.evtStart {p} (h : Keeps s t) : Keeps s (t.evtStart p) :=
  .evtDrain (by
    split
    · exact h.modPort.modPort.event
    · exact h.modPort)

theorem Keeps.shareWrite {old new} (h : Keeps s t) : Keeps s (t.shareWrite old new) :=
  .ite h (.ite h.withShadowDue.shareSettle h.applyShare)

theorem Keeps.poolSettle {stack} (h : Keeps s t) : Keeps s (t.poolSettle stack) :=
  h.modSite

theorem Keeps.goWrite {p} (h : Keeps s t) : Keeps s (t.goWrite p) :=
  .ite h.withBoot (.ite h.withBoot h.cfgError)

theorem Keeps.notePmc {p r idx} (h : Keeps s t) : Keeps s (t.notePmc p r idx) := by
  unfold State.notePmc
  dsimp only
  split
  · exact h.withTenantPmc
  · exact h.withTenantPmc

theorem Keeps.writeEffect {p r idx old new v named} (h : Keeps s t) : Keeps s (t.writeEffect p r idx old new v named) := by
  unfold State.writeEffect
  dsimp only
  split
  · exact .ite h.bindZero h
  · exact .ite h.evtStart h
  · exact .ite h.pollFixed h
  · exact .ite h h.thetaReset
  · exact .ite h.thetaReset h
  · exact h.shiftsReset
  · exact h.withNum
  · exact h.weirReset
  · exact .ite (.foldl h fun _ h => h.weirReset) h
  · exact .foldl h fun _ h => h.boundOffset
  · exact h.settleStack
  · exact h.poolSettle
  · exact h.shareWrite
  · cases hu : t.colBuffers new with
    | none => exact h
    | some u => exact h.colBuffers hu
  · exact h.withGroup
  · exact .ite h.setCad h
  · exact .ite h.setCad h
  · exact h.setCad
  · exact h.modArr
  · exact .foldl h fun _ h => .ite h.ctrClear h
  · exact h.notePmc
  · exact h.notePmc
  · exact .ite h.same h
  · exact .ite (.foldl h fun _ h => h.modArr) h
  · exact .ite h.trigger h
  · exact .ite h.sluiceStart h
  · have hover (b : Bool) : Keeps s (if bitsOf named 5 1 = 1 then { t with ras := { t.ras with overflow := b } } else t) :=
      .ite h.withRas h
    exact .ite ((hover _).withRas fun ⟨_, hrest⟩ => ⟨Nat.zero_lt_succ 31, hrest⟩) (hover _)
  · exact .ite h.withRas h
  · exact .ite h.goWrite h
  · exact h

theorem Keeps.applyReg {p r idx named v off} (h : Keeps s t) : Keeps s (t.applyReg p r idx named v off) :=
  .ite h.cfgError (.ite (.cfgError (.writeEffect (.ite (.ite h.dumpSluice h) (.setReg (.ite h.dumpSluice h))))) (.writeEffect
    (.ite (.ite h.dumpSluice h) (.setReg (.ite h.dumpSluice h)))))

theorem Keeps.putReg {p r idx named v off} (h : Keeps s t) : Keeps s (t.putReg p r idx named v off) :=
  .ite (.ite h.cfgError h.withGroup) h.applyReg

theorem Keeps.colSettle (h : Keeps s t) : Keeps s t.colSettle :=
  .ite h (.foldl h.withGroup fun _ h => h.applyReg)

theorem Keeps.portWrite {p r idx named v off} (h : Keeps s t) : Keeps s (t.portWrite p r idx named v off) :=
  .ite h.cfgError h.putReg

theorem Keeps.earlyDrop {p off} (h : Keeps s t) : Keeps s (t.earlyDrop p off) :=
  .ite h h.withBoot

theorem Keeps.writeAt {p off n v} (h : Keeps s t) : Keeps s (t.writeAt p off n v) := by
  unfold State.writeAt
  split
  · exact .ite h.cfgError h.earlyDrop
  · exact .ite h.earlyDrop (.ite h.cfgError (.ite h.portWrite h.portWrite))

theorem Keeps.write32 {p off v} (h : Keeps s t) : Keeps s (t.write32 p off v) := by
  unfold State.write32
  dsimp only
  split
  · exact .ite h.setPort.writeAt (.ite h.setPort.modPort h.setPort.writeAt)
  · exact .ite h.setPort.modPort h.setPort.writeAt

theorem Keeps.write64 {p off v} (h : Keeps s t) : Keeps s (t.write64 p off v) :=
  .ite h.modPort.writeAt h.modPort.writeAt.writeAt

theorem Keeps.windowWrite {p off bs} (h : Keeps s t) : Keeps s (t.windowWrite p off bs) :=
  .ite h.modPort.withBoot h.modPort.cfgError

theorem Keeps.writeWords {p off v n} (h : Keeps s t) : Keeps s (t.writeWords p off v n) := by
  induction n using Nat.strongRecOn generalizing t off v with
  | ind n ih =>
    match n with
    | 0 => exact h
    | 1 => exact h.write32
    | n + 2 =>
      unfold State.writeWords
      exact .ite (ih n (by omega) h.write64) (ih (n + 1) (by omega) h.write32)

theorem Keeps.busWrite {p off width v} (h : Keeps s t) : Keeps s (t.busWrite p off width v) :=
  .ite h.windowWrite (.ite h.modPort.cfgError h.writeWords)

theorem regRow_keeps {p off width v} (h : Keeps s t) : Keeping s (regRow p off width v t) :=
  .next (.ite h.busWrite h)

theorem execRegisterWrite_keeps {p offset width value} (h : Keeps s t) : Keeping s (execRegisterWrite p offset width value t) :=
  regRow_keeps h

theorem execGo_keeps {p} (h : Keeps s t) : Keeping s (execGo p t) :=
  regRow_keeps h

theorem execFirmwareLoadWrite_keeps {p offset bytes} (h : Keeps s t) : Keeping s (execFirmwareLoadWrite p offset bytes t) :=
  .next (.ite h.windowWrite h)

theorem execCadAnchor_keeps {p value} (h : Keeps s t) : Keeping s (execCadAnchor p value t) :=
  regRow_keeps h

theorem execHifEvtRingEnable_keeps {p value} (h : Keeps s t) : Keeping s (execHifEvtRingEnable p value t) :=
  regRow_keeps h

theorem execHifDoorbellEnable_keeps {p value} (h : Keeps s t) : Keeping s (execHifDoorbellEnable p value t) :=
  regRow_keeps h

theorem execSluiceEnable_keeps {p value} (h : Keeps s t) : Keeping s (execSluiceEnable p value t) :=
  regRow_keeps h

theorem execDump_keeps {p} (h : Keeps s t) : Keeping s (execDump p t) :=
  regRow_keeps h

theorem execForce_keeps {p} (h : Keeps s t) : Keeping s (execForce p t) :=
  regRow_keeps h

theorem execPmcClear_keeps {p banks} (h : Keeps s t) : Keeping s (execPmcClear p banks t) :=
  regRow_keeps h

theorem execPmcFreeze_keeps {p banks} (h : Keeps s t) : Keeping s (execPmcFreeze p banks t) :=
  regRow_keeps h

theorem execRasLogClear_keeps {p} (h : Keeps s t) : Keeping s (execRasLogClear p t) :=
  regRow_keeps h

theorem execTxnShadowCfg_keeps {p value} (h : Keeps s t) : Keeping s (execTxnShadowCfg p value t) :=
  regRow_keeps h

theorem execCrvTheta_keeps {p value} (h : Keeps s t) : Keeping s (execCrvTheta p value t) :=
  regRow_keeps h

theorem execCrvRootCfg_keeps {p value} (h : Keeps s t) : Keeping s (execCrvRootCfg p value t) :=
  regRow_keeps h

theorem execNumScaleCfg_keeps {p value} (h : Keeps s t) : Keeping s (execNumScaleCfg p value t) :=
  regRow_keeps h

theorem execCtxWeirCfg_keeps {p c weir value} (h : Keeps s t) : Keeping s (execCtxWeirCfg p c weir value t) :=
  .ite .fault (regRow_keeps h)

theorem execColCfg_keeps {p offset value} (h : Keeps s t) : Keeping s (execColCfg p offset value t) :=
  .ite (regRow_keeps h) (regRow_keeps h)

theorem Keeps.takeVote {t' rank commit} (h : Keeps s t) : Keeps s (t.takeVote t' rank commit) :=
  .ite h.abortTxn h.setTxn

theorem Keeps.takeVotes {c tag key} (h : Keeps s t) : Keeps s (t.takeVotes c tag key) :=
  .foldl h.withGroup fun _ h => by
    split
    · exact h.takeVote
    · exact h

theorem Keeps.startTxnBegin {c d} (h : Keeps s t) : Keeps s (t.startTxnBegin c d) :=
  .ite h.same.finish.takeVotes h.same.finish

theorem Keeps.startTxnCommit {c d} (h : Keeps s t) : Keeps s (t.startTxnCommit c d) := by
  unfold State.startTxnCommit
  split
  · exact h
  · split
    · exact h.withTxns.finish
    · exact h.setTxn

theorem Keeps.startTxnAbort {c d} (h : Keeps s t) : Keeps s (t.startTxnAbort c d) :=
  h.abortTxn.withTxns.finish.shareSettle

theorem Keeps.applyGroup {es} (h : Keeps s t) : Keeps s (t.applyGroup es) :=
  .foldl h fun _ h => h.putReg

theorem Keeps.startRegGroup {c d} (h : Keeps s t) : Keeps s (t.startRegGroup c d) :=
  .ite h.finish (.finish (by
    split
    · exact h.setTxn
    · exact h.applyGroup))

theorem Keeps.rowFive {t'} (h : Keeps s t) : Keeps s (t.rowFive t') :=
  .ite (.ite h.setTxn h.abortTxn) h

theorem Keeps.rowsAdvance {c tag} (h : Keeps s t) : Keeps s (t.rowsAdvance c tag) := by
  unfold State.rowsAdvance
  split
  · exact h
  · exact .ite (.ite (.ite h.setTxn.sendVote h.setTxn) (.rowFive (.ite h.setTxn.sendVote h.setTxn))) h

theorem Keeps.slotsSettle (h : Keeps s t) : Keeps s t.slotsSettle :=
  .foldl h fun _ h => h.rowsAdvance

theorem execCommitPrepare_keeps {c tag} (h : Keeps s t) : Keeping s (execCommitPrepare c tag t) := by
  unfold execCommitPrepare
  split
  · exact .next h
  · exact .ite (.next h) (.next h.setTxn.rowsAdvance)

theorem execGroupVote_keeps {rank key commit} (h : Keeps s t) : Keeping s (execGroupVote rank key commit t) := by
  unfold execGroupVote
  refine .ite (.next h) ?_
  dsimp only
  split
  · exact .ite (.next h.withGroup) (.next h.withGroup.withGroup)
  · split
    · exact .next h.withGroup.takeVote
    · exact .ite (.next h.withGroup.takeVote.setTxn.rowFive) (.next h.withGroup.takeVote)

theorem execVoteTimeout_keeps {c tag} (h : Keeps s t) : Keeping s (execVoteTimeout c tag t) := by
  unfold execVoteTimeout
  split
  · exact .next h
  · exact .ite (.next h.abortTxn) (.next h)

theorem Keeps.installPage {c h'} (h : Keeps s t) : Keeps s (t.installPage c h') := by
  unfold State.installPage
  dsimp only
  split
  · exact h.modCtx
  · split
    · exact h.modCtx.poolGive
    · exact h.modCtx

theorem Keeps.advance {t' n} (h : Keeps s t) : Keeps s (t.advance t' n) := by
  unfold State.advance
  split
  · exact h
  · exact h.modObj

theorem Keeps.commitGran {t'} (h : Keeps s t) : Keeps s (t.commitGran t') := by
  unfold State.commitGran
  split
  · exact h
  · exact .ite h (.ite (.stepCommitted (.withGran (.foldl h fun _ h => h.regionPut.releaseBuf))) (.withGran (.foldl h
    fun _ h => h.regionPut.releaseBuf)))

theorem Keeps.applyDeferred {t'} (h : Keeps s t) : Keeps s (t.applyDeferred t') :=
  .foldl h.applyGroup fun _ h => by
    split
    · exact h
    · exact h.releaseChange
    · exact .ite h.withCurv (.ite h.doPrecondCfg h.doRootRefresh)

theorem Keeps.gatherCopies {t'} (h : Keeps s t) : Keeps s (t.gatherCopies t') :=
  .foldl h fun _ h => by
    split
    · exact .ite h.exchange h
    · exact h

theorem Keeps.commitNow {t'} (h : Keeps s t) : Keeps s (t.commitNow t') := by
  unfold State.commitNow
  extract_lets stamp s1 s2 s3 s4 bs s5 s6 s7 s8
  have h4 : Keeps s s4 := .foldl (.commitGran (.applyDeferred (.foldl (.foldl h fun _ h => h.installPage) fun _ h => h.advance)))
    fun _ h => h.retire
  have h5 : Keeps s s5 := .ite h4.ctxWrite.charge h4
  have h6 : Keeps s s6 := .pulse h5.withTxns
  have h7 : Keeps s s7 := h6.gatherCopies.takeEarly
  have h8 : Keeps s s8 := by
    unfold s8
    split
    · exact h7.completeSeq
    · exact h7
  exact h8.shareSettle

theorem execCommitPoint_keeps {c tag} (h : Keeps s t) : Keeping s (execCommitPoint c tag t) := by
  unfold execCommitPoint
  dsimp only
  split
  · exact .next h.rowsAdvance
  · exact .ite (.next h.rowsAdvance.commitNow) (.next h.rowsAdvance)

/-! ### Resets, start-up, attestation and SMBus -/

theorem Keeps.swapHosts (h : Keeps s t) : Keeps s t.swapHosts :=
  h.same rfl fun ⟨hst, hte, hg, hw, hs, hp, ha, hh, hhA, hhB⟩ => ⟨hst, hte, hg, hw, hs, hp, ha, hh, hhB, hhA⟩

/-- A port at its cold value. -/
theorem PortState.bounded_cold {b : Bool} : ({ perstHigh := b } : PortState).bounded := by
  simp [PortState.bounded]

theorem Keeps.cold (h : Keeps s t) : Keeps s t.cold :=
  h.same rfl fun ⟨_, _, _, _, _, _, _, _, hhost⟩ =>
    ⟨PortState.bounded_cold, PortState.bounded_cold, Nat.zero_le _, Nat.zero_lt_succ _, Nat.two_pow_pos _, Nat.zero_lt_succ _,
      Nat.zero_le _, rfl, hhost⟩

theorem execPwrokRise_keeps {role tm} (h : Keeps s t) : Keeping s (execPwrokRise role tm t) := by
  have hcold := (Keeps.ite (p := role = t.portaRole) h h.swapHosts).cold
  exact .ite (.next h) (.next (hcold.same rfl fun ⟨_, _, hrest⟩ => ⟨PortState.bounded_cold, PortState.bounded_cold, hrest⟩))

theorem execPwrokFall_keeps (h : Keeps s t) : Keeping s (execPwrokFall t) :=
  .next h.cold

/-- What a warm reset keeps of a sluice. -/
theorem PortState.bounded_sluiceKept {x : PortState} {b : Bool} (hx : x.bounded) :
    ({ x.sluiceKept with perstHigh := b } : PortState).bounded := by
  obtain ⟨-, -, -, -, hlost⟩ := hx
  exact ⟨Nat.zero_le _, Nat.zero_le _, Nat.zero_le _, Nat.zero_le _, hlost⟩

theorem Keeps.warm (h : Keeps s t) : Keeps s t.warm :=
  h.same rfl fun ⟨hst, hte, _, hw, _, _, _, hrest⟩ =>
    ⟨PortState.bounded_sluiceKept hst, PortState.bounded_sluiceKept hte, Nat.zero_le _, hw, Nat.two_pow_pos _, Nat.zero_lt_succ
      _, Nat.zero_le _, hrest⟩

theorem Keeps.coldAgain (h : Keeps s t) : Keeps s t.coldAgain :=
  h.cold.same rfl fun ⟨_, _, hrest⟩ => ⟨PortState.bounded_cold, PortState.bounded_cold, hrest⟩

theorem Keeps.warmDown (h : Keeps s t) : Keeps s t.warmDown :=
  .ite h.modPort.modPort (.ite h.warm h.coldAgain)

theorem execWarmReset_keeps {byPin} (h : Keeps s t) : Keeping s (execWarmReset byPin t) :=
  .ite (.next h) (.next (.ite (.warmDown (.ite h.withRstHigh h.modPort)) (.ite h.withRstHigh h.modPort)))

theorem execWarmResetRelease_keeps (h : Keeps s t) : Keeping s (execWarmResetRelease t) :=
  .ite (.next h) (.next h.same.modPort)

theorem Keeps.portDown (h : Keeps s t) : Keeps s t.portDown :=
  .devEvent (.modPort (.foldl (.withRegsTenantPmcAttestQueue (.foldl h fun _ h => h.teardown)) fun _ h => h.modCtx)
    fun ⟨hevt, _⟩ => ⟨hevt, Nat.zero_le _, Nat.zero_le _, Nat.zero_le _, Nat.zero_le _⟩)

theorem execPortReset_keeps (h : Keeps s t) : Keeping s (execPortReset t) :=
  .ite (.next h) (.next (.ite h.modPort.portDown h.modPort))

theorem Keeps.giveReady {p cause} (h : Keeps s t) : Keeps s (t.giveReady p cause) :=
  .ite h.modPort.event h.modPort

theorem execPortResetRelease_keeps (h : Keeps s t) : Keeping s (execPortResetRelease t) :=
  .ite (.next h) (.next (by
    split
    · exact .ite h.modPort.trainLink h.modPort
    · exact .giveReady (.ite h.modPort.trainLink h.modPort)
    · exact .ite h.modPort.trainLink h.modPort))

theorem execRom_keeps (h : Keeps s t) : Keeping s (execRom t) :=
  .ite (.next h) (.next (.withBoot (.ite h.trainLink.trainLink h.trainLink)))

theorem Keeps.bootFail {err} (h : Keeps s t) : Keeps s (t.bootFail err) :=
  h.withBoot

theorem Keeps.bootStop {err} (h : Keeps s t) : Keeps s (t.bootStop err) :=
  h.withBoot

theorem execVerifying_keeps (h : Keeps s t) : Keeping s (execVerifying t) :=
  .ite (.next h) (.ite (.next h.bootFail) (.ite (.next h.bootFail) (.next h.withBoot)))

theorem Keeps.trainSite {small answering failing spare n k} (h : Keeps s t) :
    Keeps s (t.trainSite small answering failing spare n k) :=
  .ite h h.modSite

theorem execTraining_keeps {answering failing spare} (h : Keeps s t) : Keeping s (execTraining answering failing spare t) := by
  unfold execTraining
  dsimp only [State.fresh]
  have hwarm {x y} : Keeps s { t with sites := x, boot := y } := h.same
  refine .ite (.next h) (.ite (.next hwarm.settleStacks) ?_)
  have hsites (small : Bool) : Keeps s ((List.range 12).foldl
      (fun s k => s.trainSite small answering failing spare t.free k) { t with free := t.free + 1 }) :=
    .foldl h.withFree fun _ h => h.trainSite
  split
  · exact .next (hsites _).bootLog.bootStop
  · exact .ite (.next (hsites _).withBoot.bootLog.bootStop) (.next (hsites _).withBoot.withBoot.settleStacks)

theorem execIdentity_keeps (h : Keeps s t) : Keeping s (execIdentity t) :=
  .ite (.next h) (.ite (.next h.withFree.withBoot) (.next h.withFree.bootLog.bootStop))

theorem Keeps.placeImage (h : Keeps s t) : Keeps s t.placeImage :=
  h.hbmPut.hbmPut

theorem Keeps.initValues (h : Keeps s t) : Keeps s t.initValues :=
  h.setField.withBoot.setField.applyShare

theorem Keeps.initCtx (h : Keeps s t) : Keeps s t.initCtx :=
  h.withCtxs

theorem Keeps.initCad (h : Keeps s t) : Keeps s t.initCad :=
  h.withCad

theorem Keeps.initPairs (h : Keeps s t) : Keeps s t.initPairs :=
  h.same

theorem execInit_keeps (h : Keeps s t) : Keeping s (execInit t) :=
  .ite (.next h) (.next (.ite (.springCause (by
    split
    · exact
      h.placeImage.withSlicesBoot.initValues.initCtx.initCad.initPairs.withFree.withBootPower.giveReady.giveReady.withBoot.cfgError
    · exact h.placeImage.withSlicesBoot.initValues.initCtx.initCad.initPairs.withFree.withBootPower.giveReady.giveReady)) (by
    split
    · exact
      h.placeImage.withSlicesBoot.initValues.initCtx.initCad.initPairs.withFree.withBootPower.giveReady.giveReady.withBoot.cfgError
    · exact h.placeImage.withSlicesBoot.initValues.initCtx.initCad.initPairs.withFree.withBootPower.giveReady.giveReady)))

theorem execAttestation_keeps {p request} (h : Keeps s t) : Keeping s (execAttestation p request t) :=
  .ite (.next h) (.ite (.next h.withAttestQueue) (.next h.modPort))

theorem Keeps.attestTick (h : Keeps s t) : Keeps s t.attestTick := by
  unfold State.attestTick
  split
  · exact h
  · exact Keeps.modPort (h.same rfl fun ⟨hst, hte, hg, hw, hs, hp, _, hrest⟩ =>
      ⟨hst, hte, hg, hw, hs, hp, Nat.min_le_right .., hrest⟩)

theorem execDoeAbort_keeps {p} (h : Keeps s t) : Keeping s (execDoeAbort p t) :=
  .next h.withAttestQueue

theorem Keeps.smb {v} (h : Keeps s t) : Keeps s (t.smb v) :=
  .ite h.same h.same

theorem execSmbHottestJunction_keeps (h : Keeps s t) : Keeping s (execSmbHottestJunction t) :=
  .next h.smb

theorem execSmbPower_keeps (h : Keeps s t) : Keeping s (execSmbPower t) :=
  .next h.smb

theorem execSmbStageState_keeps (h : Keeps s t) : Keeping s (execSmbStageState t) :=
  .next h.smb

theorem execSmbAlertConditions_keeps (h : Keeps s t) : Keeping s (execSmbAlertConditions t) :=
  .next h.smb

theorem execSmbSpringCause_keeps (h : Keeps s t) : Keeping s (execSmbSpringCause t) :=
  .next h.smb

theorem execSmbHottestStack_keeps (h : Keeps s t) : Keeping s (execSmbHottestStack t) :=
  .next h.smb

theorem execSmbOtherCommand_keeps {code} (h : Keeps s t) : Keeping s (execSmbOtherCommand code t) := by
  unfold execSmbOtherCommand
  split
  · exact execSmbHottestJunction_keeps h
  · exact execSmbPower_keeps h
  · exact execSmbStageState_keeps h
  · exact execSmbAlertConditions_keeps h
  · exact execSmbSpringCause_keeps h
  · exact execSmbHottestStack_keeps h
  · exact .next h.same

/-! ### Rings and ports -/

theorem Keeps.startOf {c d x} (h : Keeps s t) : Keeps s (t.startOf c d x) := by
  unfold State.startOf
  split
  · exact h.startNop
  · exact h.startCopy
  · exact h.startGather
  · exact h.startScatter
  · exact h.startPlanLoad
  · exact h.startPlanRun
  · exact h.startStatCfgSet
  · exact h.startStatCfgReset
  · exact h.startRootRefresh
  · exact h.startPrecondCfg
  · exact h.startGranStepFull
  · exact h.startGranStepNorm
  · exact h.startGranStepApply
  · exact h.startGranStepDiscard
  · exact h.startGranProg
  · exact h.startTxnBegin
  · exact h.startTxnCommit
  · exact h.startTxnAbort
  · exact h.startAllreduce
  · exact h.startReducescatter
  · exact h.startAllgather
  · exact h.startBroadcast
  · exact h.startPermute
  · exact h.startSlvStructLoad
  · exact h.startSlvStructFree
  · exact h.startSlvDelta
  · exact h.startSlvBatch
  · exact h.startWaitFrame
  · exact h.startWaitToken
  · exact h.startWaitSeq
  · exact h.startSignal
  · exact h.startMark
  · exact h.startWatchOff
  · exact h.startWatchStatistics
  · exact h.startWatchDigest
  · exact h.startHarvest
  · exact h.startRegGroup
  · exact h.startCtxDefine
  · exact h.startPartSet
  · exact h.startCtxTeardown
  · exact h.startCtxFree
  · exact h.startSpringEnter
  · exact h.startSpringExit

theorem Keeps.begin {c d} (h : Keeps s t) : Keeps s (t.begin c d) := by
  unfold State.begin
  split
  · exact h.accept.startOf
  · exact h

theorem Keeps.memberRejected {c d status detail} (h : Keeps s t) : Keeps s (t.memberRejected c d status detail) := by
  unfold State.memberRejected
  split
  · exact h
  · exact .ite h.abortTxn h

theorem Keeps.takeUp {c x d failed} (h : Keeps s t) : Keeps s (t.takeUp c x d failed) := by
  unfold State.takeUp
  split
  · exact h.reject.memberRejected
  · exact h.begin

theorem Keeps.drain {c n} (h : Keeps s t) : Keeps s (t.drain c n) := by
  induction n generalizing t with
  | zero => exact h
  | succ n ih =>
    unfold State.drain
    split
    · exact h
    · split
      · exact h
      · exact .ite h (ih h.modCtx.takeUp)

theorem Keeps.submit {c d} (h : Keeps s t) : Keeps s (t.submit c d) :=
  .ite h h.modCtx.drain

theorem descRow_keeps {r c d} (h : Keeps s t) : Keeping s (descRow r c d t) :=
  .ite .fault (.ite (.next h.submit) .fault)

theorem execNop_keeps {c d} (h : Keeps s t) : Keeping s (execNop c d t) :=
  descRow_keeps h

theorem execCopy_keeps {c d} (h : Keeps s t) : Keeping s (execCopy c d t) :=
  descRow_keeps h

theorem execGather_keeps {c d} (h : Keeps s t) : Keeping s (execGather c d t) :=
  descRow_keeps h

theorem execScatter_keeps {c d} (h : Keeps s t) : Keeping s (execScatter c d t) :=
  descRow_keeps h

theorem execPlanLoad_keeps {c d} (h : Keeps s t) : Keeping s (execPlanLoad c d t) :=
  descRow_keeps h

theorem execPlanRun_keeps {c d} (h : Keeps s t) : Keeping s (execPlanRun c d t) :=
  descRow_keeps h

theorem execStatCfgSet_keeps {c d} (h : Keeps s t) : Keeping s (execStatCfgSet c d t) :=
  descRow_keeps h

theorem execStatCfgReset_keeps {c d} (h : Keeps s t) : Keeping s (execStatCfgReset c d t) :=
  descRow_keeps h

theorem execRootRefresh_keeps {c d} (h : Keeps s t) : Keeping s (execRootRefresh c d t) :=
  descRow_keeps h

theorem execPrecondCfg_keeps {c d} (h : Keeps s t) : Keeping s (execPrecondCfg c d t) :=
  descRow_keeps h

theorem execGranStepFull_keeps {c d} (h : Keeps s t) : Keeping s (execGranStepFull c d t) :=
  descRow_keeps h

theorem execGranStepNorm_keeps {c d} (h : Keeps s t) : Keeping s (execGranStepNorm c d t) :=
  descRow_keeps h

theorem execGranStepApply_keeps {c d} (h : Keeps s t) : Keeping s (execGranStepApply c d t) :=
  descRow_keeps h

theorem execGranStepDiscard_keeps {c d} (h : Keeps s t) : Keeping s (execGranStepDiscard c d t) :=
  descRow_keeps h

theorem execGranProg_keeps {c d} (h : Keeps s t) : Keeping s (execGranProg c d t) :=
  descRow_keeps h

theorem execTxnBegin_keeps {c d} (h : Keeps s t) : Keeping s (execTxnBegin c d t) :=
  descRow_keeps h

theorem execTxnCommit_keeps {c d} (h : Keeps s t) : Keeping s (execTxnCommit c d t) :=
  descRow_keeps h

theorem execTxnAbort_keeps {c d} (h : Keeps s t) : Keeping s (execTxnAbort c d t) :=
  descRow_keeps h

theorem execAllreduce_keeps {c d} (h : Keeps s t) : Keeping s (execAllreduce c d t) :=
  descRow_keeps h

theorem execReducescatter_keeps {c d} (h : Keeps s t) : Keeping s (execReducescatter c d t) :=
  descRow_keeps h

theorem execAllgather_keeps {c d} (h : Keeps s t) : Keeping s (execAllgather c d t) :=
  descRow_keeps h

theorem execBroadcast_keeps {c d} (h : Keeps s t) : Keeping s (execBroadcast c d t) :=
  descRow_keeps h

theorem execPermute_keeps {c d} (h : Keeps s t) : Keeping s (execPermute c d t) :=
  descRow_keeps h

theorem execSlvStructLoad_keeps {c d} (h : Keeps s t) : Keeping s (execSlvStructLoad c d t) :=
  descRow_keeps h

theorem execSlvStructFree_keeps {c d} (h : Keeps s t) : Keeping s (execSlvStructFree c d t) :=
  descRow_keeps h

theorem execSlvDelta_keeps {c d} (h : Keeps s t) : Keeping s (execSlvDelta c d t) :=
  descRow_keeps h

theorem execSlvBatch_keeps {c d} (h : Keeps s t) : Keeping s (execSlvBatch c d t) :=
  descRow_keeps h

theorem execWaitFrame_keeps {c d} (h : Keeps s t) : Keeping s (execWaitFrame c d t) :=
  descRow_keeps h

theorem execWaitToken_keeps {c d} (h : Keeps s t) : Keeping s (execWaitToken c d t) :=
  descRow_keeps h

theorem execWaitSeq_keeps {c d} (h : Keeps s t) : Keeping s (execWaitSeq c d t) :=
  descRow_keeps h

theorem execSignal_keeps {c d} (h : Keeps s t) : Keeping s (execSignal c d t) :=
  descRow_keeps h

theorem execMark_keeps {c d} (h : Keeps s t) : Keeping s (execMark c d t) :=
  descRow_keeps h

theorem execWatchOff_keeps {c d} (h : Keeps s t) : Keeping s (execWatchOff c d t) :=
  descRow_keeps h

theorem execWatchStatistics_keeps {c d} (h : Keeps s t) : Keeping s (execWatchStatistics c d t) :=
  descRow_keeps h

theorem execWatchDigest_keeps {c d} (h : Keeps s t) : Keeping s (execWatchDigest c d t) :=
  descRow_keeps h

theorem execHarvest_keeps {c d} (h : Keeps s t) : Keeping s (execHarvest c d t) :=
  descRow_keeps h

theorem execRegGroup_keeps {c d} (h : Keeps s t) : Keeping s (execRegGroup c d t) :=
  descRow_keeps h

theorem execCtxDefine_keeps {c d} (h : Keeps s t) : Keeping s (execCtxDefine c d t) :=
  descRow_keeps h

theorem execPartSet_keeps {c d} (h : Keeps s t) : Keeping s (execPartSet c d t) :=
  descRow_keeps h

theorem execCtxTeardown_keeps {c d} (h : Keeps s t) : Keeping s (execCtxTeardown c d t) :=
  descRow_keeps h

theorem execCtxFree_keeps {c d} (h : Keeps s t) : Keeping s (execCtxFree c d t) :=
  descRow_keeps h

theorem execSpringEnter_keeps {c d} (h : Keeps s t) : Keeping s (execSpringEnter c d t) :=
  descRow_keeps h

theorem execSpringExit_keeps {c d} (h : Keeps s t) : Keeping s (execSpringExit c d t) :=
  descRow_keeps h

theorem execLinkDown_keeps {p} (h : Keeps s t) : Keeping s (execLinkDown p t) :=
  .next h.modPort

theorem execLinkUp_keeps {p speed width} (h : Keeps s t) : Keeping s (execLinkUp p speed width t) :=
  .ite (.next h.modPort.flushWait) (.next h)

theorem execIdeLinkStream_keeps {p up} (h : Keeps s t) : Keeping s (execIdeLinkStream p up t) :=
  .next h.modPort.flushWait

theorem Keeps.takeHead {p c head} (h : Keeps s t) : Keeps s (t.takeHead p c head) :=
  h.modCtx.releaseAttn

theorem Keeps.takeTail {p c tail} (h : Keeps s t) : Keeps s (t.takeTail p c tail) :=
  .ite h.modCtx.cfgError (.ite (.ite h.modCtx h.modCtx.modCtx) (.drain (.foldl h.modCtx.modCtx fun _ h => h.submit)))

theorem Keeps.pollCtx {p c} (h : Keeps s t) : Keeps s (t.pollCtx p c) := by
  unfold State.pollCtx
  split
  · exact h
  · exact h.pulse.takeHead.takeTail

theorem Keeps.pollEvents {p} (h : Keeps s t) : Keeps s (t.pollEvents p) := by
  unfold State.pollEvents
  split
  · exact h
  · exact h.modPort.releaseAttn.evtDrain

theorem execDoorbellPoll_keeps {p entry} (h : Keeps s t) : Keeping s (execDoorbellPoll p entry t) :=
  .ite .fault (.ite (.next h) (.ite (.next h.pollEvents) (.ite (.next h.pollCtx) (.next h))))

theorem execPollIntervalAdjust_keeps {c} (h : Keeps s t) : Keeping s (execPollIntervalAdjust c t) := by
  unfold execPollIntervalAdjust
  split
  · exact .next h
  · exact .ite (.next h) (.next (.ite h.modCtx h.modCtx.devEvent))

theorem execActiveExpiry_keeps {c} (h : Keeps s t) : Keeping s (execActiveExpiry c t) := by
  unfold execActiveExpiry
  split
  · exact .next h
  · exact .ite (.next h.modCtx) (.next h)

theorem execEventQueueDrain_keeps {p} (h : Keeps s t) : Keeping s (execEventQueueDrain p t) :=
  .next h.evtDrain

/-! ### Cycle, the dispatch and the step -/

theorem exec_keeps {i} (h : Keeps s t) : Keeping s (exec i t) := by
  unfold exec
  split
  · exact execNop_keeps h
  · exact execCopy_keeps h
  · exact execGather_keeps h
  · exact execScatter_keeps h
  · exact execPlanLoad_keeps h
  · exact execPlanRun_keeps h
  · exact execStatCfgSet_keeps h
  · exact execStatCfgReset_keeps h
  · exact execRootRefresh_keeps h
  · exact execPrecondCfg_keeps h
  · exact execGranStepFull_keeps h
  · exact execGranStepNorm_keeps h
  · exact execGranStepApply_keeps h
  · exact execGranStepDiscard_keeps h
  · exact execGranProg_keeps h
  · exact execTxnBegin_keeps h
  · exact execTxnCommit_keeps h
  · exact execTxnAbort_keeps h
  · exact execAllreduce_keeps h
  · exact execReducescatter_keeps h
  · exact execAllgather_keeps h
  · exact execBroadcast_keeps h
  · exact execPermute_keeps h
  · exact execSlvStructLoad_keeps h
  · exact execSlvStructFree_keeps h
  · exact execSlvDelta_keeps h
  · exact execSlvBatch_keeps h
  · exact execWaitFrame_keeps h
  · exact execWaitToken_keeps h
  · exact execWaitSeq_keeps h
  · exact execSignal_keeps h
  · exact execMark_keeps h
  · exact execWatchOff_keeps h
  · exact execWatchStatistics_keeps h
  · exact execWatchDigest_keeps h
  · exact execHarvest_keeps h
  · exact execRegGroup_keeps h
  · exact execCtxDefine_keeps h
  · exact execPartSet_keeps h
  · exact execCtxTeardown_keeps h
  · exact execCtxFree_keeps h
  · exact execSpringEnter_keeps h
  · exact execSpringExit_keeps h
  · exact execCfgMode_keeps h
  · exact execCfgAddr_keeps h
  · exact execCfgPos_keeps h
  · exact execCfgFxq_keeps h
  · exact execCfgStream_keeps h
  · exact execLds_keeps h
  · exact execStrm_keeps h
  · exact execMaccZero_keeps h
  · exact execMaccStore_keeps h
  · exact execMaccKeep_keeps h
  · exact execDrn_keeps h
  · exact execDrnNow_keeps h
  · exact execGram_keeps h
  · exact execTwinOffer_keeps h
  · exact execTwinTake_keeps h
  · exact execHistWrite_keeps h
  · exact execHistMerge_keeps h
  · exact execBchkWrite_keeps h
  · exact execBchkLoad_keeps h
  · exact execPruSqrt_keeps h
  · exact execPruRecip_keeps h
  · exact execPruRsqrt_keeps h
  · exact execPruPivot_keeps h
  · exact execLoop_keeps h
  · exact execTokw_keeps h
  · exact execToks_keeps h
  · exact execRng_keeps h
  · exact execMarkInstruction_keeps h
  · exact execSamp_keeps h
  · exact execHaltEnd_keeps h
  · exact execHaltNext_keeps h
  · exact execHaltNextYield_keeps h
  · exact execTwinRendezvous_keeps h
  · exact execTwinTimeout_keeps h
  · exact execTokenIncrement_keeps h
  · exact execTokwTimeout_keeps h
  · exact execLdsComplete_keeps h
  · exact execPassComplete_keeps h
  · exact execFillRun_keeps h
  · exact execFillRunDone_keeps h
  · exact execPruRequest_keeps h
  · exact execGranaryChunk_keeps h
  · exact execTransactionPlace_keeps h
  · exact execWeirPass_keeps h
  · exact execStageStart_keeps h
  · exact execStageComplete_keeps h
  · exact execRowMap_keeps h
  · exact execFold_keeps h
  · exact execGramStage_keeps h
  · exact execLayerReplay_keeps h
  · exact execRescale_keeps h
  · exact execBlockRelease_keeps h
  · exact execRefreshStart_keeps h
  · exact execRefreshFinish_keeps h
  · exact execPreconditioning_keeps h
  · exact execNormCheck_keeps h
  · exact execCommitPrepare_keeps h
  · exact execGroupVote_keeps h
  · exact execVoteTimeout_keeps h
  · exact execCommitPoint_keeps h
  · exact execPartitionChange_keeps h
  · exact execBatchRelease_keeps h
  · exact execProblemStart_keeps h
  · exact execSolverFragment_keeps h
  · exact execDeadline_keeps h
  · exact execPairReturnRequest_keeps h
  · exact execBorrowerOverrun_keeps h
  · exact execFallowEntry_keeps h
  · exact execFallowWake_keeps h
  · exact execContextBlocked_keeps h
  · exact execSwapPoll_keeps h
  · exact execWeirWindow_keeps h
  · exact execDoorbellPoll_keeps h
  · exact execPollIntervalAdjust_keeps h
  · exact execActiveExpiry_keeps h
  · exact execEventQueueDrain_keeps h
  · exact execLinkDown_keeps h
  · exact execLinkUp_keeps h
  · exact execCadenceIn_keeps h
  · exact execHoldoverBoundary_keeps h
  · exact execInternalBoundary_keeps h
  · exact execPpsIn_keeps h
  · exact execPpsTimeout_keeps h
  · exact execWaitFrameReached_keeps h
  · exact execWatchRead_keeps h
  · exact execSample_keeps h
  · exact execSluiceTrigger_keeps h
  · exact execSluiceFreeze_keeps h
  · exact execBwWindow_keeps h
  · exact execStackTemperature_keeps h
  · exact execRefreshOffsetAdjust_keeps h
  · exact execUncorrectableError_keeps h
  · exact execCorrection_keeps h
  · exact execRasGlobalWindow_keeps h
  · exact execThermalPowerLoop_keeps h
  · exact execThermalEmergency_keeps h
  · exact execThermalClear_keeps h
  · exact execThermtrip_keeps h
  · exact execRailFault_keeps h
  · exact execPmbAlertN_keeps h
  · exact execPwrokRise_keeps h
  · exact execPwrokFall_keeps h
  · exact execWarmReset_keeps h
  · exact execWarmResetRelease_keeps h
  · exact execPortReset_keeps h
  · exact execPortResetRelease_keeps h
  · exact execRom_keeps h
  · exact execVerifying_keeps h
  · exact execTraining_keeps h
  · exact execIdentity_keeps h
  · exact execInit_keeps h
  · exact execGo_keeps h
  · exact execFirmwareLoadWrite_keeps h
  · exact execCadAnchor_keeps h
  · exact execHifEvtRingEnable_keeps h
  · exact execHifDoorbellEnable_keeps h
  · exact execSluiceEnable_keeps h
  · exact execDump_keeps h
  · exact execForce_keeps h
  · exact execPmcClear_keeps h
  · exact execPmcFreeze_keeps h
  · exact execRasLogClear_keeps h
  · exact execTxnShadowCfg_keeps h
  · exact execCrvTheta_keeps h
  · exact execCrvRootCfg_keeps h
  · exact execNumScaleCfg_keeps h
  · exact execCtxWeirCfg_keeps h
  · exact execColCfg_keeps h
  · exact execRegisterWrite_keeps h
  · exact execBar2Read_keeps h
  · exact execBar2Write_keeps h
  · exact execIeee1500Access_keeps h
  · exact execAttestation_keeps h
  · exact execPeerWrite_keeps h
  · exact execCollectiveTimeout_keeps h
  · exact execSmbHottestJunction_keeps h
  · exact execSmbPower_keeps h
  · exact execSmbStageState_keeps h
  · exact execSmbAlertConditions_keeps h
  · exact execSmbSpringCause_keeps h
  · exact execSmbHottestStack_keeps h
  · exact execRegisterRead_keeps h
  · exact execCounterOverflow_keeps h
  · exact execIdle_keeps h
  · exact execRailClear_keeps h
  · exact execDoeAbort_keeps h
  · exact execIdeLinkStream_keeps h
  · exact execSmbOtherCommand_keeps h

theorem Keeps.ctrTick {bank k} (h : Keeps s t) : Keeps s (t.ctrTick bank k) := by
  unfold State.ctrTick
  split
  · exact h
  · exact .ite h.withLevels.ctrAdd h.withLevels

theorem Keeps.countersTick (h : Keeps s t) : Keeps s t.countersTick :=
  .withPulses (.foldl h.withPulses fun _ h => h.ctrTick)

theorem Keeps.retryOpen {c o} (h : Keeps s t) : Keeps s (t.retryOpen c o) := by
  unfold State.retryOpen
  dsimp only
  split
  · exact h.startWaitToken
  · exact h.startWaitSeq
  · exact h.retryWaitFrame
  · split
    · exact h.startCopy
    · exact h.startGather
    · exact h.startScatter
    · exact h.emptyRun
    · exact h.applyBegin
    · exact h.startColl
    · exact .ite h.startSlvStructFree h.startSlvStructLoad
    · exact h.retryDelta
    · exact h.startHarvest
    · exact h
  · split
    · exact h.startCopy
    · exact h.startGather
    · exact h.startScatter
    · exact h.emptyRun
    · exact h.applyBegin
    · exact h.startColl
    · exact .ite h.startSlvStructFree h.startSlvStructLoad
    · exact h.retryDelta
    · exact h.startHarvest
    · exact h
  · exact h

theorem Keeps.ringTick {c} (h : Keeps s t) : Keeps s (t.ringTick c) :=
  .ite h (.drain (.ite h (.foldl h fun _ h => .ite h.retryOpen h)))

theorem Keeps.settle (h : Keeps s t) : Keeps s t.settle :=
  .foldl h.colSettle.slotsSettle.shareSettle.collSettle.exchangesBegin fun _ h => h.recipesSettle.serveTokens.ringTick

theorem Keeps.idleTick {p} (h : Keeps s t) : Keeps s (t.idleTick p) :=
  .ite h h.modPair

theorem Keeps.waitTick (h : Keeps s t) : Keeps s t.waitTick :=
  h.withArrays

theorem Keeps.peerTick (h : Keeps s t) : Keeps s t.peerTick :=
  .ite h h.withGroup

theorem Keeps.unitsTick (h : Keeps s t) : Keeps s t.unitsTick := by
  have hwork : Keeps s ((List.range 48).foldl (fun s p => (s.takeWork p).idleTick p)
    ((List.range 6).foldl State.pruTick t).refreshTick) :=
    .foldl (.refreshTick (.foldl h fun _ h => h.pruTick)) fun _ h => h.takeWork.idleTick
  unfold State.unitsTick
  exact .granAdvance (.ite hwork.waitTick.peerTick.withOutstanding.thermalSettle hwork.waitTick.peerTick.withOutstanding)

theorem Keeps.work (h : Keeps s t) : Keeps s t.work :=
  .attestTick (.settle (.unitsTick (.foldl h.countersTick.blockTick.weirTick.sluiceTick.sluiceTick fun _ h => h.samplerTick)))

theorem Keeps.tick (h : Keeps s t) : Keeps s t.tick :=
  .ite h (.ite h.withNow.work h.withNow)

theorem step_keeps (h : step s = .next t) : t.pending = s.pending.tail ∧ (s.bounded → t.bounded) := by
  unfold step at h
  split at h
  case _ hq =>
    cases h
    obtain ⟨hpending, hbounds⟩ := (Keeps.refl s).tick
    exact ⟨by rw [hpending, hq, List.tail_nil], hbounds⟩
  case _ c rest hq =>
    obtain ⟨hpending, hbounds⟩ := (exec_keeps (Keeps.refl { s with pending := rest })).keeps h
    exact ⟨by rw [hpending, hq, List.tail_cons], hbounds⟩

/-! ### The two invariants of every step: its bounds and its queue -/

/-- Settles O60: a step is one cycle or one command, and both keep the bounds. -/
theorem stepsKeepTheBounds : Obligations.StepsKeepTheBounds := by
  unfold Obligations.StepsKeepTheBounds
  intro s t hbounds h
  obtain ⟨-, hkept⟩ := step_keeps h
  exact hkept hbounds

/-- Settles O59: a step takes the front command off the queue, and neither a cycle nor a command touches the rest. -/
theorem onlyTheSenderQueuesCommands : Obligations.OnlyTheSenderQueuesCommands := by
  unfold Obligations.OnlyTheSenderQueuesCommands
  intro s t h
  obtain ⟨hqueue, -⟩ := step_keeps h
  exact hqueue

end Sys2Proof.Machine
end

section
/-! Steps, resets, SMBus, attestation, start commands and the rings. -/

namespace Sys2Proof.Machine

/-- Settles O1. -/
theorem stepRunsTheFrontCommand : Obligations.StepRunsTheFrontCommand := by
  intro s c rest h
  rw [step, h]

/-- A step on an empty queue is a cycle. -/
theorem step_of_empty {s : State} (h : s.pending = []) : step s = .next s.tick := by
  rw [step, h]

/-- With PWROK high a cycle lets time pass, and the units of a device that runs past READY and out of a halt work in it. -/
theorem State.tick_on {s : State} (h : s.pwrok = true) : s.tick =
    if s.running && s.isReady && s.power.state != 3 then ({ s with now := s.now + 1 } : State).work else { s with now := s.now + 1 } :=
  if_neg (by simp [h])

/-- Settles O56, by the two conditions of a cycle. -/
theorem anEmptyQueueLetsACyclePass : Obligations.AnEmptyQueueLetsACyclePass := by
  intro s h
  rw [step_of_empty h]
  refine ⟨fun hoff => ?_, fun hon hidle => ?_, fun hon hrun hready hhalt => ?_⟩
  · exact congrArg _ (if_pos (by simp [hoff]))
  · rw [State.tick_on hon, if_neg]
    rcases hidle with h | h | h <;> simp [h]
  · rw [State.tick_on hon, if_pos]
    simp [hrun, hready, hhalt]

/-- Settles O57: the state after a cold reset lists nothing, so every field is the model's cold value. -/
theorem resetHoldsColdValues : Obligations.ResetHoldsColdValues := by
  have hport : ({} : PortState).bounded := ⟨Nat.zero_le _, Nat.zero_le _, Nat.zero_le _, Nat.zero_le _, Nat.zero_le _⟩
  have hdevice : (0 : Nat) ≤ 30 ∧ (0 : Nat) < 32 ∧ (0 : Nat) < 2 ^ 24 ∧ (0 : Nat) < 256 ∧ (0 : Nat) ≤ 65535 := by decide
  obtain ⟨hgate, hlog, hsram, hpath, hcount⟩ := hdevice
  exact ⟨rfl, rfl, rfl, rfl, rfl, fun _ _ _ => rfl, fun _ => rfl, rfl, rfl, rfl, rfl,
    hport, hport, hgate, hlog, hsram, hpath, hcount, rfl, rfl, rfl⟩

theorem State.smb_on {s : State} (h : s.pwrok = true) (v : Nat) : s.smb v = { s with smbus := some v, smbusNack := false } :=
  if_pos h

theorem State.smb_off {s : State} (h : s.pwrok = false) (v : Nat) : s.smb v = { s with smbus := none, smbusNack := true } :=
  if_neg (by simp [h])

/-- A code that no command has is not acknowledged. -/
theorem execSmbOtherCommand_of_unlisted (s : State) {code : Nat} (h : code = 0 ∨ 6 < code) :
    execSmbOtherCommand code s = .next { s with smbus := none, smbusNack := true } := by
  unfold execSmbOtherCommand
  split
  · omega
  · omega
  · omega
  · omega
  · omega
  · omega
  · rfl

/-- Settles O46: each command answers through the one bus, which PWROK opens. -/
theorem smbusAnswersItsCommands : Obligations.SmbusAnswersItsCommands := by
  intro s
  refine ⟨fun hon => ?_, fun code hcode => execSmbOtherCommand_of_unlisted s hcode, fun hoff => ?_⟩
  · have hsmb (v : Nat) := congrArg (Host.Outcome.next (φ := Fault) (ρ := Refusal)) (State.smb_on hon v)
    exact ⟨hsmb _, hsmb _, hsmb _, hsmb _, hsmb _, hsmb _⟩
  · have hsmb (v : Nat) := congrArg (Host.Outcome.next (φ := Fault) (ρ := Refusal)) (State.smb_off hoff v)
    exact ⟨hsmb _, hsmb _, hsmb _, hsmb _, hsmb _, hsmb _⟩

/-- Settles O45, by the branches of a request and of a cycle's signing. -/
theorem attestationIsAnsweredInOrder : Obligations.AttestationIsAnsweredInOrder := by
  refine ⟨fun s p q hopen hst => ?_, fun s p q hopen hst => ?_, fun _ _ => rfl, fun s p q rest hq => ?_⟩
  · simp [exec, execAttestation, hopen, hst]
  · simp [exec, execAttestation, hopen, hst]
  · simp only [State.attestTick, hq]
    refine ⟨?_, State.modPort_attestQueue .., State.modPort_attestCount ..⟩
    rw [State.portSt_modPort]

/-! ### Rings -/

/-- A device whose context 0 has a ring of one entry. -/
def tinyRing : State := { ctxs := [(0, {})] }

/-- Refutes O50: a SQ_TAIL too far ahead is not only recorded. The poll that read it counts in its context's polls (R297), so
context 0 holds one poll after it and none after the record alone. -/
theorem not_ringsWrapAtTheirSizes : ¬ Obligations.RingsWrapAtTheirSizes := by
  rintro ⟨-, -, hfar⟩
  have hpolls := congrArg (fun t : State => (t.ctxD 0).polls) (hfar tinyRing .steward 0 2 (by decide))
  exact absurd hpolls (by decide)

end Sys2Proof.Machine
end

section
/-! GO and the firmware load window (O42). -/

namespace Sys2Proof.Machine

/-- A 32-bit write outside the load window is one of its word. -/
theorem State.busWrite_four (s : State) (p : Port) {off : Nat} (hw : inWindow off = false) (ho : off % 4 = 0) (v : Nat) :
    s.busWrite p off 4 v = s.write32 p off (v % 2 ^ 32) := by
  simp [State.busWrite, hw, ho, State.writeWords]

theorem State.rawReg_lt (s : State) {r : Reg} {idx : Nat} (p : Port) (hcold : coldValue r idx < 2 ^ 64) : s.rawReg r idx p < 2 ^ 64 := by
  unfold State.rawReg
  split
  · exact BitVec.isLt _
  · exact hcold

/-- PWR_BOOT holds nothing that a write of it keeps: GO alone is left of it (R414). -/
theorem State.applyReg_go (s : State) (off : Nat) : s.applyReg .steward .pwrBoot 0 0xFFFFFFFF 0x100 off = s.goWrite .steward := by
  have hmask : rwMask .pwrBoot 0 = 0 := by decide
  have hold : s.rawReg .pwrBoot 0 .steward &&& 18446744073709551615 = s.rawReg .pwrBoot 0 .steward :=
    (Nat.and_two_pow_sub_one_eq_mod _ 64).trans (Nat.mod_eq_of_lt (s.rawReg_lt .steward (by decide)))
  have hcopy : copyOf .pwrBoot .steward = .steward := rfl
  have hgo : bitsOf 256 8 1 = 1 := by decide
  have hchain : chainOff .pwrBoot 0 256 = false := by decide
  simp [State.applyReg, hmask, hcopy, hold, hchain, State.writeEffect, hgo]

/-- GO from the steward port reaches PWR_BOOT before READY too (R414, R448). -/
theorem execGo_steward {s : State} (hopen : s.barOpen .steward = true) (hhalt : s.power.state ≠ 3) (hheld : s.steward.held = none) :
    execGo .steward s = .next ((s.accessing .steward).goWrite .steward) := by
  have hreg : regAt 0xE00004 = some ⟨{ reg := .pwrBoot, base := 0xE00004, bytes := 4 }, 0, 0⟩ := by decide
  have hserved : s.served .pwrBoot = true := by
    cases hready : s.isReady <;> simp [State.served, hhalt, hready, earlyReg]
  rw [execGo, regRow, if_pos hopen, State.busWrite_four _ _ (by decide) (by decide),
    State.write32_reg (p := .steward) _ hreg (by decide) rfl hserved hheld, State.portWrite_steward, State.putReg_apply _ _ _ _ _ _ rfl]
  exact congrArg _ (State.applyReg_go ..)

/-- A write of the load window from the steward port in LOAD_WAIT (R390). -/
theorem execFirmwareLoadWrite_waiting {s : State} {off : Nat} (hopen : s.barOpen .steward = true) (hstage : s.boot.stage = 1)
    (hoff : off < 0x1000000) (bs : List Byte) : execFirmwareLoadWrite .steward off bs s =
      .next { s.accessing .steward with boot := { s.boot with window := memPut s.boot.window off bs } } := by
  have hplace : 0x1000000 + off % 0x1000000 - 0x1000000 = off := by omega
  have hwait : (s.accessing .steward).boot.stage = 1 := hstage
  rw [execFirmwareLoadWrite, if_pos hopen, State.windowWrite, hplace]
  exact congrArg _ (if_pos ⟨rfl, hwait⟩)

/-- Settles O42: GO by the stage it finds, and a write of the window at its place. -/
theorem goAndTheLoadWindowStartTheDevice : Obligations.GoAndTheLoadWindowStartTheDevice := by
  intro s k hopen hhalt hheld hk
  have hk : k = s.accessing .steward := hk
  subst hk
  refine ⟨fun hstage => ?_, fun hstage => ?_, fun off bs hstage hoff => execFirmwareLoadWrite_waiting hopen hstage hoff bs⟩
  · have hwait : (s.accessing .steward).boot.stage = 1 := hstage
    refine (execGo_steward hopen hhalt hheld).trans (congrArg _ ?_)
    exact if_pos hwait
  · have hverified : (s.accessing .steward).boot.stage = 3 := hstage
    refine (execGo_steward hopen hhalt hheld).trans (congrArg _ ?_)
    exact (if_neg (by simp [hverified])).trans (if_pos hverified)

end Sys2Proof.Machine
end

section
/-! The sluices' queues, the thermal and power loop, and the units of debug (O53, O37, O33). -/

namespace Sys2Proof.Machine

/-! ### Sluices -/

/-- Settles O53, by the branches of a record offered and of a cycle. -/
theorem sluicesQueueAndLose : Obligations.SluicesQueueAndLose := by
  refine ⟨fun s p r hroom => if_pos hroom, fun s p r hfull => if_neg (Nat.not_lt.2 hfull), fun s p hrun hlost => ?_,
    fun s p r rest hrun hnone hq => ?_, fun s p r => ?_⟩
  · exact (if_neg (by simp [hrun])).trans (if_pos hlost)
  · unfold State.sluiceTick
    dsimp only
    rw [if_neg (by simp [hrun]), if_neg (by omega), hq]
    rfl
  · unfold State.sluiceStore
    exact ⟨by rw [State.portSt_setPort], State.setPort_hbm ..⟩

/-! ### The thermal and power loop (R395, R396) -/

/-- VCORE moves nothing but itself and the count of free values, and under throttling it does not rise. -/
theorem State.setVcore_eq (s : State) (b : Bool) : ∃ v n, s.setVcore b = { s with free := n, power := { s.power with vcore := v } } ∧
    (b = true → v ≤ s.power.vcore) := by
  unfold State.setVcore
  split
  · exact ⟨s.power.vcore, s.free, rfl, fun _ => le_rfl⟩
  · cases b with
    | false => exact ⟨_, s.free + 1, rfl, nofun⟩
    | true => exact ⟨_, s.free + 1, rfl, fun _ => Nat.min_le_right ..⟩

theorem Reported.power {s t : State} (h : Reported s t) : t.power = s.power := by
  obtain ⟨a, b, r, q, m, n, rfl⟩ := h
  rfl

/-- Reports after a change of power and of the count of free values are settings only, and of the registers touch DBG_TRIG. -/
theorem State.onlySettings_of_reported_power {s t u : State} {x : Power} {n : Nat} (hu : u = { s with power := x, free := n })
    (h : Reported u t) (hregs : OtherRegsKept s t) : s.onlySettings { t with power := s.power, free := s.free } [.dbgTrig] := by
  subst hu
  refine ⟨?_, fun q hq i p => ?_⟩
  · obtain ⟨a, b, r, q, m, n, rfl⟩ := h
    rfl
  · exact (State.rawReg_congr rfl q i p).trans (hregs.same q (List.mem_singleton.not.1 hq) i p)

/-- Settles O37: what the reading sets in the power state stands through the setting of VCORE and the event. -/
theorem throttlingMovesTheGate : Obligations.ThrottlingMovesTheGate := by
  intro s j w
  have hrow : exec (.thermalPowerLoop j w) s = execThermalPowerLoop j w s := rfl
  rw [hrow]
  unfold execThermalPowerLoop
  extract_lets limit hot heavy g up g' worst _ s1 s2 ev
  obtain ⟨v, n, hs2, hvcore⟩ := s1.setVcore_eq (g != 0 || g' != 0)
  have hs2 : s2 = { s1 with free := n, power := { s1.power with vcore := v } } := hs2
  have hreported : Reported s2 (if g = 0 ∧ g' ≠ 0 then ev s2 1 else if g ≠ 0 ∧ g' = 0 then ev s2 2 else s2) := by
    split
    · exact .devEvent ..
    · split
      · exact .devEvent ..
      · exact .refl _
  have hregs : OtherRegsKept s2 (if g = 0 ∧ g' ≠ 0 then ev s2 1 else if g ≠ 0 ∧ g' = 0 then ev s2 2 else s2) :=
    .ite (.devEvent ..) (.ite (.devEvent ..) (.refl _))
  have hs2regs : OtherRegsKept s s2 := .of_regs ((congrArg State.regs hs2).trans rfl)
  have hpower := hreported.power.trans (congrArg State.power hs2)
  refine ⟨_, rfl, ?_, ?_, ?_, fun hthrottled => ?_,
    State.onlySettings_of_reported_power hs2 hreported (hs2regs.trans hregs)⟩
  · rw [hpower]
  · rw [hpower]
  · rw [hpower]
    show g' = _
    simp only [g', up, hot, heavy, Bool.or_eq_true, decide_eq_true_eq]
    rfl
  · rw [hpower]
    rw [hpower] at hthrottled
    exact hvcore (by simpa using hthrottled)

/-- Settles O33, by the branches of each row. -/
theorem debugUnitsRecord : Obligations.DebugUnitsRecord := by
  refine ⟨fun s c point seq r w hr how => ?_, fun s p cond h1 h5 htenant => ?_,
    fun s t p ht htrig hfrozen => ?_, fun s hon => ⟨fun hover => ?_, fun hearly => ?_⟩,
    fun s bank unit idx value b hb hunit hidx hrun hchain hover => ?_⟩
  · simp only [exec, execWatchRead, hr, how]
  · refine if_neg ?_
    rintro (rfl | h | h)
    · omega
    · omega
    · exact htenant h
  · subst ht
    exact congrArg _ (if_pos (by rw [htrig, hfrozen]; rfl))
  · have hbw : s.bwOver = true := by simp [State.bwOver, hon, show cyclesPerUs = 1050 from rfl, hover]
    exact if_pos hbw
  · have hbw : ¬s.bwOver = true := by simp [State.bwOver, hon, show cyclesPerUs = 1050 from rfl, hearly]
    exact if_neg hbw
  · simp only [exec, execCounterOverflow, hb]
    rw [if_neg (by omega), if_pos]
    simpa [hrun, hchain] using hover

end Sys2Proof.Machine
end

section
/-! Counters: what an addition makes of a counter, its neighbour and its overflow bit (O52). -/

namespace Sys2Proof.Machine

/-! ### One bit of a register -/

theorem bitsOf_one_eq_one {v i : Nat} : bitsOf v i 1 = 1 ↔ v.testBit i = true := by
  rw [Nat.testBit_eq_decide_div_mod_eq, decide_eq_true_eq, bitsOf, Nat.pow_one]

theorem bitsOf_one_eq_zero {v i : Nat} (h : v.testBit i = false) : bitsOf v i 1 = 0 := by
  have hmod : v / 2 ^ i % 2 ≠ 1 := by simpa [Nat.testBit_eq_decide_div_mod_eq] using h
  rw [bitsOf]
  omega

/-- A field of one bit set to 1: the bit is set, and those below it are as they were. -/
theorem testBit_bitSet (v : Nat) {i j : Nat} (h : j ≤ i) :
    (v - bitsOf v i 1 * 2 ^ i + 1 % 2 ^ 1 * 2 ^ i).testBit j = (j == i || v.testBit j) := by
  have hone : 1 % 2 ^ 1 * 2 ^ i = 2 ^ i := Nat.one_mul _
  cases hv : v.testBit i with
  | true =>
    rw [bitsOf_one_eq_one.2 hv, hone, Nat.one_mul, Nat.sub_add_cancel (Nat.ge_two_pow_of_testBit hv)]
    by_cases hj : j = i <;> simp [hj, hv]
  | false =>
    rw [bitsOf_one_eq_zero hv, hone, Nat.zero_mul, Nat.sub_zero, Nat.add_comm]
    rcases Nat.eq_or_lt_of_le h with rfl | hlt
    · simp [Nat.testBit_two_pow_add_eq, hv]
    · simp [Nat.testBit_two_pow_add_gt hlt, Nat.ne_of_lt hlt]

theorem State.rfi_setField_bit (s : State) (r : Reg) (idx : Nat) {i j : Nat} (hi : i < 64) (h : j ≤ i) :
    (s.setField r idx .steward i 1 1).rfi r idx j 1 = 1 ↔ j = i ∨ s.rfi r idx j 1 = 1 := by
  rw [State.rfi, State.setField, State.rawReg_setReg, bitsOf_one_eq_one, Nat.testBit_mod_two_pow, testBit_bitSet _ h, State.rfi,
    bitsOf_one_eq_one]
  simp [Nat.lt_of_le_of_lt h hi]

/-! ### The banks -/

/-- A bank's counters, their settings, their overflow bits, PMC_CTL and DBG_TRIG are registers apart. -/
theorem ctrBank_apart {bank : Nat} {b : CtrBank} (h : ctrBank bank = some b) :
    b.ctr ≠ b.ovf ∧ b.ctr ≠ b.evsel ∧ b.ovf ≠ b.evsel ∧ b.ctr ≠ .dbgTrig ∧ b.ovf ≠ .dbgTrig ∧ b.evsel ≠ .dbgTrig ∧
      b.ctr ≠ .pmcCtl ∧ b.ovf ≠ .pmcCtl ∧ b.per ≤ 64 ∧ b.per % 2 = 0 := by
  unfold ctrBank at h
  split at h
  · cases h
    decide
  · cases h
    decide
  · cases h
    decide
  · cases h

/-! ### One addition (R367) -/

section
variable {s : State} {bank unit idx v : Nat} {b : CtrBank}

/-- A counter that passes its width sets its overflow bit; the trigger that this may be touches DBG_TRIG only. -/
theorem State.ctrAdd1_of_wrap (hover : 2 ^ 48 ≤ s.rawReg b.ctr (b.per * unit + idx) .steward + v) :
    OtherRegsKept ((s.setReg b.ctr (b.per * unit + idx) .steward
        ((s.rawReg b.ctr (b.per * unit + idx) .steward + v) % 2 ^ 48)).setField b.ovf unit .steward idx 1 1)
      (s.ctrAdd1 b unit idx v) := by
  unfold State.ctrAdd1
  dsimp only
  rw [if_neg (Nat.not_lt.2 hover)]
  exact .ite (.refl _) (.trigger ..)

/-- An addition touches the counter, the overflow bits of its unit and DBG_TRIG. -/
theorem State.rawReg_ctrAdd1_ne (s : State) {b : CtrBank} {unit idx v : Nat} {r : Reg} {j : Nat} {p : Port}
    (hctr : (⟨b.ctr, b.per * unit + idx, .steward⟩ : RegKey) ≠ ⟨r, j, p⟩) (hovf : b.ovf ≠ r) (htrig : r ≠ .dbgTrig) :
    (s.ctrAdd1 b unit idx v).rawReg r j p = s.rawReg r j p := by
  by_cases hover : 2 ^ 48 ≤ s.rawReg b.ctr (b.per * unit + idx) .steward + v
  · rw [(State.ctrAdd1_of_wrap hover).same r htrig, State.rawReg_setField_ne _ _ _ _ fun h => hovf (RegKey.mk.inj h).1,
      State.rawReg_setReg_ne _ _ hctr]
  · rw [State.ctrAdd1]
    simp only [Nat.not_le.1 hover, if_true]
    exact s.rawReg_setReg_ne _ hctr

theorem State.rawReg_ctrAdd1_same (hb : ctrBank bank = some b) : (s.ctrAdd1 b unit idx v).rawReg b.ctr (b.per * unit + idx) .steward =
    (s.rawReg b.ctr (b.per * unit + idx) .steward + v) % 2 ^ 48 := by
  obtain ⟨hco, -, -, hct, -⟩ := ctrBank_apart hb
  have hfit (n : Nat) : n % 2 ^ 48 % 2 ^ 64 = n % 2 ^ 48 :=
    Nat.mod_eq_of_lt (Nat.lt_trans (Nat.mod_lt _ (by decide)) (by decide))
  by_cases hover : 2 ^ 48 ≤ s.rawReg b.ctr (b.per * unit + idx) .steward + v
  · rw [(State.ctrAdd1_of_wrap hover).same _ hct, State.rawReg_setField_ne _ _ _ _ fun h => hco (RegKey.mk.inj h).1.symm,
      State.rawReg_setReg, hfit]
  · rw [State.ctrAdd1]
    simp only [Nat.not_le.1 hover, if_true]
    rw [State.rawReg_setReg, hfit]

/-- The overflow bits up to a counter's own after an addition that passes its width. -/
theorem State.ovf_ctrAdd1_of_wrap (hb : ctrBank bank = some b) (hidx : idx < b.per)
    (hover : 2 ^ 48 ≤ s.rawReg b.ctr (b.per * unit + idx) .steward + v) {j : Nat} (hj : j ≤ idx) :
    (s.ctrAdd1 b unit idx v).rfi b.ovf unit j 1 = 1 ↔ j = idx ∨ s.rfi b.ovf unit j 1 = 1 := by
  obtain ⟨hco, -, -, -, hot, -, -, -, hper, -⟩ := ctrBank_apart hb
  rw [State.rfi, (State.ctrAdd1_of_wrap hover).same _ hot]
  refine (State.rfi_setField_bit _ _ _ (by omega) hj).trans ?_
  rw [State.rfi, State.rawReg_setReg_ne _ _ fun h => hco (RegKey.mk.inj h).1]
  rfl

/-- An overflow bit below the counter of an addition stays. -/
theorem State.ovf_ctrAdd1_of_below (hb : ctrBank bank = some b) (hidx : idx < b.per) {j : Nat} (hj : j < idx)
    (hset : s.rfi b.ovf unit j 1 = 1) : (s.ctrAdd1 b unit idx v).rfi b.ovf unit j 1 = 1 := by
  obtain ⟨hco, -⟩ := ctrBank_apart hb
  by_cases hover : 2 ^ 48 ≤ s.rawReg b.ctr (b.per * unit + idx) .steward + v
  · exact (State.ovf_ctrAdd1_of_wrap hb hidx hover hj.le).2 (.inr hset)
  · rw [State.ctrAdd1]
    simp only [Nat.not_le.1 hover, if_true]
    rw [State.rfi, State.rawReg_setReg_ne _ _ fun h => hco (RegKey.mk.inj h).1]
    exact hset

/-- What decides whether a neighbour counts is no counter: an addition leaves it. -/
theorem State.ctrChained_ctrAdd1 (hb : ctrBank bank = some b) (j : Nat) :
    (s.ctrAdd1 b unit idx v).ctrChained b unit j = s.ctrChained b unit j := by
  obtain ⟨-, hce, hoe, -, -, het, -⟩ := ctrBank_apart hb
  simp only [State.ctrChained, State.rfi, s.rawReg_ctrAdd1_ne (fun h => hce (RegKey.mk.inj h).1) hoe het]

theorem State.ctrRuns_ctrAdd1 (hb : ctrBank bank = some b) (j : Nat) :
    (s.ctrAdd1 b unit idx v).ctrRuns bank b unit j = s.ctrRuns bank b unit j := by
  obtain ⟨-, hce, hoe, -, -, het, hcc, hoc, -⟩ := ctrBank_apart hb
  have hreported : Reported s (s.ctrAdd1 b unit idx v) := by
    unfold State.ctrAdd1
    dsimp only
    split
    · exact .setReg ..
    · split
      · exact (Reported.setReg s _ _ _ _).trans (.setField ..)
      · exact ((Reported.setReg s _ _ _ _).trans (.setField ..)).trans (.trigger ..)
  have hpair : (s.ctrAdd1 b unit idx v).pair (unit / 2) = s.pair (unit / 2) := by
    obtain ⟨a, c, r, q, m, n, h⟩ := hreported
    rw [h]
    rfl
  have hdark : (s.ctrAdd1 b unit idx v).ctrDark bank unit = s.ctrDark bank unit := by
    obtain ⟨a, c, r, q, m, n, h⟩ := hreported
    rw [h]
    rfl
  simp only [State.ctrRuns, State.rfi, State.rf, hpair, hdark, s.rawReg_ctrAdd1_ne (fun h => hce (RegKey.mk.inj h).1) hoe het,
    s.rawReg_ctrAdd1_ne (fun h => hcc (RegKey.mk.inj h).1) hoc (by decide : Reg.pmcCtl ≠ .dbgTrig)]

/-! ### An addition with its carry -/

/-- The neighbour of a counter that wraps adds one where it counts by CHAIN, and nothing else. -/
theorem State.ctrAdd_eq_or (s : State) (bank : Nat) (b : CtrBank) (unit idx v : Nat) :
    s.ctrAdd bank b unit idx v = s.ctrAdd1 b unit idx v ∨
      (idx % 2 = 0 ∧ s.ctrAdd bank b unit idx v = (s.ctrAdd1 b unit idx v).ctrAdd1 b unit (idx + 1) 1) := by
  unfold State.ctrAdd
  dsimp only
  split
  case isTrue h =>
    simp only [Bool.and_eq_true, beq_iff_eq] at h
    exact .inr ⟨h.1.1.2, rfl⟩
  case isFalse => exact .inl rfl

theorem counter_ne_next (b : CtrBank) (r : Reg) (unit idx : Nat) :
    (⟨r, b.per * unit + (idx + 1), .steward⟩ : RegKey) ≠ ⟨r, b.per * unit + idx, .steward⟩ := by
  intro h
  have hidx := (RegKey.mk.inj h).2.1
  omega

theorem State.ctrAdd_wraps (hb : ctrBank bank = some b) (hidx : idx < b.per)
    (hover : 2 ^ 48 ≤ s.rawReg b.ctr (b.per * unit + idx) .steward + v) :
    (s.ctrAdd bank b unit idx v).rawReg b.ctr (b.per * unit + idx) .steward =
        (s.rawReg b.ctr (b.per * unit + idx) .steward + v) % 2 ^ 48 ∧
      (s.ctrAdd bank b unit idx v).rfi b.ovf unit idx 1 = 1 := by
  obtain ⟨hco, -, -, hct, -, -, -, -, -, heven⟩ := ctrBank_apart hb
  have hbit := (State.ovf_ctrAdd1_of_wrap hb hidx hover (le_refl idx)).2 (.inl rfl)
  rcases s.ctrAdd_eq_or bank b unit idx v with h | ⟨hpar, h⟩
  · exact ⟨h ▸ State.rawReg_ctrAdd1_same hb, h ▸ hbit⟩
  · rw [h]
    refine ⟨?_, State.ovf_ctrAdd1_of_below hb (by omega) (Nat.lt_succ_self idx) hbit⟩
    rw [State.rawReg_ctrAdd1_ne _ (counter_ne_next b b.ctr unit idx) hco.symm hct, State.rawReg_ctrAdd1_same hb]

theorem State.ctrAdd_chains (hb : ctrBank bank = some b) (hpar : idx % 2 = 0)
    (hover : 2 ^ 48 ≤ s.rawReg b.ctr (b.per * unit + idx) .steward + v) (hchain : s.ctrChained b unit (idx + 1) = true)
    (hrun : s.ctrRuns bank b unit (idx + 1) = true) :
    (s.ctrAdd bank b unit idx v).rawReg b.ctr (b.per * unit + idx + 1) .steward =
      (s.rawReg b.ctr (b.per * unit + idx + 1) .steward + 1) % 2 ^ 48 := by
  obtain ⟨hco, -, -, hct, -⟩ := ctrBank_apart hb
  have hadd : s.ctrAdd bank b unit idx v = (s.ctrAdd1 b unit idx v).ctrAdd1 b unit (idx + 1) 1 := by
    refine if_pos ?_
    rw [State.ctrChained_ctrAdd1 hb, State.ctrRuns_ctrAdd1 hb, hchain, hrun, decide_eq_true hover, hpar]
    rfl
  rw [hadd, Nat.add_assoc, State.rawReg_ctrAdd1_same hb,
    s.rawReg_ctrAdd1_ne (counter_ne_next b b.ctr unit idx).symm hco.symm hct]

/-- A cycle's own event does not move a counter that counts by CHAIN. -/
theorem State.ctrTick_of_chained (hb : ctrBank bank = some b) {k : Nat} (hchain : s.ctrChained b (k / b.per) (k % b.per) = true) :
    (s.ctrTick bank k).regs = s.regs := by
  have hlevels (l : Table Nat) : ({ s with levels := l } : State).ctrChained b (k / b.per) (k % b.per) = true := hchain
  simp only [State.ctrTick, hb, hlevels]
  simp

end

/-! ### CHAIN at an even counter -/

theorem rwMask_pmcEvselGlobal (k : Nat) : rwMask .pmcEvselGlobal k = 0xFF07FFFFFF := by
  rw [rwMask, fieldsAt_eq_regFields (by decide) (by decide)]
  decide

/-- What a write of a device-wide counter's settings makes of the register. -/
def evselWritten (old v : Nat) : Nat := (old &&& (2 ^ 64 - 1 - 0xFF07FFFFFF)) ||| (v &&& (2 ^ 64 - 1) &&& 0xFF07FFFFFF)

theorem evselWritten_lt (old v : Nat) : evselWritten old v < 2 ^ 64 :=
  Nat.or_lt_two_pow (Nat.and_lt_two_pow _ (by decide)) (Nat.and_lt_two_pow _ (by decide))

/-- The fields up to the marker's are as written. -/
theorem bitsOf_evselWritten (old v : Nat) {lo n : Nat} (h : lo + n ≤ 27) : bitsOf (evselWritten old v) lo n = bitsOf v lo n := by
  have hmask : ∀ i < 27, Nat.testBit 0xFF07FFFFFF i = true ∧ Nat.testBit (2 ^ 64 - 1 - 0xFF07FFFFFF) i = false ∧
      Nat.testBit (2 ^ 64 - 1) i = true := by decide
  refine Nat.eq_of_testBit_eq fun j => ?_
  simp only [bitsOf, Nat.testBit_mod_two_pow, Nat.testBit_div_two_pow]
  by_cases hj : j < n
  · obtain ⟨hset, hclear, hall⟩ := hmask (j + lo) (by omega)
    simp only [evselWritten, Nat.testBit_or, Nat.testBit_and, hset, hclear, hall, Bool.and_false, Bool.and_true, Bool.false_or]
  · simp [hj]

/-- CHAIN named for an even device-wide counter is not set, is recorded, and the rest of the write is applied (R367). -/
theorem State.applyReg_chain_even (s : State) {k v : Nat} (off : Nat) (hk : k % 2 = 0) (hchain : bitsOf v 25 1 = 1)
    (hevent : 0x200 ≤ bitsOf v 0 10) (hmode : bitsOf v 10 2 ≠ 3) :
    ∃ t : State, s.applyReg .steward .pmcEvselGlobal k (2 ^ 64 - 1) v off = t.cfgError .steward off ∧
      t.rawReg .pmcEvselGlobal k .steward = evselWritten (s.rawReg .pmcEvselGlobal k .steward) v - 2 ^ 25 := by
  have hnamed : bitsOf (v &&& (2 ^ 64 - 1)) 25 1 = 1 := by
    rw [bitsOf_one_eq_one, Nat.testBit_and, bitsOf_one_eq_one.1 hchain]
    decide
  have hoff : chainOff .pmcEvselGlobal k (v &&& (2 ^ 64 - 1)) = true := by
    simp only [chainOff, hk, hnamed]
    decide
  have hwritten : (s.rawReg .pmcEvselGlobal k .steward &&& (2 ^ 64 - 1 - (rwMask .pmcEvselGlobal k &&& (2 ^ 64 - 1)))) |||
      (v &&& (2 ^ 64 - 1) &&& (rwMask .pmcEvselGlobal k &&& (2 ^ 64 - 1))) = evselWritten (s.rawReg .pmcEvselGlobal k .steward) v := by
    rw [rwMask_pmcEvselGlobal]
    rfl
  have hgood : s.fieldBad .pmcEvselGlobal (2 ^ 64 - 1) (evselWritten (s.rawReg .pmcEvselGlobal k .steward) v) = false := by
    have hten : bitsOf v 0 10 ≤ 0x3FF := by
      rw [bitsOf]
      omega
    simp [State.fieldBad, evselBad, inRange, bitsOf_evselWritten, hevent, hmode, hten]
  have hfits : evselWritten (s.rawReg .pmcEvselGlobal k .steward) v - 2 ^ 25 < 2 ^ 64 :=
    (Nat.sub_le ..).trans_lt (evselWritten_lt ..)
  refine ⟨if evselWritten (s.rawReg .pmcEvselGlobal k .steward) v - 2 ^ 25 = s.rawReg .pmcEvselGlobal k .steward then s
    else s.setReg .pmcEvselGlobal k .steward (evselWritten (s.rawReg .pmcEvselGlobal k .steward) v - 2 ^ 25), ?_, ?_⟩
  · unfold State.applyReg
    simp only [show copyOf .pmcEvselGlobal .steward = .steward from rfl, hwritten, hgood, hoff]
    simp [State.stateBad, State.writeEffect]
  · split
    case isTrue h => exact h.symm
    case isFalse => rw [State.rawReg_setReg, Nat.mod_eq_of_lt hfits]

/-- Settles O52: an addition that passes the width, its carry, a cycle, and the write of CHAIN at an even counter. -/
theorem countersWrapAndChain : Obligations.CountersWrapAndChain := by
  refine ⟨fun s bank unit idx v b hb _ hidx hover => State.ctrAdd_wraps hb hidx hover,
    fun s bank unit idx v b hb _ _ hpar hover hchain hrun _ => State.ctrAdd_chains hb hpar hover hchain hrun,
    fun s bank k b hb hchain => State.rawReg_congr (State.ctrTick_of_chained hb hchain) _ _ _,
    fun s k v off _ hk hchain hevent hmode => ?_⟩
  obtain ⟨t, ht, hraw⟩ := s.applyReg_chain_even off hk hchain hevent hmode
  have hset := (bitsOf_evselWritten (s.rawReg .pmcEvselGlobal k .steward) v (lo := 25) (n := 1) (by decide)).trans hchain
  have hlow := bitsOf_evselWritten (s.rawReg .pmcEvselGlobal k .steward) v (lo := 0) (n := 25) (by decide)
  have hread (lo n : Nat) : (t.cfgError .steward off).rfi .pmcEvselGlobal k lo n =
      bitsOf (evselWritten (s.rawReg .pmcEvselGlobal k .steward) v - 2 ^ 25) lo n := congrArg (fun w => bitsOf w lo n) hraw
  rw [ht]
  refine ⟨(hread 25 1).trans ?_, (hread 0 25).trans (Eq.trans ?_ hlow), rfl⟩
  · rw [bitsOf] at hset ⊢
    omega
  · rw [bitsOf] at hset
    rw [bitsOf, bitsOf]
    omega

end Sys2Proof.Machine
end

section
/-! The cadence unit under the abort of transactions, and the accepted edge of a locked unit (O32). -/

namespace Sys2Proof.Machine

/-! ### Aborting a transaction leaves power, cadence and start-up (R217) -/

/-- What the end of transactions and of contexts leaves alone: power, cadence unit, start-up and PWROK. -/
def State.standing (s : State) : Power × Cad × Boot × Bool := (s.power, s.cad, s.boot, s.pwrok)

/-- Steps that keep a part of the state keep it one after another. -/
theorem State.foldl_same {α β : Type} (g : State → α) {f : State → β → State} (hf : ∀ u b, g (f u b) = g u) (l : List β)
    (s : State) :
    g (l.foldl f s) = g s :=
  List.foldlRecOn (motive := fun t => g t = g s) _ _ rfl fun u h b _ => (hf u b).trans h

theorem ReportedCtx.standing {s t : State} (h : ReportedCtx s t) : t.standing = s.standing := by
  obtain ⟨u, x, ⟨a, b, r, q, m, n, rfl⟩, rfl⟩ := h
  rfl

theorem State.standing_complete (s : State) (c : Nat) (d : Desc) (st det : Nat) (res : Word) :
    (s.complete c d st det res).standing = s.standing :=
  (ReportedCtx.writeCompletion s c d _ st det res).standing

theorem State.standing_completeSeq (s : State) (c : Nat) (seq : Word) (st det : Nat) (res : Word) :
    (s.completeSeq c seq st det res).standing = s.standing := by
  unfold State.completeSeq
  split
  · exact s.standing_complete ..
  · rfl

theorem State.standing_recipesSettle (s : State) (c : Nat) : (s.recipesSettle c).standing = s.standing :=
  State.foldl_same State.standing (fun u _ => u.standing_completeSeq ..) _ _

theorem State.standing_dropDeferred (s : State) (t : Txn) : (s.dropDeferred t).standing = s.standing := by
  refine State.foldl_same State.standing (fun u q => ?_) _ _
  split
  · exact State.foldl_same State.standing (fun _ _ => by rfl) _ _
  · rfl

theorem State.standing_dropShadows (s : State) (t : Txn) : (s.dropShadows t).standing = s.standing :=
  State.foldl_same State.standing (fun _ _ => by rfl) _ _

theorem State.standing_dropGran (s : State) (t : Txn) : (s.dropGran t).standing = s.standing := by
  unfold State.dropGran
  split
  · rfl
  split
  · rfl
  dsimp only
  split
  · split
    · exact State.standing_recipesSettle ..
    · rfl
  · rfl

theorem State.standing_voteAbort (s : State) (t : Txn) : (s.voteAbort t).standing = s.standing := by
  unfold State.voteAbort
  split <;> rfl

theorem State.standing_pulse (s : State) (e u v c : Nat) (m : Word) : (s.pulse e u v c m).standing = s.standing :=
  (ReportedCtx.of (.pulse s e u v c m)).standing

theorem State.standing_shareSettle (s : State) : s.shareSettle.standing = s.standing := by
  unfold State.shareSettle
  split
  · split
    · exact State.foldl_same State.standing (fun _ _ => by rfl) _ { s with shadowDue := none, free := s.free + 1 }
    · rfl
  · rfl

theorem State.standing_abortTxn (s : State) (c tag detail : Nat) (keep : Option Word) :
    (s.abortTxn c tag detail keep).standing = s.standing := by
  unfold State.abortTxn
  split
  · rfl
  split
  · rfl
  extract_lets s1 s2 _ s3 s4 dead s5 s6 s7
  have h1 : s1.standing = s.standing :=
    (State.standing_dropDeferred ..).trans ((State.standing_dropShadows ..).trans (s.standing_voteAbort _))
  have h2 : s2.standing = s.standing := by
    unfold s2
    split
    · exact (State.standing_dropGran ..).trans h1
    · exact h1
  have h4 : s4.standing = s.standing := (State.standing_pulse ..).trans h2
  have h6 : s6.standing = s.standing := (State.foldl_same State.standing (fun u _ => u.standing_completeSeq ..) _ _).trans h4
  have h7 : s7.standing = s.standing := by
    unfold s7
    split
    · exact (State.standing_completeSeq ..).trans h6
    · exact h6
  exact (State.standing_shareSettle _).trans h7

theorem State.cad_skipFrames (s : State) (old : Nat) : (s.skipFrames old).cad = s.cad :=
  State.foldl_same State.cad (fun u _ => congrArg (·.2.1) (u.standing_abortTxn ..)) _ _

/-! ### The edge -/

/-- A boundary with the source as set and no anchor that applies: the next frame (R354). -/
theorem State.cad_frameBoundary {s : State} {t : Nat} {resync : Bool} (hsource : s.cad.source = (s.rf .cadCfg 0 1 == 1))
    (hanchor : s.anchorApplies resync = false) : (s.frameBoundary t resync).cad =
      { s.cad with frame := s.cad.frame + 1, anchored := s.cad.anchored || false, boundary := t, latched := s.cad.period,
                   holdFrames := if s.cad.mode = .holdover then s.cad.holdFrames + 1 else s.cad.holdFrames,
                   outUntil := t + 8 * cyclesPerUs * s.rf .cadCfg 8 8 } := by
  have htake : s.takeSource = s := if_pos (by simp [hsource])
  simp only [State.frameBoundary, htake, hanchor, State.cad_skipFrames]
  rfl

/-- The unit with an accepted edge's error and interval, before the boundary. -/
def State.edgeTaken (s : State) (t l : Nat) : State :=
  (s.edgeError ((t : Int) - (l + 8 * s.cad.period : Nat))).setCad fun c =>
    { c with period := ((c.period : Int) + (((t - l) / 8 : Nat) - (c.period : Int)) / 8).toNat, lastEdge := some t,
             interval := some ((t - l) / 8) }

/-- An edge within the window is accepted (R353). -/
theorem State.lockedEdge_of_inWindow {s : State} {t l : Nat} (hlast : s.cad.lastEdge = some l)
    (hearly : l + 8 * s.cad.period ≤ t + 8 * s.cadWindow) (hlate : t / 8 ≤ (l + 8 * s.cad.period + 8 * s.cadWindow) / 8) :
    s.lockedEdge t = (s.edgeTaken t l).frameBoundary t false := by
  unfold State.lockedEdge
  rw [hlast]
  exact if_neg (by omega)

/-- Settles O32: the edge within the window is the boundary, which no anchor moves. -/
theorem lockedEdgeMovesThePeriod : Obligations.LockedEdgeMovesThePeriod := by
  intro s t l hlast hearly hlate hanchor hsource
  have hcad := State.cad_frameBoundary (s := s.edgeTaken t l) (t := t) hsource hanchor
  rw [State.lockedEdge_of_inWindow hlast hearly hlate, hcad]
  exact ⟨rfl, rfl, rfl, rfl, rfl⟩

end Sys2Proof.Machine
end

section
/-! Markers, signals and waits, and what acceptance leaves (O3, O49). -/

namespace Sys2Proof.Machine

theorem State.ctx?_congr {s t : State} (h : t.ctxs = s.ctxs) (c : Nat) : t.ctx? c = s.ctx? c := by
  rw [State.ctx?, h, State.ctx?]

/-! ### What records touch: reports without host memory -/

/-- Two states that differ at most in the ports, trigger registers and the counters' pulses: what records and ATTN touch. -/
def Traced (s t : State) : Prop := ∃ a b r q, t = { s with steward := a, tenant := b, regs := r, pulses := q }

namespace Traced

theorem refl (s : State) : Traced s s := ⟨s.steward, s.tenant, s.regs, s.pulses, rfl⟩

theorem trans {s t u : State} (h : Traced s t) (g : Traced t u) : Traced s u := by
  obtain ⟨a, b, r, q, rfl⟩ := h
  obtain ⟨a', b', r', q', rfl⟩ := g
  exact ⟨a', b', r', q', rfl⟩

theorem ite {s t u : State} {p : Prop} [Decidable p] (ht : Traced s t) (hu : Traced s u) : Traced s (if p then t else u) := by
  split
  · exact ht
  · exact hu

theorem setPort (s : State) (p : Port) (x : PortState) : Traced s (s.setPort p x) := by
  cases p with
  | steward => exact ⟨x, s.tenant, s.regs, s.pulses, rfl⟩
  | tenant => exact ⟨s.steward, x, s.regs, s.pulses, rfl⟩

theorem modPort (s : State) (p : Port) (f : PortState → PortState) : Traced s (s.modPort p f) := setPort s p _

theorem setField (s : State) (r : Reg) (i : Nat) (p : Port) (lo n v : Nat) : Traced s (s.setField r i p lo n v) :=
  ⟨s.steward, s.tenant, _, s.pulses, rfl⟩

theorem pulse (s : State) (e u v c : Nat) (m : Word) : Traced s (s.pulse e u v c m) :=
  ite (refl s) ⟨s.steward, s.tenant, s.regs, _, rfl⟩

theorem sluiceEnqueue (s : State) (p : Port) (r : List Word) : Traced s (s.sluiceEnqueue p r) :=
  ite (setPort ..) ((setPort ..).trans (pulse ..))

theorem sluiceTo (s : State) (p : Port) (k c src : Nat) (m : Word) (pl : List Word) : Traced s (s.sluiceTo p k c src m pl) :=
  ite (sluiceEnqueue ..) (refl s)

theorem sluice (s : State) (k c src : Nat) (m : Word) (pl : List Word) : Traced s (s.sluice k c src m pl) :=
  (sluiceTo s .steward k c src m pl).trans (sluiceTo _ .tenant k c src m pl)

theorem trigger (s : State) (p : Port) (bit : Nat) : Traced s (s.trigger p bit) := by
  have hfired : Traced s ((s.setField .dbgTrig 0 p 0 1 0).modPort p fun x => { x with triggered := true }) :=
    (setField ..).trans (modPort ..)
  have hrecord (r : List Word) := hfired.trans (sluiceEnqueue _ p r)
  simp only [State.trigger]
  exact ite (refl s) (ite (sluiceEnqueue ..) (ite (ite (ite ((hrecord _).trans (modPort ..)) (hrecord _)) hfired) (refl s)))

theorem updateAttn (s : State) (p : Port) : Traced s (s.updateAttn p) := setPort s p _

theorem hostMem {s t : State} (h : Traced s t) (p : Port) : t.hostMem p = s.hostMem p := by
  obtain ⟨a, b, r, q, rfl⟩ := h
  cases p <;> rfl

theorem hbm {s t : State} (h : Traced s t) : t.hbm = s.hbm := by
  obtain ⟨a, b, r, q, rfl⟩ := h
  rfl

theorem ctxs {s t : State} (h : Traced s t) : t.ctxs = s.ctxs := by
  obtain ⟨a, b, r, q, rfl⟩ := h
  rfl

end Traced

/-! ### What acceptance leaves -/

/-- A context as an accepted descriptor leaves it (R293, R294, R296). -/
def Ctx.withAccepted (x : Ctx) (s : State) (c : Nat) (d : Desc) : Ctx :=
  { x with ring := { x.ring with expect := some (d.seq + 1) }, lastSeq := d.seq, lastStatus := none,
           opens := x.opens ++ [{ desc := d, marker := (s.seqTaken c d).markerFor c d }],
           activeUntil := s.now + 1000 * cyclesPerUs, active := true }

/-- Acceptance is a change of its context, traced, and of a member's transaction. -/
theorem State.accepted_traced (s : State) (c : Nat) (d : Desc) :
    ∃ v y, Traced (((s.seqTaken c d).noteLast c d).modCtx c fun x => { x with
        opens := x.opens ++ [{ desc := d, marker := (s.seqTaken c d).markerFor c d }],
        activeUntil := s.now + 1000 * cyclesPerUs, active := true }) v ∧ s.accepted c d = { v with txns := y } := by
  have htraced := (Traced.pulse (((s.seqTaken c d).noteLast c d).modCtx c fun x => { x with
      opens := x.opens ++ [{ desc := d, marker := (s.seqTaken c d).markerFor c d }],
      activeUntil := s.now + 1000 * cyclesPerUs, active := true }) 0x245 0 1 c ((s.seqTaken c d).markerFor c d)).trans
    (.sluice _ 2 c 0x200 ((s.seqTaken c d).markerFor c d) [d.seq, BitVec.ofNat 32 (d.opcode + 256 * d.f 0 8 8)])
  unfold State.accepted State.accept
  dsimp only
  split
  · split
    · exact ⟨_, _, htraced, rfl⟩
    · exact ⟨_, _, htraced, rfl⟩
  · exact ⟨_, _, htraced, rfl⟩

theorem State.hostMem_accepted (s : State) (c : Nat) (d : Desc) (p : Port) : (s.accepted c d).hostMem p = s.hostMem p := by
  obtain ⟨v, y, hv, h⟩ := s.accepted_traced c d
  rw [h]
  exact (hv.hostMem p)

/-- The contexts after an acceptance. -/
theorem State.ctx?_accepted (s : State) (c : Nat) (d : Desc) (n : Nat) :
    (s.accepted c d).ctx? n = if c = n then (s.ctx? n).map fun x => x.withAccepted s c d else s.ctx? n := by
  have hctxs : (s.accepted c d).ctxs = (((s.seqTaken c d).noteLast c d).modCtx c fun x => { x with
      opens := x.opens ++ [{ desc := d, marker := (s.seqTaken c d).markerFor c d }],
      activeUntil := s.now + 1000 * cyclesPerUs, active := true }).ctxs := by
    obtain ⟨v, y, hv, h⟩ := s.accepted_traced c d
    rw [h]
    exact hv.ctxs
  rw [State.ctx?_congr hctxs, State.ctx?_modCtx, State.noteLast, State.ctx?_modCtx, State.seqTaken, State.ctx?_modCtx]
  split
  · simp only [Option.map_map]
    rfl
  · rfl

/-- Settles O49, by the context that acceptance leaves. -/
theorem acceptanceOpensTheDescriptor : Obligations.AcceptanceOpensTheDescriptor := by
  intro s c d x hx
  obtain ⟨-, -, harrays, -, hhbm, -, -, hobjects, -⟩ := accepted_same s c d
  have hctx : (s.accepted c d).ctx? c = some (x.withAccepted s c d) := by
    rw [State.ctx?_accepted, if_pos rfl, hx, Option.map_some]
  exact ⟨x.withAccepted s c d, (s.seqTaken c d).markerFor c d, hctx, rfl, rfl, rfl, rfl, rfl,
    fun n hn => (s.ctx?_accepted c d n).trans (if_neg hn.symm), hhbm, s.hostMem_accepted c d .steward, s.hostMem_accepted c d .tenant,
    harrays, hobjects⟩

/-! ### Markers, signals and waits (R306) -/

theorem State.stamp_accepted (s : State) (c : Nat) (d : Desc) : (s.accepted c d).stamp = s.stamp := by
  obtain ⟨-, hnow, -, -, -, -, -, -, -, -, -, -, hcad, -⟩ := accepted_same s c d
  simp only [State.stamp, State.phase, hcad, hnow]

/-- Acceptance leaves what its marks of a context do not touch. -/
theorem State.ctxD_accepted {α : Type} {f : Ctx → α} (s : State) (c : Nat) (d : Desc)
    (hf : ∀ x : Ctx, f (x.withAccepted s c d) = f x) :
    f ((s.accepted c d).ctxD c) = f (s.ctxD c) := by
  have hget := s.ctx?_accepted c d c
  rw [if_pos rfl] at hget
  have hD (u : State) : f (u.ctxD c) = ((u.ctx? c).map f).getD (f {}) := by
    rw [State.ctxD, tgetD, State.ctx?]
    cases tget u.ctxs c <;> rfl
  rw [hD, hD, hget, Option.map_map]
  exact congrArg (fun g => (Option.map g (s.ctx? c)).getD (f {})) (funext hf)

theorem State.tokens_accepted (s : State) (c : Nat) (d : Desc) : ((s.accepted c d).ctxD c).tokens = (s.ctxD c).tokens :=
  s.ctxD_accepted c d fun _ => rfl

/-- Settles O3: each row is taken up as its start, and acceptance moves neither the frame nor the tokens. -/
theorem markersSignalsAndWaits : Obligations.MarkersSignalsAndWaits := by
  refine ⟨fun s c d h => descRow_admits h, fun s c d h => descRow_admits h, fun s c d h => descRow_admits h,
    fun s c d h => (descRow_admits h).trans (congrArg _ ?_), fun s c d h => (descRow_admits h).trans (congrArg _ ?_),
    fun s c d h => descRow_admits h⟩
  · simp only [State.startOf, State.startWaitFrame, s.stamp_accepted]
  · simp only [State.startOf, State.startWaitToken, s.tokens_accepted]

end Sys2Proof.Machine
end

section
/-! The completion entry (O51). -/

namespace Sys2Proof.Machine

/-! ### Little-endian words -/

@[simp] theorem length_leBytes (n v : Nat) : (leBytes n v).length = n := by
  induction n generalizing v with
  | zero => rfl
  | succ n ih => simp [leBytes, ih]

theorem leNat_leBytes (n v : Nat) : leNat (leBytes n v) = v % 256 ^ n := by
  induction n generalizing v with
  | zero => simp [leBytes, leNat, Nat.mod_one]
  | succ n ih =>
    have hsplit : v % 256 ^ (n + 1) = v % 256 + 256 * (v / 256 % 256 ^ n) := by rw [Nat.pow_succ' (n := n), Nat.mod_mul]
    rw [leBytes, leNat, ih, BitVec.toNat_ofNat, hsplit]

/-- A part of what was written reads as that part. -/
theorem memBytes_memPut_part {m : Memory} (a : Nat) (bs cs ds : List Byte) (h : m.wf = true) :
    memBytes (memPut m a (bs ++ cs ++ ds)) (a + bs.length) cs.length = cs := by
  refine List.ext_getElem (by simp [memBytes]) fun i h1 h2 => ?_
  have hi : i < cs.length := h2
  simp only [memBytes, List.getElem_map, List.getElem_range]
  rw [memRead_memPut _ _ _ h, if_pos (by simp; omega), Nat.add_assoc, Nat.add_sub_cancel_left, List.append_assoc,
    List.getD_eq_getElem?_getD, List.getElem?_append_right (by omega), Nat.add_sub_cancel_left, List.getElem?_append_left hi]
  simp [hi]

/-! ### The entry -/

/-- The bytes of a completion entry (R310). -/
def completionBytes (s : State) (x : Ctx) (d : Desc) (status detail : Nat) (result : Word) : List Byte :=
  leBytes 4 d.seq.toNat ++
    leBytes 4 (BitVec.ofNat 32 (status + 256 * detail + if (cqPlace x.ring x.ring.cqWrite).2 then 2 ^ 31 else 0)).toNat ++
    leBytes 4 s.stamp32.toNat ++ leBytes 4 result.toNat

/-- A completion without NOTIFY in a bound ring of an open port writes its entry and traces it. -/
theorem State.writeCompletion_of_bound {s : State} {c : Nat} {d : Desc} {x : Ctx} (hx : s.ctx? c = some x) (hbound : x.ring.bound = true)
    (hopen : s.portOpen x.port = true) (hnotify : d.notify = false) (marker result : Word) (status detail : Nat) :
    ∃ y, Traced { s.setHost x.port (memPut (s.hostMem x.port) (cqPlace x.ring x.ring.cqWrite).1
      (completionBytes s x d status detail result)) with ctxs := y } (s.writeCompletion c d marker status detail result) := by
  have hentry : ([d.seq, BitVec.ofNat 32 (status + 256 * detail + if (cqPlace x.ring x.ring.cqWrite).2 then 2 ^ 31 else 0),
      s.stamp32, result].flatMap fun w => leBytes 4 w.toNat) = completionBytes s x d status detail result := by
    simp [completionBytes]
  have hwrite (a : Nat) (bs : List Byte) : s.ctxWrite c x.port a bs = s.setHost x.port (memPut (s.hostMem x.port) a bs) := by
    rw [State.ctxWrite, if_pos hopen, State.hostWrite, if_pos hopen]
  unfold State.writeCompletion
  simp only [hx, hbound, hnotify, hentry, hwrite, Bool.false_and, if_true, Bool.false_eq_true, if_false]
  have htraced (u : State) (m : Word) (pl : List Word) : Traced u (if stOk status then (u.updateAttn x.port).sluice 3 c 0x200 m pl
      else ((u.updateAttn x.port).sluice 3 c 0x200 m pl).trigger x.port 4) :=
    .ite ((Traced.updateAttn ..).trans (.sluice ..)) (((Traced.updateAttn ..).trans (.sluice ..)).trans (.trigger ..))
  exact ⟨_, htraced _ _ _⟩

theorem State.hostMem_withCtxs (s : State) (y : Table Ctx) (p : Port) : ({ s with ctxs := y } : State).hostMem p = s.hostMem p := by
  cases p <;> rfl

theorem leNat_leBytes_word (w : Word) : leNat (leBytes 4 w.toNat) = w.toNat := by
  rw [leNat_leBytes]
  exact Nat.mod_eq_of_lt w.isLt

/-- Settles O51: the entry's four words at its place, and the bytes around it as before. -/
theorem completionEntryIsWritten : Obligations.CompletionEntryIsWritten := by
  intro s t c d marker result status detail a x hx hbound hopen hnotify hwf hstatus hdetail ht ha
  obtain ⟨y, htraced⟩ := State.writeCompletion_of_bound hx hbound hopen hnotify marker result status detail
  have hplace : (cqPlace x.ring x.ring.cqWrite).1 = a := ha.symm
  have hmem : t.hostMem x.port = memPut (s.hostMem x.port) a (completionBytes s x d status detail result) := by
    rw [ht, htraced.hostMem, State.hostMem_withCtxs, State.hostMem_setHost, hplace]
  have hpart (bs cs ds : List Byte) (h : completionBytes s x d status detail result = bs ++ cs ++ ds) :
      memBytes (t.hostMem x.port) (a + bs.length) cs.length = cs := by
    rw [hmem, h]
    exact memBytes_memPut_part a bs cs ds hwf
  have hseq := hpart [] (leBytes 4 d.seq.toNat) _ (by simp only [completionBytes, List.nil_append, List.append_assoc]; rfl)
  have hword := hpart (leBytes 4 d.seq.toNat) (leBytes 4 _) _ (by simp only [completionBytes, List.append_assoc]; rfl)
  have hstamp := hpart (leBytes 4 d.seq.toNat ++ leBytes 4 _) (leBytes 4 s.stamp32.toNat) _ rfl
  have hresult := hpart (leBytes 4 d.seq.toNat ++ leBytes 4 _ ++ leBytes 4 s.stamp32.toNat) (leBytes 4 result.toNat) []
    (by simp only [completionBytes, List.append_nil]; rfl)
  simp only [List.length_append, length_leBytes, List.length_nil, Nat.add_zero] at hseq hword hstamp hresult
  refine ⟨by rw [hseq, leNat_leBytes_word], ?_, ?_, ?_, fun b hb => ?_, ?_⟩
  · have hphase : (cqPlace x.ring x.ring.cqWrite).2 = decide (x.ring.cqWrite / 2 ^ x.ring.cqLog2 % 2 = 0) := rfl
    rw [hword, leNat_leBytes_word, BitVec.toNat_ofNat, hphase]
    simp only [decide_eq_true_eq]
    split <;> omega
  · rw [hstamp, leNat_leBytes_word, State.stamp32, BitVec.toNat_ofNat]
  · rw [hresult, leNat_leBytes_word]
  · have hlength : (completionBytes s x d status detail result).length = 16 := by simp [completionBytes]
    rw [hmem, memRead_memPut _ _ _ hwf, if_neg (by omega)]
  · rw [ht, htraced.hbm]
    exact State.setHost_hbm ..

end Sys2Proof.Machine
end

section
/-! Links, polls and poll intervals of the ports (O30). -/

namespace Sys2Proof.Machine

theorem linkForm_iff {speed width : Nat} : linkForm speed width = true ↔ 1 ≤ speed ∧ speed ≤ 6 ∧ width ∈ [1, 2, 4, 8, 16] := by
  simp [linkForm, and_assoc]

/-- A port trains to a rate and width of PCIe where it can (R289). -/
theorem execLinkUp_iff (s : State) (p : Port) (speed width : Nat) :
    (s.canTrain p = true → 1 ≤ speed → speed ≤ 6 → width ∈ [1, 2, 4, 8, 16] → exec (.linkUp p speed width) s =
      .next ((s.modPort p fun x => { x with linkUp := true, speed := speed, width := width }).flushWait p)) ∧
    ((s.canTrain p = false ∨ speed = 0 ∨ 6 < speed ∨ width ∉ [1, 2, 4, 8, 16]) → exec (.linkUp p speed width) s = .next s) := by
  refine ⟨fun htrain hone hsix hwidth => if_pos ?_, fun hnot => if_neg ?_⟩
  · rw [htrain, linkForm_iff.2 ⟨hone, hsix, hwidth⟩]
    rfl
  · rw [Bool.and_eq_true, linkForm_iff]
    rintro ⟨htrain, hone, hsix, hwidth⟩
    rcases hnot with h | h | h | h
    · rw [h] at htrain
      contradiction
    · omega
    · omega
    · exact h hwidth

/-- A poll of entry 256, and one that changes nothing (R292, R299). -/
theorem execDoorbellPoll_events (s : State) (p : Port) {n : Nat} (hn : n ≤ 256) :
    (s.polling p = true → n = 256 → exec (.doorbellPoll p n) s = .next (s.pollEvents p)) ∧
    ((s.polling p = false ∨ n ≠ 256 ∧ (s.ctxOnPort n p = false ∨ (s.ctxD n).ring.bound = false)) →
      exec (.doorbellPoll p n) s = .next s) := by
  have hrow : exec (.doorbellPoll p n) s = _ := if_neg (Nat.not_lt.2 hn)
  rw [hrow]
  refine ⟨fun hpoll hevents => ?_, fun hnot => ?_⟩
  · rw [if_neg (by simp [hpoll]), if_pos hevents]
  · rcases hnot with h | ⟨hctx, h⟩
    · rw [if_pos (by simp [h])]
    · have hpass : (s.ctxOnPort n p && (s.ctxD n).ring.bound) = false := by rcases h with h | h <;> simp [h]
      rw [if_neg hctx, hpass]
      exact ite_self _

/-- A poll of a bound context of the port reads CQ_HEAD and SQ_TAIL (R292, R296). -/
theorem execDoorbellPoll_ctx {s : State} {p : Port} {c a : Nat} (hc : c < 256) (hpoll : s.polling p = true)
    (hport : s.ctxOnPort c p = true) (hbound : (s.ctxD c).ring.bound = true) (haddr : s.doorbellAddr p c = some a) :
    exec (.doorbellPoll p c) s = .next (((s.pulse 0x244 0 1 c 0).takeHead p c
      (leNat ((s.pulse 0x244 0 1 c 0).hostRead p (a + 4) 4))).takeTail p c (leNat ((s.pulse 0x244 0 1 c 0).hostRead p a 4))) := by
  have hread : s.pollCtx p c = ((s.pulse 0x244 0 1 c 0).takeHead p c
      (leNat ((s.pulse 0x244 0 1 c 0).hostRead p (a + 4) 4))).takeTail p c (leNat ((s.pulse 0x244 0 1 c 0).hostRead p a 4)) := by
    simp only [State.pollCtx, haddr]
  have hrow : exec (.doorbellPoll p c) s = _ := if_neg (by omega)
  rw [hrow, if_neg (by simp [hpoll]), if_neg (by omega), if_pos (by simp [hport, hbound]), hread]

/-- The interval after 1,024 polls in AUTO, and its record (R297). -/
theorem execPollIntervalAdjust_auto {s : State} {c : Nat} {x : Ctx} (hx : s.ctx? c = some x) (hauto : s.rf .hifPollCfg 0 1 = 0)
    (hpolls : 1024 ≤ x.polls) : exec (.pollIntervalAdjust c) s = .next (
      if s.nextInterval x = x.interval then s.modCtx c fun y => { y with polls := 0, moved := 0, interval := s.nextInterval x }
      else (s.modCtx c fun y => { y with polls := 0, moved := 0, interval := s.nextInterval x }).devEvent 0x0004 1
        [BitVec.ofNat 32 c, BitVec.ofNat 32 (10 * x.interval / 64), BitVec.ofNat 32 (10 * s.nextInterval x / 64)]) := by
  have hgo : ¬(s.rf .hifPollCfg 0 1 = 1 ∨ x.polls < 1024) := by omega
  simp only [exec, execPollIntervalAdjust, hx, if_neg hgo, pollNs]

/-- Settles O30, by the rows of the ports. -/
theorem portsAndPolls : Obligations.PortsAndPolls := by
  refine ⟨fun _ _ => rfl, execLinkUp_iff, fun _ _ _ => rfl, fun s p n hn => execDoorbellPoll_events s p hn,
    fun s k p c a hc hpoll hport hbound haddr hk => hk ▸ execDoorbellPoll_ctx hc hpoll hport hbound haddr, fun _ _ => rfl,
    fun s k c v x hx hauto hpolls hv hk => ?_, fun s c x hx hopens hheld hidle => ?_⟩
  · have hnext : s.nextInterval x = v := hv.symm
    rw [execPollIntervalAdjust_auto hx hauto hpolls, hnext, hk]
  · simp [exec, execActiveExpiry, hx, hopens, hheld, hidle]

end Sys2Proof.Machine
end

section
/-! Movement of data (O4). -/

namespace Sys2Proof.Machine

/-! ### Weirs and writes on the way -/

section
variable {s k : State} {c : Nat} {d : Desc} {src dst l : Loc} {ranges : List (Nat × Nat)} {go : State → State}

/-- A movement whose weirs are open goes on. -/
theorem State.pastWeirs_open (h : s.weirsOpen c src dst = true) : s.pastWeirs c d (moveWeirs src dst) go = go s := if_pos h

/-- A movement that meets a shut weir waits for it. -/
theorem State.pastWeirs_shut (h : s.weirsOpen c src dst = false) : s.pastWeirs c d (moveWeirs src dst) go = s.setWait c d .weir :=
  if_neg (Bool.eq_false_iff.1 h)

/-- Writes that are prepared go on from what they were prepared to. -/
theorem State.withWrites_prepared (h : s.prepares c d l ranges k) : s.withWrites c d l ranges go = go k := by
  cases l with
  | region r off =>
    unfold State.withWrites
    cases hm : d.inTxn with
    | true =>
      have hgo : s.memberWrites c d r ranges = .go k := by simpa [State.prepares, hm] using h
      simp [hgo, WriteResult.run]
    | false =>
      have hsame : k = s := by simpa [State.prepares, hm] using h
      simp [hsame]
  | host a => exact congrArg go (Eq.symm h)
  | slice n off => exact congrArg go (Eq.symm h)

end

/-! ### COPY, GATHER and SCATTER (R303) -/

section
variable {s k : State} {c : Nat} {d : Desc}

theorem State.startCopy_shut (hn : d.w64 8 ≠ 0) (h : s.weirsOpen c (dSrc d) (dDst d) = false) :
    s.startCopy c d = s.setWait c d .weir :=
  (if_neg hn).trans (State.pastWeirs_shut h)

theorem State.startCopy_plain (hn : d.w64 8 ≠ 0) (h : s.weirsOpen c (dSrc d) (dDst d) = true) (ho : s.restoreTarget c d = none)
    (hk : s.prepares c d (dDst d) [((dDst d).offset, d.w64 8)] k) : s.startCopy c d =
      (((k.chargeMove c (dSrc d) (dDst d) (d.w64 8)).putAt c d (dDst d) ((k.chargeMove c (dSrc d) (dDst d) (d.w64 8)).locBytes c
        ((k.chargeMove c (dSrc d) (dDst d) (d.w64 8)).txnOf c d) (dSrc d) (d.w64 8))).finish c d stDone 0 0) := by
  refine (if_neg hn).trans ((State.pastWeirs_open h).trans ?_)
  dsimp only
  rw [ho]
  exact State.withWrites_prepared hk

theorem State.startCopy_restore {o : Obj} (hn : d.w64 8 ≠ 0) (h : s.weirsOpen c (dSrc d) (dDst d) = true)
    (ho : s.restoreTarget c d = some o) : s.startCopy c d = s.restoreRecord c d o := by
  refine (if_neg hn).trans ((State.pastWeirs_open h).trans ?_)
  dsimp only
  rw [ho]

theorem State.startGather_inside (hn : d.w 11 ≠ 0) (hin : s.rowsInside c d (s.indexList c d) = true) : s.startGather c d =
    s.pastWeirs c d (moveWeirs (dSrc d) (dDst d)) fun s' => s'.withWrites c d (dDst d) [((dDst d).offset, d.w 11 * d.w 12)] fun u =>
      ((u.chargeMove c (dSrc d) (dDst d) (d.w 11 * d.w 12)).moveRows c d (fun _ i => (dSrc d).plus (i * d.w 12))
        (fun n _ => (dDst d).plus (n * d.w 12)) (s.indexList c d)).finish c d stDone 0 0 :=
  (if_neg hn).trans (if_neg (by simp [hin]))

theorem State.startScatter_inside (hn : d.w 11 ≠ 0) (hin : s.rowsInside c d (s.indexList c d) = true) : s.startScatter c d =
    s.pastWeirs c d (moveWeirs (dDst d) (dSrc d)) fun s' => s'.withWrites c d (dSrc d)
      ((s.indexList c d).map fun i => ((dSrc d).offset + i * d.w 12, d.w 12)) fun u =>
      ((u.chargeMove c (dDst d) (dSrc d) (d.w 11 * d.w 12)).moveRows c d (fun n _ => (dDst d).plus (n * d.w 12))
        (fun _ i => (dSrc d).plus (i * d.w 12)) (s.indexList c d)).finish c d stDone 0 0 :=
  (if_neg hn).trans (if_neg (by simp [hin]))

/-- Of no rows, and of rows outside BASE, neither moves anything. -/
theorem State.startRows_none (h : d.w 11 = 0) : s.startGather c d = s.finish c d stDoneEmpty 0 0 ∧
    s.startScatter c d = s.finish c d stDoneEmpty 0 0 :=
  ⟨if_pos h, if_pos h⟩

theorem State.startRows_outside (hn : d.w 11 ≠ 0) (hout : s.rowsInside c d (s.indexList c d) = false) :
    s.startGather c d = s.finish c d stLimit dIndexRange 0 ∧ s.startScatter c d = s.finish c d stLimit dIndexRange 0 :=
  ⟨(if_neg hn).trans (if_pos (by simp [hout])), (if_neg hn).trans (if_pos (by simp [hout]))⟩

end

/-- Settles O4: each row is taken up as its start, which the weirs, the list and what the writes are prepared to decide. -/
theorem movesOfData : Obligations.MovesOfData := by
  have hstart {s : State} {c : Nat} {d : Desc} {r : DescRow} {t : State} (h : s.admits c d r = true)
      (ht : (s.accepted c d).startOf c d r = t) : descRow r c d s = .next t := (descRow_admits h).trans (congrArg _ ht)
  refine ⟨fun s c d h hn => hstart h (if_pos hn), fun s c d h hn hshut => hstart h (State.startCopy_shut hn hshut),
    fun s k m c d h hn hopen ho hk hm => hstart h (hm ▸ State.startCopy_plain hn hopen ho hk),
    fun s c d x h hn hopen ho => hstart h (State.startCopy_restore hn hopen ho), fun s c d hn => ?_, fun s c d hn hout => ?_,
    fun s c d hn hin => ?_, fun s k m c d idx h hn hidx hin hopen hk hm => ?_, fun s k m c d idx h hn hidx hin hopen hk hm => ?_⟩
  · obtain ⟨hg, hs⟩ := State.startRows_none (s := s.accepted c d) (c := c) hn
    exact ⟨fun h => hstart h hg, fun h => hstart h hs⟩
  · obtain ⟨hg, hs⟩ := State.startRows_outside hn hout
    exact ⟨fun h => hstart h hg, fun h => hstart h hs⟩
  · exact ⟨fun h hshut => hstart h ((State.startGather_inside hn hin).trans (State.pastWeirs_shut hshut)),
      fun h hshut => hstart h ((State.startScatter_inside hn hin).trans (State.pastWeirs_shut hshut))⟩
  · subst hidx hm
    exact hstart h ((State.startGather_inside hn hin).trans ((State.pastWeirs_open hopen).trans (State.withWrites_prepared hk)))
  · subst hidx hm
    exact hstart h ((State.startScatter_inside hn hin).trans ((State.pastWeirs_open hopen).trans (State.withWrites_prepared hk)))

end Sys2Proof.Machine
end

section
/-! Collectives that are taken up (O9). -/

namespace Sys2Proof.Machine

/-- The five rows of collectives have one start (R335). -/
theorem collectives_of_startColl {s t : State} {c : Nat} {d : Desc} (h : (s.accepted c d).startColl c d = t) :
    (s.admits c d .allreduce = true → exec (.allreduce c d) s = .next t) ∧
    (s.admits c d .reducescatter = true → exec (.reducescatter c d) s = .next t) ∧
    (s.admits c d .allgather = true → exec (.allgather c d) s = .next t) ∧
    (s.admits c d .broadcast = true → exec (.broadcast c d) s = .next t) ∧
    (s.admits c d .permute = true → exec (.permute c d) s = .next t) := by
  have hstart (r : DescRow) (hr : (s.accepted c d).startOf c d r = (s.accepted c d).startColl c d) (ha : s.admits c d r = true) :
      descRow r c d s = .next t := (descRow_admits ha).trans (congrArg _ (hr.trans h))
  exact ⟨hstart .allreduce rfl, hstart .reducescatter rfl, hstart .allgather rfl, hstart .broadcast rfl, hstart .permute rfl⟩

theorem State.group_accepted (s : State) (c : Nat) (d : Desc) : (s.accepted c d).group = s.group := by
  obtain ⟨-, -, -, -, -, -, -, -, -, -, -, hgroup, -⟩ := accepted_same s c d
  exact hgroup

section
variable {s : State} {c : Nat} {d : Desc}

/-- A collective waits for a place while the engine does not run or sixteen are under way (R337). -/
theorem State.startColl_full (hn : collCount d ≠ 0) (h : s.collOn = false ∨ 16 ≤ s.group.flights.length) :
    s.startColl c d = s.setWait c d .window := by
  refine (if_neg hn).trans (if_pos ?_)
  rcases h with h | h <;> simp [h, collPlaces]

/-- With a place, its weirs decide. -/
theorem State.startColl_placed (hn : collCount d ≠ 0) (hon : s.collOn = true) (hroom : s.group.flights.length < 16) :
    s.startColl c d = s.pastWeirs c d (3 :: hbmWeir false (collSrc d)) fun u =>
      let j := u.setWait c d .engine
      let ranks := j.cutRanks (bitsOf d.w3.toNat 28 4)
      let f : Coll := { ctx := c, seq := d.seq, desc := d, cut := ranks, own := j.collOwn c d, tag := if d.inTxn then some d.tag else none }
      let k := ((hbmWeir false (collSrc d)).foldl (fun j n => j.charge c n f.own.length) j).collSend c d ranks
      ({ k with group := { k.group with flights := k.group.flights ++ [f] } } : State).takeEarly := by
  refine (if_neg hn).trans ((if_neg ?_).trans rfl)
  have hplace : decide (collPlaces ≤ s.group.flights.length) = false := decide_eq_false (Nat.not_le.2 hroom)
  rw [hon, hplace]
  decide

end

/-- Settles O9, for the start that the five rows share. -/
theorem collectivesGoIntoFlight : Obligations.CollectivesGoIntoFlight := by
  refine ⟨fun s c d hn => collectives_of_startColl (if_pos hn), fun s c d w hn hw => collectives_of_startColl ?_,
    fun s j k c d f hn hroom hon hopen hj hf hk => collectives_of_startColl ?_⟩
  · rcases hw with ⟨hfull, rfl⟩ | ⟨hon, hroom, hshut, rfl⟩
    · exact State.startColl_full hn (by rwa [s.group_accepted])
    · rw [State.startColl_placed hn hon (by rwa [s.group_accepted])]
      exact if_neg (Bool.eq_false_iff.1 hshut)
  · subst hk hf hj
    rw [State.startColl_placed hn hon (by rwa [s.group_accepted])]
    exact if_pos hopen

end Sys2Proof.Machine
end

section
/-! WATCH and HARVEST (O11). -/

namespace Sys2Proof.Machine

/-! ### What acceptance leaves of registers, plans and ports -/

theorem State.regs_accepted (s : State) (c : Nat) (d : Desc) : (s.accepted c d).regs = s.regs := by
  have hrec (u : State) (m : Word) (pl : List Word) : ((u.pulse 0x245 0 1 c m).sluice 2 c 0x200 m pl).regs = u.regs := by
    rw [State.regs_sluice, State.pulse_regs]
  unfold State.accepted State.accept
  dsimp only
  split
  · split
    · exact hrec ..
    · exact hrec ..
  · exact hrec ..

theorem State.rankWord_accepted (s : State) (c : Nat) (d : Desc) : (s.accepted c d).rankWord = s.rankWord := by
  have hrf (lo n : Nat) : (s.accepted c d).rf .colCfg lo n = s.rf .colCfg lo n :=
    congrArg (fun v => bitsOf v lo n) (State.rawReg_congr (s.regs_accepted c d) _ _ _)
  rw [State.rankWord, hrf, hrf, State.rankWord]

theorem State.port_accepted (s : State) (c : Nat) (d : Desc) : ((s.accepted c d).ctxD c).port = (s.ctxD c).port :=
  s.ctxD_accepted c d fun _ => rfl

theorem State.watchOutput_accepted (s : State) (c : Nat) (d : Desc) (stage : Nat) (l : Loc) :
    (s.accepted c d).watchOutput c stage l = s.watchOutput c stage l := by
  have hplans : ((s.accepted c d).ctxD c).plans = (s.ctxD c).plans := s.ctxD_accepted c d fun _ => rfl
  rw [State.watchOutput, hplans, State.watchOutput]

theorem State.gran_accepted (s : State) (c : Nat) (d : Desc) : (s.accepted c d).gran = s.gran := by
  obtain ⟨-, -, -, -, -, -, -, -, -, -, -, -, -, -, -, hgran, -⟩ := accepted_same s c d
  exact hgran

/-! ### WATCH (R374 to R376) -/

section
variable {s : State} {c : Nat} {d : Desc}

/-- The two rows of WATCH that are on have one start. -/
theorem watches_of_startWatchOn {t : Bool → State} (h : ∀ b, (s.accepted c d).startWatchOn c d b = t b) :
    (s.admits c d .watchStatistics = true → exec (.watchStatistics c d) s = .next (t false)) ∧
    (s.admits c d .watchDigest = true → exec (.watchDigest c d) s = .next (t true)) :=
  ⟨fun ha => (descRow_admits ha).trans (congrArg _ (h false)), fun ha => (descRow_admits ha).trans (congrArg _ (h true))⟩

/-- A watch point as WATCH arms it for an output of a plan. -/
def watchPoint (d : Desc) (plan : Nat) (digest : Bool) : Watch :=
  { digest := digest, stage := d.f 2 16 16, loc := d.w3, locLo := d.w4, locHi := d.w5, len := d.w64 6, fmt := d.f 8 0 4,
    result := d.w64 9, plan := plan }

theorem State.startWatchOn_armed {l : Loc} {o : Nat × Nat × Nat × Nat × Nat} (ht : d.f 2 6 1 = 1) (hl : locOf d 3 = some l)
    (ho : s.watchOutput c (d.f 2 16 16) l = some o) (digest : Bool) : s.startWatchOn c d digest =
      (s.modCtx c fun x => { x with watches := tset x.watches (d.f 2 0 4) (watchPoint d o.1 digest) }).finish c d stDone 0 0 := by
  unfold State.startWatchOn
  rw [hl]
  dsimp only [Option.getD_some]
  rw [if_pos ht, ho]
  rfl

theorem State.startWatchOn_once {l : Loc} (ht : d.f 2 6 1 = 0) (hn : d.w64 6 ≠ 0) (hl : locOf d 3 = some l) (digest : Bool) :
    s.startWatchOn c d digest = (s.ctxWrite c (s.ctxD c).port (d.w64 9) (watchSlot (d.f 2 0 4) (if digest then 2 else 1) 0 s.stamp 0 0
      (if digest then watchDigest (s.locBytes c none l (d.w64 6)) (d.w64 6) 0
        else watchStats (s.viewOnce c none l (d.w64 6) (d.f 8 0 4))))).finish c d stDone 0 0 := by
  have hone : d.f 2 6 1 ≠ 1 := by omega
  unfold State.startWatchOn
  rw [hl]
  dsimp only [Option.getD_some]
  rw [if_neg hone, if_neg hn]

theorem State.startWatchOn_nothing (ht : d.f 2 6 1 = 0) (hn : d.w64 6 = 0) (digest : Bool) :
    s.startWatchOn c d digest = s.finish c d stDoneEmpty 0 0 :=
  (if_neg (by omega)).trans (if_pos hn)

/-! ### HARVEST (R347) -/

/-- The image of a HARVEST: its header and one record for each object. -/
def State.harvestImage (s : State) (c : Nat) (d : Desc) : List Byte :=
  let head := leBytes 4 0x48565354 ++ leBytes 4 0x00010000 ++ leBytes 8 (s.imageSize c d) ++ leBytes 4 s.rankWord ++
    leBytes 4 (s.harvestList c d).length ++ leBytes 8 s.stamp
  head ++ List.replicate (4096 - head.length) 0 ++ (s.harvestList c d).flatMap (s.harvestRecord d)

/-- Outside its context's commit window a HARVEST of objects writes its image where its weirs let it. -/
theorem State.startHarvest_outside (hn : d.f 3 0 16 ≠ 0) (hw : ∀ g, s.gran = some g → g.window = false ∨ g.ctx ≠ c) :
    s.startHarvest c d = if s.weirsOpen c (.region 0 0) (.host 0) then
      ((s.ctxWrite c (s.ctxD c).port (d.w64 5) (s.harvestImage c d)).chargeMove c (.region 0 0) (.host 0) (s.imageSize c d)).finish c d
        stDone 0 (BitVec.ofNat 32 (s.harvestList c d).length)
    else s.setWait c d .weir := by
  refine (if_neg hn).trans (if_neg ?_)
  split
  case _ g hg => rcases hw g hg with h | h <;> simp [h]
  case _ => exact Bool.false_ne_true

theorem State.startHarvest_inside {g : GranStep} (hn : d.f 3 0 16 ≠ 0) (hg : s.gran = some g) (hw : g.window = true) (hc : g.ctx = c) :
    s.startHarvest c d = s.setWait c d .window := by
  refine (if_neg hn).trans (if_pos ?_)
  simp [hg, hw, hc]

end

/-- Settles O11: each row is taken up as its start; acceptance leaves the plans, the port, the moment and the window. -/
theorem watchPointsAndHarvest : Obligations.WatchPointsAndHarvest := by
  refine ⟨fun s c d h => descRow_admits h, fun s c d l o w ht hl ho hw => ?_, fun s k c d l ht hn hl hk => ?_, fun s c d ht hn => ?_,
    fun s c d h => ⟨fun hn => ?_, fun g hn hg hw hc => ?_⟩, fun s k c d head img h hn hw hk hhead himg => ?_⟩
  · subst hw
    exact watches_of_startWatchOn fun b => State.startWatchOn_armed ht hl (by rw [s.watchOutput_accepted, ho]) b
  · subst hk
    rw [← s.port_accepted c d, ← s.stamp_accepted c d]
    exact watches_of_startWatchOn fun b => State.startWatchOn_once ht hn hl b
  · exact watches_of_startWatchOn fun b => State.startWatchOn_nothing ht hn b
  · exact (descRow_admits h).trans (congrArg _ (if_pos hn))
  · exact (descRow_admits h).trans (congrArg _ (State.startHarvest_inside hn (by rw [s.gran_accepted, hg]) hw hc))
  · have himage : img = k.harvestImage c d := by
      rw [himg, hhead, hk, ← s.rankWord_accepted c d, ← s.stamp_accepted c d]
      rfl
    rw [himage, ← s.port_accepted c d, hk]
    exact (descRow_admits h).trans (congrArg _ (State.startHarvest_outside hn (by rwa [s.gran_accepted])))

end Sys2Proof.Machine
end

section
/-! MGMT descriptors (O12). -/

namespace Sys2Proof.Machine

/-! ### A success touches reports, contexts and its transaction (R217, R310) -/

theorem State.finish_done (s : State) (c : Nat) (d : Desc) {st : Nat} (hst : st ≤ 1) (det : Nat) (res : Word) :
    ∃ v y, ReportedCtx s v ∧ s.finish c d st det res = { v with txns := y } := by
  have hcomplete : ReportedCtx s (s.complete c d st det res) := (ReportedCtx.writeCompletion ..).trans (.modCtx ..)
  rw [State.finish, State.memberDone]
  split
  · exact ⟨_, _, hcomplete, rfl⟩
  split
  · exact ⟨_, _, hcomplete, rfl⟩
  split
  · exact ⟨_, _, hcomplete, rfl⟩
  · exact ⟨_, _, hcomplete, rfl⟩

theorem ReportedCtx.power {s t : State} (h : ReportedCtx s t) : t.power = s.power := by
  obtain ⟨u, x, hu, rfl⟩ := h
  exact hu.power

/-! ### Leaving spring mode (R410) -/

/-- What a leave of spring mode keeps: memory, objects, problems and the arrays of sector 0. -/
structure SectorKept (s t : State) : Prop where
  hbm : t.hbm = s.hbm
  objects : t.objects = s.objects
  problems : t.problems = s.problems
  arr : ∀ a, a < 16 → t.arr a = s.arr a

namespace SectorKept

variable {s t u : State}

theorem of_same (hhbm : t.hbm = s.hbm) (hobjects : t.objects = s.objects) (hproblems : t.problems = s.problems)
    (harrays : t.arrays = s.arrays) : SectorKept s t :=
  ⟨hhbm, hobjects, hproblems, fun a _ => by rw [State.arr, harrays, State.arr]⟩

theorem refl (s : State) : SectorKept s s := ⟨rfl, rfl, rfl, fun _ _ => rfl⟩

theorem trans (h : SectorKept s t) (g : SectorKept t u) : SectorKept s u :=
  ⟨g.hbm.trans h.hbm, g.objects.trans h.objects, g.problems.trans h.problems, fun a ha => (g.arr a ha).trans (h.arr a ha)⟩

theorem of_reportedCtx (h : ReportedCtx s t) : SectorKept s t := by
  obtain ⟨-, -, -, -, -, harrays, hhbm, -, -, -, hobjects, -, hproblems, -⟩ := h.same
  exact of_same hhbm hobjects hproblems harrays

theorem of_reported (h : Reported s t) : SectorKept s t := of_reportedCtx (.of h)

theorem ite {p : Prop} [Decidable p] (ht : SectorKept s t) (hu : SectorKept s u) : SectorKept s (if p then t else u) := by
  split
  · exact ht
  · exact hu

theorem foldl {β : Type} {f : State → β → State} (hf : ∀ u b, SectorKept u (f u b)) (l : List β) (s : State) :
    SectorKept s (l.foldl f s) :=
  List.foldlRecOn (motive := fun t => SectorKept s t) _ _ (refl s) fun u h b _ => h.trans (hf u b)

theorem clearOuterCounters (s : State) : SectorKept s s.clearOuterCounters := .of_same rfl rfl rfl rfl

theorem setSlice (s : State) (n : Nat) (m : Memory) : SectorKept s (s.setSlice n m) := .of_same rfl rfl rfl rfl

theorem settleStack (s : State) (st : Nat) : SectorKept s (s.settleStack st) := by
  unfold State.settleStack
  split
  · exact refl s
  · exact .of_same rfl rfl rfl rfl

end SectorKept

theorem Reported.ctxs {s t : State} (h : Reported s t) : t.ctxs = s.ctxs := by
  obtain ⟨a, b, r, q, m, n, rfl⟩ := h
  rfl

/-- Where no context's host writes wait, writes that waited at a port go on and nothing else does (R326). -/
theorem Reported.flushWait {s : State} (hfree : ∀ e ∈ s.ctxs, e.2.hostHeld = false) (p : Port) : Reported s (s.flushWait p) := by
  unfold State.flushWait
  split
  · exact .refl s
  extract_lets ws u held
  have hu : Reported s u := (Reported.modPort ..).trans (.foldl (fun v _ => .hostWrite v p _ _) _ _)
  have hnone : held = [] := by
    refine List.filter_eq_nil_iff.2 fun e he => ?_
    have hmem : e ∈ s.ctxs := hu.ctxs ▸ he
    simp [hfree e hmem]
  rw [hnone]
  exact hu

/-- The arrays outside sector 0 are reset in place. -/
theorem tget_resetOuter (l : Table Arr) {a : Nat} (ha : a < 16) :
    tget (l.map fun (e : Nat × Arr) => if 16 ≤ e.1 then (e.1, { e.2 with store := {} }) else e) a = tget l a := by
  have hform : (fun (e : Nat × Arr) => if 16 ≤ e.1 then (e.1, { e.2 with store := {} }) else e) =
      fun e => (e.1, if 16 ≤ e.1 then { e.2 with store := {} } else e.2) :=
    funext fun e => by split <;> rfl
  rw [hform]
  refine (tget_map (fun n (x : Arr) => if 16 ≤ n then { x with store := {} } else x) l a).trans ?_
  have hkept : (fun x : Arr => if 16 ≤ a then { x with store := {} } else x) = id := funext fun x => if_neg (Nat.not_le.2 ha)
  rw [hkept, Option.map_id, id]

/-- A leave of spring mode from a state where no context's host writes wait. -/
theorem State.springLeave_kept {s : State} (hfree : ∀ e ∈ s.ctxs, e.2.hostHeld = false) : SectorKept s s.springLeave := by
  unfold State.springLeave
  extract_lets s1 s2 s3 s4 s5 s6 s7 cause frames _ s8 s9
  have h1 : SectorKept s s1 := ⟨rfl, rfl, rfl, fun a ha => congrArg (·.getD {}) (tget_resetOuter s.arrays ha)⟩
  have h2 : SectorKept s1 s2 := .foldl (fun u b => by
    by_cases hb : 16 ≤ b ∧ (tget u.arrays b).isNone
    · rw [if_pos hb]
      exact ⟨rfl, rfl, rfl, fun a ha => u.arr_setArr_ne _ (by omega)⟩
    · rw [if_neg hb]
      exact .refl u) _ _
  have h3 : SectorKept s2 s3 := (SectorKept.foldl (fun u k => .setSlice u (16 + k) []) _ _).trans (.clearOuterCounters _)
  have harrays : s2.ctxs = s1.ctxs := State.foldl_same State.ctxs (fun u b => by split <;> rfl) _ _
  have hclear (u : State) : u.clearOuterCounters.ctxs = u.ctxs := rfl
  have hslices : s3.ctxs = s2.ctxs := (hclear _).trans <| State.foldl_same State.ctxs (fun u k => u.setSlice_ctxs (16 + k) []) _ _
  have hctxs : s3.ctxs = s.ctxs := hslices.trans harrays
  clear_value s3
  have h4 : SectorKept s3 s4 := .of_same rfl rfl rfl rfl
  have hlink : SectorKept s4 ((s4.trainLink .tenant).flushWait .tenant) := by
    refine SectorKept.trans (t := s4.trainLink .tenant) (.of_same rfl rfl rfl rfl) (.of_reported (.flushWait ?_ _))
    have hlinked : (s4.trainLink .tenant).ctxs = s.ctxs := hctxs
    rw [hlinked]
    exact hfree
  have h5 : SectorKept s4 s5 := .ite hlink (.refl _)
  clear_value s5
  have h8 : SectorKept s5 s8 := .of_same rfl rfl rfl rfl
  have h9 : SectorKept s8 s9 := .foldl .settleStack _ _
  exact ((((((h1.trans h2).trans h3).trans h4).trans h5).trans h8).trans h9).trans (.of_reported (.devEvent ..))

/-- After a leave of spring mode the device is ON, with no cause (R410). -/
theorem State.springLeave_power (s : State) : s.springLeave.power.state = 1 ∧ s.springLeave.power.spring = 0 ∧
    s.springLeave.power.cause = 0 := by
  unfold State.springLeave
  extract_lets s1 s2 s3 s4 s5 s6 s7 cause frames _ s8 s9
  have hpower : s9.power = s8.power := State.foldl_same State.power (fun u b => by unfold State.settleStack; split <;> rfl) _ _
  rw [(Reported.devEvent s9 0x0032 2 _).power, hpower]
  exact ⟨rfl, rfl, rfl⟩

theorem mem_of_tget {α : Type} {t : Table α} {n : Nat} {v : α} (h : tget t n = some v) : (n, v) ∈ t := by
  induction t with
  | nil => cases h
  | cons g t ih =>
    simp only [tget] at h
    split at h
    case isTrue hk =>
      cases h
      exact hk ▸ List.mem_cons_self
    case isFalse => exact List.mem_cons_of_mem g (ih h)

theorem mem_tset {α : Type} {t : Table α} {n : Nat} {v : α} {e : Nat × α} (h : e ∈ tset t n v) : e = (n, v) ∨ e ∈ t := by
  induction t with
  | nil => exact .inl (List.mem_singleton.1 h)
  | cons g t ih =>
    simp only [tset] at h
    split at h
    · exact List.mem_cons.1 h
    · split at h
      · exact (List.mem_cons.1 h).imp_right (List.mem_cons_of_mem g)
      · rcases List.mem_cons.1 h with rfl | h
        · exact .inr List.mem_cons_self
        · exact (ih h).imp_right (List.mem_cons_of_mem g)

/-- A change of one context keeps what holds of every context and of what it makes of one. -/
theorem State.forall_modCtx {s : State} {P : Ctx → Prop} {f : Ctx → Ctx} (hf : ∀ x, P x → P (f x))
    (h : ∀ e ∈ s.ctxs, P e.2) (c : Nat) :
    ∀ e ∈ (s.modCtx c f).ctxs, P e.2 := by
  intro e he
  simp only [State.modCtx, tmod] at he
  split at he
  case _ x hx =>
    rcases mem_tset he with rfl | he
    · exact hf x (h (c, x) (mem_of_tget hx))
    · exact h e he
  case _ => exact h e he

/-- The contexts whose host writes wait are as before an acceptance. -/
theorem State.hostHeld_accepted {s : State} (hfree : ∀ e ∈ s.ctxs, e.2.hostHeld = false) (c : Nat) (d : Desc) :
    ∀ e ∈ (s.accepted c d).ctxs, e.2.hostHeld = false := by
  obtain ⟨v, y, hv, h⟩ := s.accepted_traced c d
  have hctxs : (s.accepted c d).ctxs = v.ctxs := (congrArg State.ctxs h).trans rfl
  rw [hctxs, hv.ctxs]
  have hkept (u : State) (f : Ctx → Ctx) (hf : ∀ x, (f x).hostHeld = x.hostHeld) (hu : ∀ e ∈ u.ctxs, e.2.hostHeld = false) :
      ∀ e ∈ (u.modCtx c f).ctxs, e.2.hostHeld = false :=
    State.forall_modCtx (P := fun x => x.hostHeld = false) (fun x hx => (hf x).trans hx) hu c
  exact hkept _ _ (fun _ => rfl) (hkept _ _ (fun _ => rfl) (hkept _ _ (fun _ => rfl) hfree))

/-- Settles O12: each row is taken up as its start; a leave of spring mode moves no byte of memory. -/
theorem managementActsOnContexts : Obligations.ManagementActsOnContexts := by
  refine ⟨fun s c d h => ⟨fun hplain hn => ?_, fun hn => ?_⟩, fun s k c d p r h hp hr hk => ?_,
    fun s k c d swap h hswap => ⟨fun hplain => ?_, fun t hmember ht => ?_⟩,
    fun s c d h => descRow_admits h, fun s c d h => descRow_admits h, fun s c d h => descRow_admits h, fun s c d h => ?_⟩
  · refine (descRow_admits h).trans (congrArg _ ((if_neg hn).trans ?_))
    simp only [State.txnOf, hplain]
    rfl
  · exact (descRow_admits h).trans (congrArg _ (if_pos hn))
  · subst hp hk
    refine (descRow_admits h).trans (congrArg _ ?_)
    simp only [State.startOf, State.startCtxDefine, hr]
  · refine (descRow_admits h).trans (congrArg _ ?_)
    simp only [State.startOf, State.startPartSet, hswap, State.txnOf, hplain]
    rfl
  · refine (descRow_admits h).trans (congrArg _ ?_)
    simp only [State.startOf, State.startPartSet, hswap, State.txnOf, hmember, ht]
    rfl
  · obtain ⟨v, y, hv, hfinish⟩ := State.finish_done (s.accepted c d).springLeave c d (st := stDone) (by decide) 0 0
    obtain ⟨hstate, hspring, hcause⟩ := (s.accepted c d).springLeave_power
    have hpower : ((s.accepted c d).springLeave.finish c d stDone 0 0).power = (s.accepted c d).springLeave.power := by
      rw [hfinish]
      exact hv.power
    refine ⟨(s.accepted c d).springLeave.finish c d stDone 0 0, descRow_admits h, rfl, ?_, ?_, ?_, fun hfree => ?_⟩
    · rw [hpower, hstate]
    · rw [hpower, hspring]
    · rw [hpower, hcause]
    · have hkept : SectorKept (s.accepted c d) ((s.accepted c d).springLeave.finish c d stDone 0 0) := by
        refine (State.springLeave_kept (State.hostHeld_accepted hfree c d)).trans ((SectorKept.of_reportedCtx hv).trans ?_)
        rw [hfinish]
        exact .of_same rfl rfl rfl rfl
      obtain ⟨-, -, harrays, -, hhbm, -, -, hobjects, -, hproblems, -⟩ := accepted_same s c d
      exact ⟨hkept.hbm.trans hhbm, hkept.objects.trans hobjects, hkept.problems.trans hproblems, fun a ha =>
        (hkept.arr a ha).trans (by rw [State.arr, harrays, State.arr])⟩

end Sys2Proof.Machine
end

section
/-! The happenings of pairs, partition changes and swapping (O28, O27). -/

namespace Sys2Proof.Machine

/-! ### Since when something has stood -/

theorem State.lastedFor_of_le {s : State} {since : Option Nat} {t n : Nat} (h : since = some t) (hle : t + n ≤ s.now) :
    s.lastedFor since n = true := by
  subst h
  exact decide_eq_true hle

/-- The figure of R391 and R392 for a time in µs. -/
theorem State.fallowDue_of_noWork {s : State} {p t : Nat} (h : (s.pair p).noWork = some t)
    (hle : t + 1050 * s.rf .pwrFallowCfg 1 16 ≤ s.now) : s.fallowDue p = true :=
  State.lastedFor_of_le h hle

theorem State.pairStill_of_still {s : State} {p : Nat}
    (h0 : (s.arr (2 * p)).mode = .halted ∨ (s.arr (2 * p)).mode = .waiting)
    (h1 : (s.arr (2 * p + 1)).mode = .halted ∨ (s.arr (2 * p + 1)).mode = .waiting) : s.pairStill p = true := by
  simp only [State.pairStill, List.all_cons, List.all_nil, Bool.and_true, Bool.and_eq_true, Bool.or_eq_true, beq_iff_eq]
  exact ⟨h0, h1⟩

/-! ### The rows of a pair -/

theorem exec_pairReturnRequest_ready {s : State} {p : Nat} (hp : p < 48) (h : s.segmentReady (s.pairOwner p) p = true) :
    exec (.pairReturnRequest p) s = .next (s.askBack p) := by
  have hrow : exec (.pairReturnRequest p) s =
      if s.segmentReady (s.pairOwner p) p then .next (s.askBack p) else .next s := if_neg (Nat.not_le.2 hp)
  rw [hrow, if_pos h]

theorem exec_borrowerOverrun_due {s : State} {p t : Nat} (hp : p < 48) (hlent : (s.pair p).lent = true)
    (ht : (s.pair p).returnAt = some t) (hle : t + 65536 ≤ s.now) :
    exec (.borrowerOverrun p) s =
      .next ((s.ctxFault (s.pair p).running (2 * p) (s.arr (2 * p)).pc).startParked
        ((s.ctxFault (s.pair p).running (2 * p) (s.arr (2 * p)).pc).pairOwner p)) := by
  have hdue : ((s.pair p).lent && s.lastedFor (s.pair p).returnAt 65536) = true := by
    rw [hlent, State.lastedFor_of_le ht hle, Bool.and_self]
  exact (if_neg (Nat.not_le.2 hp)).trans (if_pos hdue)

theorem exec_idle_still {s : State} {p t : Nat} (hp : p < 48) (h : s.pairStill p = true)
    (ht : (s.pair p).still = some t) (hle : t + 32 ≤ s.now) :
    exec (.idle p) s =
      .next ((s.modArr (2 * p) fun x => { x with idle := true }).modArr (2 * p + 1) fun x => { x with idle := true }) := by
  have hdue : (s.pairStill p && s.lastedFor (s.pair p).still 32) = true := by
    rw [h, State.lastedFor_of_le ht hle, Bool.and_self]
  exact (if_neg (Nat.not_le.2 hp)).trans (if_pos hdue)

/-- A pair whose arrays have stopped powers down. -/
def State.madeFallow (s : State) (p : Nat) : State :=
  (((s.stopPair p).modArr (2 * p) fun a => { a with mode := .fallow }).modArr (2 * p + 1)
    fun a => { a with mode := .fallow }).modPair p fun x => { x with fallow := true, wake := false, noWork := none }

/-- A fallow pair powers up. -/
def State.madeAwake (s : State) (p : Nat) : State :=
  ((s.modPair p fun x => { x with fallow := false, wake := false }).modArr (2 * p)
    fun x => { x with mode := .halted }).modArr (2 * p + 1) fun x => { x with mode := .halted }

theorem exec_fallowEntry_due {s : State} {p : Nat} (hp : p < 48) (hfallow : (s.pair p).fallow = false)
    (hlent : (s.pair p).lent = false) (hprus : (s.prus.any fun e => e.2.any fun r => r.array / 2 == p) = false)
    (hless : s.pairWorkless p = true) (hon : s.power.state = 1)
    (howner : (s.pairOwner p != 0 && (!s.fallowAuto || s.prio (s.pairOwner p) == 0 || !s.fallowDue p)) = false) :
    exec (.fallowEntry p) s = .next (if (s.madeFallow p).fallowAuto then
      (s.madeFallow p).devEvent 0x0500 1 [BitVec.ofNat 32 (p + 256), BitVec.ofNat 32 (s.pairOwner p),
        BitVec.ofNat 32 ((s.pair p).idleFor (s.madeFallow p).now)] else s.madeFallow p) := by
  have hfree : ¬ ((s.pair p).fallow || (s.pair p).lent || (s.prus.any fun e => e.2.any fun r => r.array / 2 == p) ||
      !s.pairWorkless p || s.power.state != 1) = true := by
    rw [hfallow, hlent, hprus, hless, hon]; decide
  exact (if_neg (Nat.not_le.2 hp)).trans ((if_neg hfree).trans (if_neg (by rw [howner]; decide)))

theorem exec_fallowWake_due {s : State} {p : Nat} (hp : p < 48) (hfallow : (s.pair p).fallow = true) (howner : s.pairOwner p ≠ 0)
    (hwork : (s.pair p).wake = true ∨ s.workReady p = true) (hpower : s.power.state ≠ 2 ∨ p < 8) :
    exec (.fallowWake p) s = .next ((if (s.madeAwake p).fallowAuto then
      (s.madeAwake p).devEvent 0x0500 1 [BitVec.ofNat 32 (p + 512), BitVec.ofNat 32 (s.pairOwner p)] else s.madeAwake p).startParked
        (s.pairOwner p)) := by
  have hgo : ¬ (!(s.pair p).fallow || s.pairOwner p == 0 || !((s.pair p).wake || s.workReady p) ||
      (s.power.state == 2 && decide (8 ≤ p))) = true := by
    have hw : ((s.pair p).wake || s.workReady p) = true := by rw [Bool.or_eq_true]; exact hwork
    have hs : (s.power.state == 2 && decide (8 ≤ p)) = false := by
      rw [Bool.and_eq_false_iff, beq_eq_false_iff_ne, decide_eq_false_iff_not, Nat.not_le]; exact hpower
    rw [hfallow, hw, hs, beq_eq_false_iff_ne.2 howner]; decide
  exact (if_neg (Nat.not_le.2 hp)).trans (if_neg hgo)

/-- Settles O28: a case per row, each guard of R322 and R391 to R393 read off its hypotheses. -/
theorem pairsAreLentIdledAndWoken : Obligations.PairsAreLentIdledAndWoken := by
  unfold Obligations.PairsAreLentIdledAndWoken
  refine ⟨fun s p hp h => exec_pairReturnRequest_ready hp h, ?_, ?_, ?_, ?_⟩
  · rintro s k p t hp hlent ht hle rfl
    exact exec_borrowerOverrun_due hp hlent ht hle
  · rintro s p hp h0 h1 ⟨t, ht, hle⟩
    exact exec_idle_still hp (State.pairStill_of_still h0 h1) ht hle
  · rintro s k p hp hfallow hlent hprus hless hon howner rfl
    refine exec_fallowEntry_due hp hfallow hlent hprus hless hon ?_
    rcases howner with h0 | ⟨hauto, hprio, t, ht, hle⟩
    · rw [h0]; rfl
    · rw [hauto, beq_eq_false_iff_ne.2 hprio, State.fallowDue_of_noWork ht hle]
      exact Bool.and_false _
  · rintro s k p o hp hfallow rfl howner hwork hpower rfl
    exact exec_fallowWake_due hp hfallow howner hwork hpower

/-! ### The loop of SWAP_POLL -/

/-- A context's priority is a field of two bits. -/
theorem State.prio_lt (s : State) (c : Nat) : s.prio c < 4 :=
  Nat.mod_lt _ (by decide)

/-- A loop in order of priority over one context is one turn. -/
theorem flatMap_range_singleton {s : State} {c : Nat} :
    ((List.range 4).flatMap fun k => [c].filter fun c => s.prio c == k) = [c] := by
  have hlt := s.prio_lt c
  generalize hq : s.prio c = q at hlt
  have hfilter (k : Nat) : ([c].filter fun c => s.prio c == k) = if q = k then [c] else [] := by
    simp [List.filter_cons, hq]
  simp only [hfilter]
  interval_cases q <;> rfl

theorem exec_swapPoll_one {s : State} {c : Nat}
    (hcs : (s.ctxs.filter fun (e : Nat × Ctx) => s.runnable e.1 e.2).map (·.1) = [c]) (hrun : s.runnable c (s.ctxD c) = true) :
    exec .swapPoll s = .next (s.trySwap c) := by
  change Host.Outcome.next _ = _
  rw [hcs, flatMap_range_singleton]
  exact congrArg _ (if_pos hrun)

theorem State.trySwap_fits {s : State} {c : Nat} (h : s.fitsIn (s.ctxD c) none = true) (hplace : s.residents.length < 8) :
    s.trySwap c = (s.swapEvent c none).swapIn c :=
  if_pos ⟨h, hplace⟩

theorem State.trySwap_victim {s : State} {c v : Nat} (hfull : s.fitsIn (s.ctxD c) none = false ∨ 8 ≤ s.residents.length)
    (hfree : s.rf .ctxPolicy 1 1 = 0)
    (hblocked : (s.residents.all fun n => (s.ctxD n).blocked && s.mayBlock n (s.ctxD n)) = true)
    (hv : s.victim (s.eligible (s.ctxD c)) = some v) :
    s.trySwap c = ((s.swapEvent c (some v)).swapOut v).swapIn c := by
  have hno : ¬ (s.fitsIn (s.ctxD c) none = true ∧ s.residents.length < 8) := by
    rcases hfull with h | h
    · rw [h]; exact fun h => Bool.false_ne_true h.1
    · exact fun hlt => Nat.not_le.2 hlt.2 h
  have hone : ¬ s.rf .ctxPolicy 1 1 = 1 := by rw [hfree]; decide
  refine (if_neg hno).trans ((if_neg hone).trans ((if_pos hblocked).trans ?_))
  rw [hv]

/-! ### The rows of a context -/

/-- What PARTITION_CHANGE asks of the leaving pairs (R320 step 1). -/
def State.askLeaving (s : State) (x : Ctx) (leaving : List Nat) : State :=
  leaving.foldl (fun k p => if x.mode = .tornDown then (k.stopPair p).unlend p else k.askBack p) s

theorem exec_partitionChange_at {s : State} {c : Nat} {x : Ctx} {ch : PartChange} {rest : List PartChange} {leaving : List Nat}
    (hx : s.ctx? c = some x) (hch : x.changes = ch :: rest) (hat : s.atChangePoint c x ch = true)
    (hleave : leaving = if x.mode = .swapped then [] else x.pairs.filter fun p => !ch.pairs.contains p) :
    exec (.partitionChange c) s =
      .next (if leaving.any fun p => ((s.askLeaving x leaving).pair p).lent then s.askLeaving x leaving
        else (s.askLeaving x leaving).changePartition c ((s.askLeaving x leaving).ctxD c) ch) := by
  subst hleave
  change execPartitionChange c s = _
  unfold execPartitionChange
  simp only [hx, hch, hat, Bool.not_true, Bool.false_eq_true, if_false]
  exact (apply_ite _ _ _ _).symm

theorem exec_contextBlocked_due {s : State} {c t : Nat} {x : Ctx} (hx : s.ctx? c = some x) (hmay : s.mayBlock c x = true)
    (ht : x.idleSince = some t) (hle : t + 1050 * s.rf .ctxPolicy 8 8 ≤ s.now) :
    exec (.contextBlocked c) s = .next (s.modCtx c fun x => { x with blocked := true }) := by
  have hlast : s.lastedFor x.idleSince (cyclesPerUs * s.rf .ctxPolicy 8 8) = true := State.lastedFor_of_le ht hle
  have hdue : (s.mayBlock c x && s.lastedFor x.idleSince (cyclesPerUs * s.rf .ctxPolicy 8 8)) = true := by
    rw [hmay, hlast, Bool.and_self]
  change execContextBlocked c s = _
  unfold execContextBlocked
  rw [hx]
  exact congrArg _ (if_pos hdue)

/-- Settles O27: the change point (R320), the blocked test and the loop of SWAP_POLL over the one runnable context (R324, R325),
and the loop over the weirs (R329). -/
theorem partitionsAndSwaps : Obligations.PartitionsAndSwaps := by
  unfold Obligations.PartitionsAndSwaps
  refine ⟨?_, fun s c t x hx hmay ht hle => exec_contextBlocked_due hx hmay ht hle, ?_, ?_⟩
  · rintro s k c x ch rest leaving hx hch hat hleave rfl
    exact exec_partitionChange_at hx hch hat hleave
  · intro s c hcs hrun
    rw [exec_swapPoll_one hcs hrun]
    exact ⟨fun hfit hplace => congrArg _ (State.trySwap_fits hfit hplace),
      fun v hfull hfree hblocked hv => congrArg _ (State.trySwap_victim hfull hfree hblocked hv)⟩
  · refine fun s seen => ⟨fun h => if_neg ?_, fun h => if_pos h⟩
    rw [h]; decide

end Sys2Proof.Machine
end

section
/-! The cadence unit's edges and boundaries (O31). -/

namespace Sys2Proof.Machine

theorem State.rf_one_ne {s : State} {r : Reg} {lo : Nat} (h : s.rf r lo 1 = 0) : ¬ s.rf r lo 1 = 1 := by
  rw [h]; decide

/-! ### CADENCE_IN (R352, R354 to R358) -/

/-- What CADENCE_IN does with an edge that is not a RESYNC edge. -/
def State.plainEdge (s : State) (t : Nat) : State :=
  match s.cad.mode with
  | .holdover => s.holdoverEdge t
  | .acquiring => if t < s.cad.boundary + oneMs ∨ s.cad.source = true then s.strayEdge t else s.acquireEdge t
  | .locked => if t < s.cad.boundary + oneMs ∨ s.cad.source = true then s.strayEdge t else s.lockedEdge t

/-- Whether an edge makes the anchored boundary. -/
def State.resyncs (s : State) (t : Nat) : Bool :=
  s.anchorArmed && s.rf .cadAnchor 50 1 == 1 && !s.cad.source && decide (s.cad.boundary + oneMs ≤ t)

theorem State.resyncs_iff {s : State} {t : Nat} :
    s.resyncs t = true ↔
      s.anchorArmed = true ∧ s.rf .cadAnchor 50 1 = 1 ∧ s.cad.source = false ∧ s.cad.boundary + oneMs ≤ t := by
  simp only [State.resyncs, Bool.and_eq_true, beq_iff_eq, Bool.not_eq_true', decide_eq_true_eq, and_assoc]

theorem State.resyncs_eq_false {s : State} {t : Nat}
    (h : s.anchorArmed = false ∨ s.rf .cadAnchor 50 1 = 0 ∨ s.cad.source = true ∨ t < s.cad.boundary + oneMs) :
    s.resyncs t = false := by
  rw [← Bool.not_eq_true, State.resyncs_iff]
  rintro ⟨harmed, hresync, hsource, hlate⟩
  rcases h with h | h | h | h
  · exact Bool.false_ne_true (h.symm.trans harmed)
  · exact State.rf_one_ne h hresync
  · exact Bool.false_ne_true (hsource.symm.trans h)
  · exact Nat.not_le.2 h hlate

theorem exec_cadenceIn {s : State} {e t : Nat} (hrun : s.cad.running = true) (ht : t = 8 * s.now + e % 8) :
    exec (.cadenceIn e) s = .next (if s.resyncs t then s.resyncEdge t else s.plainEdge t) := by
  subst ht
  change execCadenceIn e s = _
  have hearly : (!decide (s.cad.boundary + oneMs ≤ 8 * s.now + e % 8) || s.cad.source) = true ↔
      (8 * s.now + e % 8 < s.cad.boundary + oneMs ∨ s.cad.source = true) := by
    rw [Bool.or_eq_true, Bool.not_eq_true', decide_eq_false_iff_not, Nat.not_le]
  unfold execCadenceIn State.resyncs State.plainEdge
  cases hmode : s.cad.mode with
  | holdover =>
    simp only [hrun, Bool.not_true, Bool.false_eq_true, if_false, beq_self_eq_true, if_true]
    exact (apply_ite _ _ _ _).symm
  | acquiring =>
    simp only [hrun, Bool.not_true, Bool.false_eq_true, if_false, hearly, show (CadMode.acquiring == .holdover) = false from rfl]
    split_ifs <;> rfl
  | locked =>
    simp only [hrun, Bool.not_true, Bool.false_eq_true, if_false, hearly, show (CadMode.locked == .holdover) = false from rfl]
    split_ifs <;> rfl

theorem State.plainEdge_holdover {s : State} {t : Nat} (h : s.cad.mode = .holdover) : s.plainEdge t = s.holdoverEdge t := by
  unfold State.plainEdge; rw [h]

theorem State.plainEdge_stray {s : State} {t : Nat} (h : s.cad.mode ≠ .holdover)
    (hearly : t < s.cad.boundary + oneMs ∨ s.cad.source = true) : s.plainEdge t = s.strayEdge t := by
  unfold State.plainEdge
  cases hmode : s.cad.mode with
  | holdover => exact absurd hmode h
  | acquiring => exact if_pos hearly
  | locked => exact if_pos hearly

theorem State.plainEdge_late {s : State} {t : Nat} (hlate : s.cad.boundary + oneMs ≤ t) (hsource : s.cad.source = false) :
    (s.cad.mode = .acquiring → s.plainEdge t = s.acquireEdge t) ∧ (s.cad.mode = .locked → s.plainEdge t = s.lockedEdge t) := by
  have hno : ¬ (t < s.cad.boundary + oneMs ∨ s.cad.source = true) := by
    rw [hsource, not_or]
    exact ⟨Nat.not_lt.2 hlate, Bool.false_ne_true⟩
  unfold State.plainEdge
  constructor
  · intro h; rw [h]; exact if_neg hno
  · intro h; rw [h]; exact if_neg hno

/-! ### Boundaries without edges (R354, R357; log entry 39) -/

theorem exec_holdoverBoundary_locked {s : State} {l : Nat} (hrun : s.cad.running = true) (hsource : s.cad.source = false)
    (hlast : s.cad.lastEdge = some l) (hmode : s.cad.mode = .locked)
    (hdue : l + 8 * (s.cad.period + s.cadWindow) ≤ 8 * s.now + 7) : exec .holdoverBoundary s = .next (s.enterHoldover l) := by
  change execHoldoverBoundary s = _
  simp only [execHoldoverBoundary, hrun, hsource, hlast, hmode, if_pos hdue, Bool.not_true, Bool.or_self, Bool.false_eq_true, if_false]

theorem exec_holdoverBoundary_holdover {s : State} {l : Nat} (hrun : s.cad.running = true) (hsource : s.cad.source = false)
    (hlast : s.cad.lastEdge = some l) (hmode : s.cad.mode = .holdover)
    (hdue : l + 8 * s.cad.period * s.cad.hold ≤ 8 * s.now + 7) : exec .holdoverBoundary s = .next (s.holdoverNext l) := by
  change execHoldoverBoundary s = _
  simp only [execHoldoverBoundary, hrun, hsource, hlast, hmode, if_pos hdue, Bool.not_true, Bool.or_self, Bool.false_eq_true, if_false]

theorem exec_internalBoundary_due {s : State} (hrun : s.cad.running = true)
    (hon : (s.cad.source || (s.rf .cadCfg 0 1 == 1 && s.cad.mode == .acquiring)) = true)
    (hdue : s.cad.boundary + 8 * s.nominal ≤ 8 * s.now + 7) :
    exec .internalBoundary s =
      .next ((if s.cad.source then s.setCad fun c => { c with period := s.nominal } else s).frameBoundary
        (s.cad.boundary + 8 * s.nominal) false) := by
  refine if_pos ?_
  rw [hrun, hon, decide_eq_true hdue]; rfl

/-! ### PPS and frame waits (R306, R359, R361) -/

theorem exec_ppsIn_first {s : State} (hrun : s.cad.running = true) (h : s.cad.ppsEdge = none) :
    exec .ppsIn s = .next { s with cad := { s.cad with ppsEdge := some s.now, ppsSeen := true } } := by
  change execPpsIn s = _
  simp only [execPpsIn, hrun, h, Bool.not_true, Bool.false_eq_true, if_false]

theorem exec_ppsIn_later {s : State} {u : Nat} (hrun : s.cad.running = true) (h : s.cad.ppsEdge = some u) :
    exec .ppsIn s = .next { s with cad := { s.cad with
      ppsCycles := min (s.now - u) (2 ^ 32 - 1), ppsOk := within (s.now - u) 1050000000 1050000, ppsEdge := some s.now,
      ppsSeen := true } } := by
  change execPpsIn s = _
  simp only [execPpsIn, hrun, h, Bool.not_true, Bool.false_eq_true, if_false]
  rfl

theorem exec_ppsTimeout_due {s : State} {u : Nat} (h : s.cad.ppsEdge = some u) (hdue : u + 1575000000 ≤ s.now) :
    exec .ppsTimeout s = .next { s with cad := { s.cad with ppsOk := false } } :=
  congrArg _ (if_pos (show s.lastedFor s.cad.ppsEdge 1575000000 = true by rw [h]; exact decide_eq_true hdue))

theorem exec_waitFrameReached_one {s : State} {c : Nat} {o : Open} {f p : Nat} (hmode : (s.ctxD c).mode = .resident)
    (hopens : (s.ctxD c).opens = [o]) (hwait : o.wait = .frame f p) :
    exec (.waitFrameReached c) s = .next (s.retryWaitFrame c o.desc) := by
  change execWaitFrameReached c s = _
  simp only [execWaitFrameReached, hmode, hopens, hwait, ne_eq, not_true_eq_false, if_false, List.foldl_cons, List.foldl_nil]

theorem State.retryWaitFrame_eq {s : State} {c : Nat} {d : Desc} :
    s.retryWaitFrame c d = if waitStamp d ≤ s.stamp ∧ s.frameWork = false then
      s.finish c d stDone 0 (BitVec.ofNat 32 (min ((s.stamp - waitStamp d) / 65536) 0xFFFFFFFF)) else s := by
  simp only [State.retryWaitFrame, Bool.not_eq_true']

/-- Settles O31: an edge by the mode of the unit, then each boundary that comes without one, PPS and the frame waits. -/
theorem edgesAndBoundaries : Obligations.EdgesAndBoundaries := by
  unfold Obligations.EdgesAndBoundaries
  refine ⟨?_, fun s l hrun hsource hlast hmode hdue => exec_holdoverBoundary_locked hrun hsource hlast hmode hdue,
    fun s l hrun hsource hlast hmode hdue => exec_holdoverBoundary_holdover hrun hsource hlast hmode hdue, ?_, ?_,
    fun s hrun h => exec_ppsIn_first hrun h, fun s u hrun h => exec_ppsIn_later hrun h,
    fun s u h hdue => exec_ppsTimeout_due h hdue, ?_⟩
  · intro s e t hrun ht
    rw [exec_cadenceIn hrun ht]
    refine ⟨fun harmed hresync hsource hlate => ?_, fun hplain => ?_⟩
    · rw [if_pos (State.resyncs_iff.2 ⟨harmed, hresync, hsource, hlate⟩)]
    · rw [State.resyncs_eq_false hplain, if_neg Bool.false_ne_true]
      refine ⟨fun h => congrArg _ (State.plainEdge_holdover h), fun h hearly => congrArg _ (State.plainEdge_stray h hearly),
        fun hlate hsource => ?_⟩
      obtain ⟨hacquire, hlock⟩ := State.plainEdge_late hlate hsource
      exact ⟨fun h => congrArg _ (hacquire h), fun h => congrArg _ (hlock h)⟩
  · intro s hrun hsource hdue
    rw [exec_internalBoundary_due hrun (by rw [hsource]; rfl) hdue, if_pos hsource]
  · intro s hrun hsource hcfg hmode hdue
    rw [exec_internalBoundary_due hrun (by rw [hcfg, hmode]; exact Bool.or_true _) hdue, hsource, if_neg Bool.false_ne_true]
  · intro s c o f p hmode hopens hwait
    rw [exec_waitFrameReached_one hmode hopens hwait, State.retryWaitFrame_eq]

end Sys2Proof.Machine
end

section
/-! Thermal emergencies and faults of the rails (O38). -/

namespace Sys2Proof.Machine

/-! ### The end of a context's work leaves power, cadence and start-up (R317, R408) -/

theorem State.standing_eq_iff {s t : State} :
    t.standing = s.standing ↔ t.power = s.power ∧ t.cad = s.cad ∧ t.boot = s.boot ∧ t.pwrok = s.pwrok := by
  simp only [State.standing, Prod.mk.injEq]

theorem Reported.standing {s t : State} (h : Reported s t) : t.standing = s.standing := (ReportedCtx.of h).standing

theorem State.standing_finishSeq (s : State) (c : Nat) (seq : Word) (st det : Nat) (res : Word) :
    (s.finishSeq c seq st det res).standing = s.standing := by
  unfold State.finishSeq
  split
  · unfold State.finish State.memberDone
    split
    · exact s.standing_complete ..
    split
    · exact s.standing_complete ..
    split
    · exact s.standing_complete ..
    dsimp only
    split
    · exact s.standing_complete ..
    · exact (State.standing_abortTxn ..).trans (s.standing_complete ..)
  · rfl

theorem State.standing_rootRecord (s : State) (r : Refresh) (code iters : Nat) (eps nu lam : Word) (units : Nat) :
    (s.rootRecord r code iters eps nu lam units).standing = s.standing := (Reported.devEvent ..).standing

theorem State.standing_abandonRecord (s : State) (r : Refresh) : (s.abandonRecord r).standing = s.standing := by
  unfold State.abandonRecord
  split
  · exact s.standing_rootRecord ..
  · exact State.standing_rootRecord ..

theorem State.standing_requestsSettle (s : State) : s.requestsSettle.standing = s.standing :=
  State.foldl_same State.standing (fun u _ => u.standing_finishSeq ..) _ _

theorem State.standing_stopRefresh (s : State) (g : Nat) : (s.stopRefresh g).standing = s.standing :=
  State.foldl_same State.standing (fun _ _ => by rfl) _ _

theorem State.standing_abandon (s : State) (p : Refresh → Bool) : (s.abandon p).standing = s.standing := by
  unfold State.abandon
  extract_lets gone s1 v s2
  have h1 : s1.standing = s.standing := State.foldl_same State.standing (fun u _ => u.standing_stopRefresh _) _ _
  refine (State.standing_requestsSettle _).trans (Eq.trans ?_ h1)
  exact State.foldl_same State.standing (fun _ _ => by exact State.standing_abandonRecord ..) _ s2

theorem State.standing_retire (s : State) (o : Nat) : (s.retire o).standing = s.standing := by
  unfold State.retire
  split
  · rfl
  · exact State.foldl_same State.standing (fun _ _ => by rfl) _ _

theorem State.standing_unpin (s : State) (c : Nat) (seq : Word) : (s.unpin c seq).standing = s.standing :=
  State.foldl_same State.standing (fun _ _ => by exact State.standing_retire ..) _ _

theorem State.standing_dropTxns (s : State) (c : Nat) : (s.dropTxns c).standing = s.standing := by
  unfold State.dropTxns
  extract_lets mine s1 s2
  have h1 : s1.standing = s.standing := State.foldl_same State.standing
    (fun u t => (State.standing_dropDeferred ..).trans ((State.standing_dropShadows ..).trans (u.standing_voteAbort t))) _ _
  have h2 : s2.standing = s1.standing := State.foldl_same State.standing
    (fun u t => by split; exacts [u.standing_pulse .., rfl]) _ _
  exact (State.standing_shareSettle _).trans (h2.trans h1)

theorem State.standing_dropRuns (s : State) (c : Nat) : (s.dropRuns c).standing = s.standing :=
  State.foldl_same State.standing (fun u _ => u.standing_unpin ..) _ _

theorem State.standing_dropWork (s : State) (c : Nat) : (s.dropWork c).standing = s.standing := by
  unfold State.dropWork
  extract_lets gone _ _ s1 s2
  change s2.standing = s1.standing
  unfold s2
  split
  · exact s1.standing_abandon _
  · rfl

theorem State.standing_flushDescs (s : State) (c status : Nat) : (s.flushDescs c status).1.standing = s.standing := by
  unfold State.flushDescs
  split
  · rfl
  · exact State.foldl_same State.standing (fun u _ => u.standing_complete ..) _ _

theorem State.standing_suspend (s : State) (c : Nat) : (s.suspend c).1.standing = s.standing := by
  unfold State.suspend
  extract_lets x s1 s2 s3 r kept s4
  have h1 : s1.standing = s.standing := State.foldl_same State.standing (fun _ _ => by rfl) _ _
  clear_value s1
  have h2 : s2.standing = s1.standing := rfl
  clear_value s2
  have h3 : s3.standing = s2.standing :=
    (State.standing_dropWork ..).trans ((State.standing_dropRuns ..).trans (State.standing_dropTxns ..))
  clear_value s3
  have hr : r.1.standing = s3.standing := s3.standing_flushDescs c stSuspended
  clear_value r
  exact hr.trans (h3.trans (h2.trans h1))

/-! ### Spring entry (R407, R408) -/

theorem State.standing_rasEntry (s : State) (kind response ctx unit addr : Nat) :
    (s.rasEntry kind response ctx unit addr).standing = s.standing := (Reported.event ..).standing

/-- What the rows of the table Spring Entry make of the power state. -/
def Power.sprung (x : Power) (limit : Nat) : Power := { x with limit := limit, vcoreOff := true, state := 2, spring := 2 }

theorem State.standing_withPairs (s : State) (x : Table TwinPair) : ({ s with pairs := x } : State).standing = s.standing := rfl

theorem State.standing_clearOuterCounters (s : State) : s.clearOuterCounters.standing = s.standing := rfl

theorem State.springRows_standing (s : State) :
    ∃ limit, s.springRows.standing = (s.power.sprung limit, s.cad, s.boot, s.pwrok) := by
  unfold State.springRows
  extract_lets s1 s2 out r s3 s4 s5 s6 s7 s8 s9 s10 s11
  have h1 : s1.standing = s.standing := State.foldl_same State.standing (fun u p => by split <;> rfl) _ _
  have h2 : s2.standing = s1.standing := s1.standing_withPairs _
  have hr : r.1.standing = s2.standing :=
    List.foldlRecOn (motive := fun a : State × Nat => a.1.standing = s2.standing) _ _ rfl
      fun a h c _ => (a.1.standing_suspend c).trans h
  have h4 : s4.standing = s3.standing := State.foldl_same State.standing (fun u n => by split <;> rfl) _ _
  have h5 : s5.standing = s4.standing := State.foldl_same State.standing (fun _ _ => by rfl) _ _
  have h6 : s6.standing = s5.standing :=
    (Reported.modPort s5.clearOuterCounters _ _).standing.trans s5.standing_clearOuterCounters
  have hall : s6.standing = s.standing := h6.trans (h5.trans (h4.trans (hr.trans (h2.trans h1))))
  obtain ⟨hpower, hcad, hboot, hpwrok⟩ := State.standing_eq_iff.1 hall
  have h9 : s9.standing = s8.standing := (Reported.setField ..).standing
  obtain ⟨hpower9, hcad9, hboot9, hpwrok9⟩ := State.standing_eq_iff.1 h9
  refine ⟨s6.rf .pwrLimit 0 11, ?_⟩
  rw [(Reported.devEvent _ 0x0031 2 _).standing]
  simp only [State.standing, Power.sprung, s11, s10, hpower9, hcad9, hboot9, hpwrok9, s8, s7, hpower, hcad, hboot, hpwrok]

/-- The device calls for spring mode for a cause that is not cleared at entry. -/
def State.sprungFor (s : State) (c : BitVec 4) : State :=
  { s with power := { s.power with cause := s.power.cause ||| c, cleared := s.power.cleared &&& ~~~c, spring := 1,
                                   springFrame := s.cad.frame.toNat } }

/-- A first cause of a device that is ON. -/
theorem State.springCause_first {s : State} (hon : s.power.state = 1) {bit : Nat} (hbit : bit ≠ 3) (kind unit addr : Nat) :
    s.springCause bit false kind unit addr =
      ((s.rasEntry kind 4 0 unit addr).sprungFor (BitVec.ofNat 4 (2 ^ bit))).springRows := by
  obtain ⟨hpower, -⟩ := State.standing_eq_iff.1 (s.standing_rasEntry kind 4 0 unit addr)
  have hentry : (s.rasEntry kind 4 0 unit addr).power.state = 1 := by rw [hpower, hon]
  have hfirst : ¬ (s.power.state = 2 ∧ (bit = 1 ∨ bit = 2)) := fun h => absurd (hon.symm.trans h.1) (by decide)
  rw [State.springCause, if_neg hfirst, if_neg hbit]
  generalize s.rasEntry kind 4 0 unit addr = k at hentry
  exact if_pos hentry

theorem State.springCause_standing {s : State} (hon : s.power.state = 1) {bit : Nat} (hbit : bit ≠ 3) (kind unit addr : Nat) :
    ∃ limit, (s.springCause bit false kind unit addr).standing =
      ((s.sprungFor (BitVec.ofNat 4 (2 ^ bit))).power.sprung limit, s.cad, s.boot, s.pwrok) := by
  obtain ⟨hpower, hcad, hboot, hpwrok⟩ := State.standing_eq_iff.1 (s.standing_rasEntry kind 4 0 unit addr)
  rw [State.springCause_first hon hbit]
  obtain ⟨limit, hrows⟩ := State.springRows_standing ((s.rasEntry kind 4 0 unit addr).sprungFor (BitVec.ofNat 4 (2 ^ bit)))
  generalize s.rasEntry kind 4 0 unit addr = k at *
  refine ⟨limit, hrows.trans ?_⟩
  simp only [State.sprungFor, hpower, hcad, hboot, hpwrok]

/-! ### The rows -/

theorem exec_thermalEmergency_due {s : State} {u : Nat} (h : s.power.hotSince = some u) (hdue : u + 10500000 ≤ s.now) :
    exec .thermalEmergency s = .next (s.springCause 0 false 6 unitMgmt 0) :=
  congrArg _ (if_pos (show s.lastedFor s.power.hotSince 10500000 = true by rw [h]; exact decide_eq_true hdue))

theorem exec_thermalClear_due {s : State} {u : Nat} (h : s.power.coolSince = some u) (hdue : u + 1050000000 ≤ s.now)
    (hcause : s.power.cause.getLsbD 0 = true) :
    exec .thermalClear s = .next { s with power := { s.power with cleared := s.power.cleared ||| 1 } } := by
  have hcool : s.lastedFor s.power.coolSince 1050000000 = true := by rw [h]; exact decide_eq_true hdue
  have hboth : (s.lastedFor s.power.coolSince 1050000000 && s.power.cause.getLsbD 0) = true := by rw [hcool, hcause]; rfl
  exact congrArg _ (if_pos hboth)

theorem exec_railFault_vcore {s : State} (st : RailStatus) (hoff : s.power.vcoreOff = false) (hon : s.power.state = 1) :
    exec (.railFault .vcore st) s =
      .next (({ s with power := { s.power with vcoreFault := true } } : State).springCause 1 false 5 unitMgmt 0) := by
  refine congrArg _ ((if_neg ?_).trans (if_pos hon))
  rw [hoff]
  exact Bool.false_ne_true

theorem exec_railClear_vcore {s : State} (hcause : s.power.cause.getLsbD 1 = true) (hvsram : s.power.vsramFault = false) :
    exec (.railClear .vcore) s =
      .next { s with power := { s.power with vcoreFault := false, cleared := s.power.cleared ||| 2 } } := by
  refine if_pos ?_
  change (s.power.cause.getLsbD 1 && !false && !s.power.vsramFault) = true
  rw [hcause, hvsram]; rfl

theorem BitVec.getLsbD_zero_or_one (x : BitVec 4) : (x ||| BitVec.ofNat 4 (2 ^ 0)).getLsbD 0 = true := by
  rw [BitVec.getLsbD_or]
  exact Bool.or_true _

theorem BitVec.getLsbD_zero_and_not_one (x : BitVec 4) : (x &&& ~~~BitVec.ofNat 4 (2 ^ 0)).getLsbD 0 = false := by
  rw [BitVec.getLsbD_and]
  exact Bool.and_false _

/-- Settles O38: the emergency enters spring mode by the rows of R408, and each rail's row is read off its status. -/
theorem heatAndRails : Obligations.HeatAndRails := by
  unfold Obligations.HeatAndRails
  refine ⟨?_, fun s u h hdue hcause => exec_thermalClear_due h hdue hcause, ?_, ?_,
    fun s st hoff hon => exec_railFault_vcore st hoff hon, fun s st hstate => congrArg _ (if_pos hstate),
    fun s found => rfl, fun s hcause hvsram => exec_railClear_vcore hcause hvsram⟩
  · intro s u h hdue hon
    obtain ⟨limit, hstanding⟩ := State.springCause_standing hon (bit := 0) (by decide) 6 unitMgmt 0
    rw [State.standing, Prod.mk.injEq, Prod.mk.injEq, Prod.mk.injEq] at hstanding
    obtain ⟨hpower, hcad, hboot, hpwrok⟩ := hstanding
    refine ⟨_, exec_thermalEmergency_due h hdue, ?_, ?_, ?_, ?_, hcad, hboot, hpwrok⟩
    · rw [hpower]; rfl
    · rw [hpower]; rfl
    · rw [hpower]; exact BitVec.getLsbD_zero_or_one _
    · rw [hpower]; exact BitVec.getLsbD_zero_and_not_one _
  · rintro s k hpwrok rfl
    change execThermtrip s = _
    simp only [execThermtrip, hpwrok, Bool.not_true, Bool.false_eq_true, if_false]
  · intro s st hpwrok hstate
    have hgo : ¬ (s.power.state = 3 ∨ (!s.pwrok) = true) := by
      rw [hpwrok]
      exact fun h => h.elim hstate Bool.false_ne_true
    change Host.Outcome.next (s.railStatus .vcoreS0 st) = _
    rw [State.railStatus, if_neg hgo]

end Sys2Proof.Machine
end

section
/-! Resets of the device and of a port (O39). -/

namespace Sys2Proof.Machine

theorem State.running_eq_true_iff {s : State} :
    s.running = true ↔ s.pwrok = true ∧ s.rstHigh = true ∧ s.steward.perstHigh = true := by
  simp only [State.running, Bool.and_eq_true, and_assoc]

theorem State.pwrok_of_running {s : State} (h : s.running = true) : s.pwrok = true := (State.running_eq_true_iff.1 h).1

/-! ### Cold and warm resets (R383 to R387) -/

theorem exec_pwrokRise_low {s : State} (role tm : Bool) (h : s.pwrok = false) :
    exec (.pwrokRise role tm) s = .next { (if role = s.portaRole then s else s.swapHosts).cold with
      pwrok := true, rstHigh := true, portaRole := role, testMode := tm, steward := { perstHigh := true },
      tenant := { perstHigh := true } } := by
  change execPwrokRise role tm s = _
  simp only [execPwrokRise, h, Bool.false_eq_true, if_false]

theorem exec_warmReset_running {s : State} (byPin : Bool) (h : s.running = true) :
    exec (.warmReset byPin) s =
      .next (if byPin then { s with rstHigh := false }
        else s.modPort .steward fun x => { x with perstHigh := false } : State).warmDown := by
  obtain ⟨hpwrok, hrst, hperst⟩ := State.running_eq_true_iff.1 h
  change execWarmReset byPin s = _
  simp only [execWarmReset, hpwrok, hrst, hperst, Bool.not_true, Bool.false_eq_true, if_false, Bool.and_self, if_true]

theorem State.warmDown_ready {s : State} (hstage : s.boot.stage ≠ 15) (hready : s.boot.everReady = true) : s.warmDown = s.warm :=
  (if_neg hstage).trans (if_pos hready)

/-- Both pins high, the cycle count from 0. -/
def State.released (s : State) : State :=
  ({ s with rstHigh := true, now := 0 } : State).modPort .steward fun x => { x with perstHigh := true }

theorem exec_warmResetRelease_held {s : State} (hpwrok : s.pwrok = true) (h : s.running = false) :
    exec .warmResetRelease s = .next s.released := by
  have hgo : ¬ (!s.pwrok || s.running) = true := by rw [hpwrok, h]; decide
  exact if_neg hgo

theorem State.running_released {s : State} (hpwrok : s.pwrok = true) : s.released.running = true :=
  State.running_eq_true_iff.2 ⟨hpwrok, rfl, rfl⟩

/-! ### The reset of the tenant port (R326, R384, R386) -/

/-- The tenant port with its reset asserted. -/
def State.portHeld (s : State) : State := s.modPort .tenant fun x => { x with perstHigh := false, linkUp := false, ide := false }

theorem exec_portReset_ready {s : State} (hrun : s.running = true) (hready : s.isReady = true) (hpower : s.power.state ≠ 3)
    (hperst : s.tenant.perstHigh = true) : exec .portReset s = .next s.portHeld.portDown := by
  have hgo : (s.running && s.isReady && s.power.state != 3) = true := by rw [hrun, hready, bne_iff_ne.2 hpower]; rfl
  have hout : ¬ (!s.pwrok || !s.tenant.perstHigh) = true := by rw [State.pwrok_of_running hrun, hperst]; decide
  refine (if_neg hout).trans (congrArg _ ?_)
  change (if (s.running && s.isReady && s.power.state != 3) = true then s.portHeld.portDown else s.portHeld) = _
  rw [hgo, if_pos rfl]

/-- The tenant port released, with its link trained. -/
def State.portTrained (s : State) : State := (s.modPort .tenant fun x => { x with perstHigh := true }).trainLink .tenant

theorem State.linkUp_portTrained (s : State) : s.portTrained.tenant.linkUp = true := rfl

theorem exec_portResetRelease_trains {s : State} (hrun : s.running = true) (hperst : s.tenant.perstHigh = false)
    (hrom : s.boot.stage ≠ 0) (hstop : s.boot.stage ≠ 15) (hspring : s.power.state ≠ 2) :
    exec .portResetRelease s = .next (match s.portTrained.tenant.readyDue with
      | some 2 => s.portTrained
      | some k => s.portTrained.giveReady .tenant k
      | none => s.portTrained) := by
  have hgo : (s.running && s.boot.stage != 0 && s.boot.stage != 15 && s.power.state != 2) = true := by
    rw [hrun, bne_iff_ne.2 hrom, bne_iff_ne.2 hstop, bne_iff_ne.2 hspring]; rfl
  have htrained : (if ((s.modPort .tenant fun x => { x with perstHigh := true }).running && s.boot.stage != 0 &&
      s.boot.stage != 15 && s.power.state != 2) = true then s.portTrained
      else s.modPort .tenant fun x => { x with perstHigh := true }) = s.portTrained := if_pos hgo
  have hin : ¬ (!s.pwrok || s.tenant.perstHigh) = true := by rw [State.pwrok_of_running hrun, hperst]; decide
  rw [← htrained]
  exact if_neg hin

/-- Settles O39: each row of the resets, its guards read off the state of the pins. -/
theorem resetsOfTheDeviceAndOfAPort : Obligations.ResetsOfTheDeviceAndOfAPort := by
  unfold Obligations.ResetsOfTheDeviceAndOfAPort
  refine ⟨?_, ?_, fun s => rfl, ?_,
    fun s hpwrok h => ⟨exec_warmResetRelease_held hpwrok h, State.running_released hpwrok⟩, ?_, ?_⟩
  · intro s tm hpwrok
    rw [exec_pwrokRise_low _ _ hpwrok, if_pos rfl]
  · intro s role tm hpwrok hrole
    rw [exec_pwrokRise_low _ _ hpwrok, if_neg hrole]
    rfl
  · intro s _ hrun hstage hready
    refine ⟨(exec_warmReset_running true hrun).trans ?_, (exec_warmReset_running false hrun).trans ?_⟩
    · exact congrArg _ (State.warmDown_ready (s := { s with rstHigh := false }) hstage hready)
    · exact congrArg _ (State.warmDown_ready (s := s.modPort .steward fun x => { x with perstHigh := false }) hstage hready)
  · rintro s k hrun hready hpower hperst rfl
    exact exec_portReset_ready hrun hready hpower hperst
  · rintro s k hrun hperst hrom hstop hspring rfl
    refine ⟨State.linkUp_portTrained s, fun hdue => ?_, fun n hn hdue => ?_⟩
    · rw [exec_portResetRelease_trains hrun hperst hrom hstop hspring]
      change s.portTrained.tenant.readyDue = none ∨ s.portTrained.tenant.readyDue = some 2 at hdue
      rcases hdue with h | h
      · rw [h]; rfl
      · rw [h]; rfl
    · rw [exec_portResetRelease_trains hrun hperst hrom hstop hspring]
      change s.portTrained.tenant.readyDue = some n at hdue
      rw [hdue]
      split
      · next h => exact absurd (Option.some.inj h) hn
      · next k _ h => rw [← Option.some.inj h]; rfl
      · next h => cases h

end Sys2Proof.Machine
end

section
/-! The stages of start-up (O40). -/

namespace Sys2Proof.Machine

theorem State.atStage_of {s : State} {n : Nat} (hrun : s.running = true) (h : s.boot.stage = n) : (!s.atStage n) = false := by
  rw [State.atStage, hrun, h]
  simp

/-! ### ROM, verification and identity (R389, R390, R414, R415) -/

/-- The links as ROM brings them up. -/
def State.linked (s : State) : State := if s.tenant.perstHigh then (s.trainLink .steward).trainLink .tenant else s.trainLink .steward

theorem exec_rom_atStage {s : State} (hrun : s.running = true) (hstage : s.boot.stage = 0) :
    exec .rom s = .next { s.linked with boot := { s.linked.boot with stage := 1 } } := by
  change execRom s = _
  rw [execRom, State.atStage_of hrun hstage]
  rfl

theorem State.linked_kept (s : State) : s.linked.boot = s.boot ∧ s.linked.steward.linkUp = true ∧ s.linked.hbm = s.hbm ∧
    s.linked.regs = s.regs ∧ s.linked.ctxs = s.ctxs ∧ s.linked.sites = s.sites := by
  unfold State.linked
  split
  · exact ⟨rfl, rfl, rfl, rfl, rfl, rfl⟩
  · exact ⟨rfl, rfl, rfl, rfl, rfl, rfl⟩

theorem exec_verifying_atStage {s : State} (hrun : s.running = true) (hstage : s.boot.stage = 2) :
    exec .verifying s = if !s.imageOk then .next (s.bootFail 2) else
      if !Config.signatureOk (memBytes s.boot.window 0 s.fwSize) then .next (s.bootFail 1) else
      .next { s with boot := { s.boot with
        stage := if s.boot.warm then 4 else 3, measurement := sha3 (memBytes s.boot.window 0 (s.fwSize - 3328)),
        version := BitVec.ofNat 32 (s.imageWord 12), svn := BitVec.ofNat 32 (s.imageWord 16) } } := by
  change execVerifying s = _
  rw [execVerifying, State.atStage_of hrun hstage]
  rfl

theorem exec_identity_atStage {s : State} (hrun : s.running = true) (hstage : s.boot.stage = 5) :
    exec .identity s = .next (
      if Config.identityOk s.free then { s with free := s.free + 1, boot := { s.boot with stage := 6, identity := true } }
      else (({ s with free := s.free + 1 } : State).bootLog.bootStop 4)) := by
  change execIdentity s = _
  rw [execIdentity, State.atStage_of hrun hstage]
  exact (apply_ite _ _ _ _).symm

/-! ### Cold training with every site answering (R273 to R275) -/

/-- A stack site after cold training with no channel that fails and no lane repaired. -/
def Stack.trainedAt (n k : Nat) : Stack := { present := true, trained := true, temp := Config.freeNat 53 [k, n] % 256 }

theorem failMask_nil (k : Nat) : failMask [] k = 0 := rfl

theorem State.forcedOut_cold {s : State} (hregs : s.regs = []) (k : Nat) : s.rfi .memChanForce k 0 32 = 0 := by
  have hfields : fieldsAt .memChanForce k = regFields .memChanForce :=
    (if_neg fun h => Reg.noConfusion h.1).trans (if_pos rfl)
  have hcold : coldValue .memChanForce k = 0 := by rw [coldValue, hfields]; rfl
  have hraw : s.rawReg .memChanForce k .steward = 0 := by rw [State.rawReg, hregs]; exact hcold
  rw [State.rfi, hraw]; rfl

theorem State.trainSite_all {s : State} (hregs : s.regs = []) (small : Bool) (answering : BitVec 12) (n k : Nat) :
    s.trainSite small answering [] [] n k =
      if answering.getLsbD k then s.modSite k fun _ => Stack.trainedAt n k else s := by
  rw [State.trainSite, State.forcedOut_cold hregs, failMask_nil]
  cases answering.getLsbD k <;> cases small <;> rfl

/-- The sites after training those of a list. -/
theorem State.trainSites (small : Bool) (answering : BitVec 12) (n : Nat) (l : List Nat) {s : State} (hregs : s.regs = []) :
    ∃ y, l.foldl (fun s k => s.trainSite small answering [] [] n k) s = { s with sites := y } ∧
      ∀ k, tgetD y k {} = if k ∈ l ∧ answering.getLsbD k = true then Stack.trainedAt n k else s.site k := by
  induction l generalizing s with
  | nil => exact ⟨s.sites, rfl, fun k => (if_neg (by simp)).symm⟩
  | cons a l ih =>
    rw [List.foldl_cons, State.trainSite_all hregs]
    by_cases ha : answering.getLsbD a = true
    · rw [if_pos ha]
      obtain ⟨y, hy, hsite⟩ := ih (s := s.modSite a fun _ => Stack.trainedAt n a) hregs
      refine ⟨y, hy, fun k => (hsite k).trans ?_⟩
      by_cases hk : k = a
      · subst hk
        rw [State.site_modSite, ite_self, if_pos ⟨List.mem_cons_self, ha⟩]
      · rw [State.site_modSite_ne s _ (Ne.symm hk)]
        simp only [List.mem_cons, hk, false_or]
    · rw [if_neg ha]
      obtain ⟨y, hy, hsite⟩ := ih hregs
      refine ⟨y, hy, fun k => (hsite k).trans ?_⟩
      by_cases hk : k = a
      · subst hk
        rw [if_neg (fun h => ha h.2), if_neg (fun h => ha h.2)]
      · simp only [List.mem_cons, hk, false_or]

/-- What the choice of the stacks' self-refresh leaves alone. -/
theorem State.settleStacks_kept (s : State) :
    ∃ y, s.settleStacks = { s with sites := y } ∧ ∀ k, (tgetD y k {}).trained = (s.site k).trained := by
  have hstack (u : State) (st : Nat) :
      ∃ y, u.settleStack st = { u with sites := y } ∧ ∀ k, (tgetD y k {}).trained = (u.site k).trained := by
    unfold State.settleStack
    split
    · exact ⟨u.sites, rfl, fun _ => rfl⟩
    · refine ⟨_, rfl, fun k => ?_⟩
      by_cases hk : st = k
      · subst hk
        rw [tgetD_tset_self]
      · exact congrArg Stack.trained (tgetD_tset_ne _ _ _ hk)
  refine List.foldlRecOn
    (motive := fun t : State => ∃ y, t = { s with sites := y } ∧ ∀ k, (tgetD y k {}).trained = (s.site k).trained)
    _ _ ⟨s.sites, rfl, fun _ => rfl⟩ fun u ⟨y, hu, hy⟩ st _ => ?_
  obtain ⟨z, ht, hz⟩ := hstack u st
  subst hu
  exact ⟨z, ht, fun k => (hz k).trans (hy k)⟩

/-- With no failing channel and every site there, training does not stop. -/
theorem State.trainBad_nil {s : State} {small : Bool}
    (h : small = false → ∀ k, k < 12 → (s.site k).present = true ∧ (s.site k).out = 0) : s.trainBad small [] = false := by
  unfold State.trainBad
  cases small with
  | true => simp [failMask_nil]
  | false =>
    have hchan (k ch : Nat) (hk : k < 12) (hch : ch < 32) : s.chanOk k ch = true := by
      obtain ⟨hpresent, hout⟩ := h rfl k hk
      simp [State.chanOk, State.populated, hk, hch, hpresent, hout]
    have hworking (k : Nat) (hk : k < 12) : s.workingChans k = List.range 32 :=
      List.filter_eq_self.2 fun ch hch => hchan k ch hk (List.mem_range.1 hch)
    have hfew : (s.stackList.any fun k => decide ((s.workingChans k).length < 16)) = false := by
      rw [List.any_eq_false]
      intro k hk
      have hk12 : k < 12 := List.mem_range.1 (List.mem_filter.1 hk).1
      rw [hworking k hk12]
      simp
    simp [hfew, hchan 0 0 (by decide) (by decide), hchan 1 0 (by decide) (by decide)]

theorem variantOf_answering {answering : BitVec 12} (h : answering = 0xFFF ∨ answering = 0x555) :
    variantOf answering = some (answering == 0x555) := by
  rcases h with h | h
  · rw [h]; rfl
  · rw [h]; rfl

/-- The device after cold training with every site of its variant answering. -/
theorem exec_training_all {s : State} {answering : BitVec 12} (hrun : s.running = true) (hstage : s.boot.stage = 4)
    (hcold : s.boot.warm = false) (hvariant : answering = 0xFFF ∨ answering = 0x555) (hregs : s.regs = []) :
    ∃ y, exec (.training answering [] []) s = .next ({ s with
        free := s.free + 1, sites := y,
        boot := { s.boot with stage := 5, variant := some (answering == 0x555) } } : State).settleStacks ∧
      ∀ k, tgetD y k {} = if k ∈ List.range 12 ∧ answering.getLsbD k = true then Stack.trainedAt s.free k else s.site k := by
  obtain ⟨y, hy, hsite⟩ := State.trainSites (answering == 0x555) answering s.free (List.range 12)
    (s := { s with free := s.free + 1 }) hregs
  refine ⟨y, ?_, hsite⟩
  have hgood : ({ s with free := s.free + 1, sites := y, boot := { s.boot with variant := some (answering == 0x555) } } : State).trainBad
      (answering == 0x555) [] = false := by
    refine State.trainBad_nil fun hlarge k hk => ?_
    have hfull : answering = 0xFFF := hvariant.resolve_right fun h => by rw [h] at hlarge; exact absurd hlarge (by decide)
    have hbit : answering.getLsbD k = true := by rw [hfull]; interval_cases k <;> rfl
    have hk : tgetD y k {} = Stack.trainedAt s.free k := (hsite k).trans (if_pos ⟨List.mem_range.2 hk, hbit⟩)
    exact ⟨congrArg Stack.present hk, congrArg Stack.out hk⟩
  have hsmall : (some (answering == 0x555) == some true) = (answering == 0x555) := by
    cases answering == 0x555 <;> rfl
  change execTraining answering [] [] s = _
  rw [execTraining, State.atStage_of hrun hstage, hcold, variantOf_answering hvariant]
  simp only [Bool.false_eq_true, if_false, State.fresh, hsmall, hy, hgood]

/-! ### INIT (R389, R390) -/

theorem State.applyShare_eq (s : State) (percent : Nat) : ∃ f y, s.applyShare percent = { s with free := f, sites := y } := by
  refine ⟨s.free + 1, ?_⟩
  refine List.foldlRecOn (motive := fun t : State => ∃ y, t = { s with free := s.free + 1, sites := y }) _ _ ⟨s.sites, rfl⟩ ?_
  rintro u ⟨y, rfl⟩ k -
  exact ⟨_, rfl⟩

/-- The values that INIT sets touch registers, sites and the structure table's place. -/
theorem State.initValues_eq (s : State) : ∃ r p f y,
    s.initValues = { s with regs := r, boot := { s.boot with structHome := p }, free := f, sites := y } := by
  unfold State.initValues
  extract_lets n home s1 _ s2 s3
  obtain ⟨f, y, h⟩ := s3.applyShare_eq (s3.rf .txnShadowCfg 0 5)
  rw [h]
  exact ⟨_, _, f, y, rfl⟩

theorem State.placeImage_eq (s : State) : ∃ m, s.placeImage = { s with hbm := m } := ⟨_, rfl⟩

/-- Context 0, the cadence unit and the pairs as INIT sets them. -/
theorem State.initPairs_eq (s : State) : ∃ (x : Ctx) (c : Cad) (ps : Table TwinPair) (xs : Table Arr) (f : Nat),
    s.initCtx.initCad.initPairs = { s with ctxs := tset s.ctxs 0 x, cad := c, pairs := ps, arrays := xs, free := f } ∧
      x.kind = .management ∧ x.port = .steward :=
  ⟨_, _, _, _, _, rfl, rfl, rfl⟩

theorem Reported.giveReady (s : State) (p : Port) (cause : Nat) : Reported s (s.giveReady p cause) := by
  unfold State.giveReady
  split
  · exact (Reported.modPort s p _).trans (.event ..)
  · exact .modPort s p _

/-- The device at the end of INIT, before it reports READY. -/
def State.started (s : State) : State :=
  let k := ({ s.placeImage with boot := { s.boot with window := [] }, slices := [] } : State).initValues.initCtx.initCad.initPairs
  { k with free := k.free + 1, power := { k.power with state := 1, junction := Config.freeNat 56 [k.free] % 256 },
           boot := { k.boot with stage := 7, everReady := true } }

/-- READY reported on each port, and a write that was refused before. -/
def State.announced (s : State) : State :=
  let k := (s.giveReady .steward (if s.boot.warm then 1 else 0)).giveReady .tenant (if s.boot.warm then 1 else 0)
  match k.boot.refused with
  | some e => ({ k with boot := { k.boot with refused := none } } : State).cfgError e.1 e.2
  | none => k

theorem exec_init_atStage {s : State} (hrun : s.running = true) (hstage : s.boot.stage = 6) :
    exec .init s = .next (if s.started.announced.power.vcoreFault || s.started.announced.power.vsramFault then
      s.started.announced.springCause 1 false 5 unitMgmt 0 else s.started.announced) := by
  change execInit s = _
  rw [execInit, State.atStage_of hrun hstage]
  rfl

/-- What the report of READY leaves alone. -/
theorem State.announced_kept (s : State) : s.announced.power = s.power ∧ s.announced.boot.stage = s.boot.stage ∧
    s.announced.boot.window = s.boot.window ∧ s.announced.ctxs = s.ctxs ∧ s.announced.objects = s.objects ∧
    s.announced.txns = s.txns ∧ s.announced.problems = s.problems := by
  obtain ⟨a, b, r, q, m, n, h⟩ := (Reported.giveReady s .steward (if s.boot.warm then 1 else 0)).trans
    (.giveReady _ .tenant (if s.boot.warm then 1 else 0))
  unfold State.announced
  rw [h]
  dsimp only
  split
  · exact ⟨rfl, rfl, rfl, rfl, rfl, rfl, rfl⟩
  · exact ⟨rfl, rfl, rfl, rfl, rfl, rfl, rfl⟩

theorem State.started_kept (s : State) : s.started.boot.stage = 7 ∧ s.started.boot.window = [] ∧ s.started.power.state = 1 ∧
    s.started.power.vcoreFault = s.power.vcoreFault ∧ s.started.power.vsramFault = s.power.vsramFault ∧
    s.started.objects = s.objects ∧ s.started.txns = s.txns ∧ s.started.problems = s.problems ∧
    ∃ x : Ctx, s.started.ctxs = tset s.ctxs 0 x ∧ x.kind = .management ∧ x.port = .steward := by
  obtain ⟨m, himage⟩ := s.placeImage_eq
  obtain ⟨r, p, f, y, hvalues⟩ := State.initValues_eq { s with hbm := m, boot := { s.boot with window := [] }, slices := [] }
  obtain ⟨x, c, ps, xs, g, hrest, hkind, hport⟩ := State.initPairs_eq { s with
    hbm := m, regs := r, boot := { s.boot with window := [], structHome := p }, slices := [], free := f, sites := y }
  simp only [State.started, himage, hvalues, hrest, true_and]
  exact ⟨x, rfl, hkind, hport⟩

/-- Settles O40: each stage in its order; training by the sites it trains, INIT by what it and the report of READY touch. -/
theorem startUpGoesThroughItsStages : Obligations.StartUpGoesThroughItsStages := by
  unfold Obligations.StartUpGoesThroughItsStages
  refine ⟨?_, ?_, ?_, ?_, fun s hrun hstage => exec_identity_atStage hrun hstage, ?_⟩
  · intro s hrun hstage
    obtain ⟨hboot, hlink, hhbm, hregs, hctxs, hsites⟩ := s.linked_kept
    exact ⟨_, exec_rom_atStage hrun hstage, congrArg (fun b : Boot => { b with stage := 1 }) hboot, hlink,
      hhbm, hregs, hctxs, hsites⟩
  · intro s hrun hstage himage
    rw [exec_verifying_atStage hrun hstage, himage]
    rfl
  · intro s hrun hstage himage
    rw [exec_verifying_atStage hrun hstage, himage]
    cases Config.signatureOk (memBytes s.boot.window 0 s.fwSize) <;> rfl
  · intro s answering hrun hstage hcold hvariant hregs hsites
    obtain ⟨y, htrain, hy⟩ := exec_training_all hrun hstage hcold hvariant hregs
    obtain ⟨z, hsettle, hz⟩ := State.settleStacks_kept { s with
      free := s.free + 1, sites := y, boot := { s.boot with stage := 5, variant := some (answering == 0x555) } }
    rw [htrain, hsettle]
    refine ⟨_, rfl, rfl, rfl, hregs, rfl, fun k hk => (hz k).trans ((congrArg Stack.trained (hy k)).trans ?_)⟩
    cases hbit : answering.getLsbD k with
    | true => rw [if_pos ⟨List.mem_range.2 hk, rfl⟩]; rfl
    | false =>
      rw [if_neg (fun h => Bool.false_ne_true h.2), State.site, hsites]
      rfl
  · intro s hrun hstage hvcore hvsram
    obtain ⟨hstage7, hwindow, hon, hvcore', hvsram', hobjects, htxns, hproblems, x, hctxs, hkind, hport⟩ := s.started_kept
    obtain ⟨kpower, kstage, kwindow, kctxs, kobjects, ktxns, kproblems⟩ := s.started.announced_kept
    have hfaults : ¬ (s.started.announced.power.vcoreFault || s.started.announced.power.vsramFault) = true := by
      rw [kpower, hvcore', hvsram', hvcore, hvsram]; decide
    have htable : s.started.announced.ctxs = tset s.ctxs 0 x := kctxs.trans hctxs
    refine ⟨_, (exec_init_atStage hrun hstage).trans (congrArg _ (if_neg hfaults)), ?_, ?_, kwindow.trans hwindow, x, ?_, hkind, hport,
      fun c hc => ?_, kobjects.trans hobjects, ktxns.trans htxns, kproblems.trans hproblems⟩
    · rw [State.isReady, kstage, hstage7]; rfl
    · rw [kpower, hon]
    · rw [State.ctx?, htable, tget_tset_self]
    · rw [State.ctx?, htable, tget_tset_ne _ _ (Ne.symm hc)]
      rfl

end Sys2Proof.Machine
end

section
/-! Writes of peers and peers that are lost (O47). -/

namespace Sys2Proof.Machine

/-! ### Writes into the landing window (R334 to R336, R412) -/

/-- The state in which a write of a rank has been heard. -/
def State.hearing (s : State) (r : Nat) : State := { s with group := s.group.heard r }

/-- Credit of a rank that has been heard. -/
def State.credited (s : State) (r n : Nat) : State :=
  { s with group := ({ s.group with outstanding := tset s.group.outstanding r (tgetD s.group.outstanding r 0 - n) } : Group).send r 0 }

/-- Context that the bytes of data count for. -/
def State.dataCtx (s : State) (e : Early) : Nat :=
  match s.group.flights.find? fun f => f.takes e && s.waitsOn f e.rank with
  | some f => f.ctx
  | none => 0

/-- Data of a rank that has been heard. -/
def State.delivered (s : State) (e : Early) : State :=
  let k := (s.pulse 0x248 0 e.bytes.length (s.dataCtx e) 0).giveData e
  k.collSettle k.group.flights.length

/-- What a write of a rank brings. -/
def State.landed (s : State) (r : Nat) : PeerPayload → State
  | .credit n => (s.hearing r).credited r n
  | .data key sub fmt root count bytes =>
    (s.hearing r).delivered { rank := r, key := key, sub := sub, fmt := fmt, root := root, count := count, bytes := bytes }

theorem exec_peerWrite_open {s : State} (id : Nat) (payload : PeerPayload) (hopen : s.portOpen s.peerPort = true) :
    exec (.peerWrite id payload) s = match if s.rf .colCfg 0 1 = 1 then s.peerRank id else none with
      | none => .next (s.cfgError s.peerPort landingOffset)
      | some r => .next (s.landed r payload) := by
  change execPeerWrite id payload s = _
  rw [execPeerWrite, hopen]
  cases payload with
  | credit n => rfl
  | data key sub fmt root count bytes => rfl

theorem exec_peerWrite_ofRank {s : State} {id r : Nat} (payload : PeerPayload) (hopen : s.portOpen s.peerPort = true)
    (hon : s.rf .colCfg 0 1 = 1) (hrank : s.peerRank id = some r) :
    exec (.peerWrite id payload) s = .next (s.landed r payload) := by
  rw [exec_peerWrite_open id payload hopen, if_pos hon, hrank]

theorem exec_peerWrite_ofNone {s : State} {id : Nat} (payload : PeerPayload) (hopen : s.portOpen s.peerPort = true)
    (h : s.rf .colCfg 0 1 = 0 ∨ s.peerRank id = none) :
    exec (.peerWrite id payload) s = .next (s.cfgError s.peerPort 0x901000) := by
  have hnone : (if s.rf .colCfg 0 1 = 1 then s.peerRank id else none) = none := by
    rcases h with h | h
    · rw [h, if_neg (by decide)]
    · rw [h, ite_self]
  rw [exec_peerWrite_open id payload hopen, hnone]
  rfl

theorem State.dataCtx_of_find {s : State} {e : Early} {f : Coll}
    (h : s.group.flights.find? (fun f => f.takes e && s.waitsOn f e.rank) = some f) : s.dataCtx e = f.ctx := by
  rw [State.dataCtx, h]

/-! ### Peers that are lost (R218, R336) -/

theorem State.awaits_of_any {s : State} {rank : Nat} (hon : s.collOn = true)
    (h : (s.group.flights.filter fun f => s.waitsOn f rank) ≠ [] ∨ (s.txns.filter fun t => t.votesWait s rank) ≠ [] ∨
      s.starved rank = true) : s.awaits rank = true := by
  have hany {α : Type} {l : List α} {p : α → Bool} (hl : l.filter p ≠ []) : l.any p = true := by
    obtain ⟨a, ha⟩ := List.exists_mem_of_ne_nil _ hl
    exact List.any_eq_true.2 ⟨a, (List.mem_filter.1 ha).1, (List.mem_filter.1 ha).2⟩
  rw [State.awaits, hon, Bool.true_and, Bool.or_eq_true, Bool.or_eq_true]
  rcases h with h | h | h
  · exact .inl (.inl (hany h))
  · exact .inl (.inr (hany h))
  · exact .inr h

theorem exec_collectiveTimeout_due {s : State} {rank u : Nat} (hawait : s.awaits rank = true)
    (hsince : tget s.group.waitFrom rank = some u) (hdue : u + 1050000 * s.rf .colCfg 19 13 ≤ s.now) :
    exec (.collectiveTimeout rank) s = .next
      (((((s.group.flights.filter fun f => s.waitsOn f rank).map (·.ctx) ++
        (if s.starved rank then (s.group.flights.filter fun f => f.cut.contains rank).map (·.ctx) else []) ++
        (s.txns.filter fun t => t.votesWait s rank).map (·.ctx)).eraseDups.foldl (fun (s : State) c => s.teardown c 1)
        { s with group := { s.group with lost := s.group.lost ||| BitVec.ofNat 64 (2 ^ rank) } })).voterLost rank) := by
  have hlate : s.lastedFor (tget s.group.waitFrom rank) (1000 * cyclesPerUs * s.rf .colCfg 19 13) = true := by
    rw [hsince]; exact decide_eq_true hdue
  refine if_neg ?_
  rw [hawait, hlate]
  exact Bool.false_ne_true

/-- Settles O47: a write by its rank and payload, a timeout by what waits on the rank. -/
theorem peersDeliverOrAreLost : Obligations.PeersDeliverOrAreLost := by
  unfold Obligations.PeersDeliverOrAreLost
  refine ⟨fun s id r n hopen hon hrank => exec_peerWrite_ofRank _ hopen hon hrank, ?_,
    fun s id payload hopen h => exec_peerWrite_ofNone payload hopen h, ?_⟩
  · rintro s id r key sub fmt root count bytes f e j k hopen hon hrank rfl rfl hfind rfl
    rw [exec_peerWrite_ofRank _ hopen hon hrank, State.landed, State.delivered, State.dataCtx_of_find (s := s.hearing r) hfind]
    rfl
  · rintro s rank u fs vs starved on hon hsince hdue rfl rfl rfl hany rfl
    exact exec_collectiveTimeout_due (State.awaits_of_any hon hany) hsince hdue

end Sys2Proof.Machine
end
